-- ==== Sys2Proof/Word.lean ====
section
/-!
DEFINITION. The word types of the CGK-640 and the 64-lane values: R54 gives the widths.
A 64-lane value is a list of 64 lanes of 64 bits; an execute group uses the low 32 bits of each (R54).
-/

namespace Sys2Proof

/-- A uniform register, 32 bits (R54). -/
abbrev Word := BitVec 32

/-- A lane of an access group, a uniform pair, a PC or a virtual address (R54, R193, R83). -/
abbrev Dword := BitVec 64

/-- A byte of memory. -/
abbrev Byte := BitVec 8

/-- A lane mask: bit i is lane i (R54). -/
abbrev Mask := BitVec 64

/-- A 64-lane value, lane 0 first. -/
abbrev Lanes := List Dword

namespace Lanes

/-- Lane `i`; a lane beyond the list reads as zero. -/
def get (v : Lanes) (i : Nat) : Dword := v.getD i 0

/-- The 64-lane value whose lane `i` is `f i`. -/
def build (f : Nat → Dword) : Lanes := (List.range 64).map f

/-- Zero in every lane. -/
def zero : Lanes := List.replicate 64 0

/-- `new` in the lanes of `m`, `old` in every other lane (R58). -/
def merge (m : Mask) (new old : Lanes) : Lanes :=
  build fun i => if m.getLsbD i then new.get i else old.get i

/-- `new` in the lanes of `m`, zero in every other lane (R63, R199). -/
def masked (m : Mask) (new : Lanes) : Lanes :=
  build fun i => if m.getLsbD i then new.get i else 0

end Lanes

/-- The mask whose bit `i` is `f i`. -/
def maskOf (f : Nat → Bool) : Mask :=
  BitVec.ofNat 64 (((List.range 64).filter f).foldl (fun a i => a + 2 ^ i) 0)

/-- The masked write of R252: the bits of `m` come from `new`, every other bit keeps its value. -/
def mergeMask (m new old : Mask) : Mask := (new &&& m) ||| (old &&& ~~~m)

/-- The number of set bits of a mask. -/
def popMask (m : Mask) : Nat := ((List.range 64).filter fun i => m.getLsbD i).length

/-- The lowest set bit of a mask, if any. -/
def lowestLane (m : Mask) : Option Nat := (List.range 64).find? fun i => m.getLsbD i

/-- The number of set bits of a natural number below `w` bits. -/
def popNat (w n : Nat) : Nat := ((List.range w).filter fun i => n.testBit i).length

/-- The two's complement value of the low `w` bits of `n`. -/
def sextNat (w n : Nat) : Int :=
  let m := n % 2 ^ w
  if w ≠ 0 ∧ 2 ^ (w - 1) ≤ m then (m : Int) - (2 ^ w : Nat) else m

/-- The low `w` bits of an integer, as a natural number. -/
def wrapInt (w : Nat) (z : Int) : Nat := (z % ((2 ^ w : Nat) : Int)).toNat

/-- Bits `[lo + w - 1 : lo]` of a natural number. -/
def bitsNat (n lo w : Nat) : Nat := (n >>> lo) % 2 ^ w

/-- The little-endian value of a byte string (R129). -/
def leValue : List Byte → Nat
  | [] => 0
  | b :: bs => b.toNat + 256 * leValue bs

/-- The low `n` bytes of a value, little-endian (R129). -/
def leBytes : Nat → Nat → List Byte
  | 0, _ => []
  | n + 1, v => BitVec.ofNat 8 v :: leBytes n (v / 256)

end Sys2Proof
end

