-- ==== Sys2Proof/Machine/Numbers.lean ====
section
/-!
DEFINITION. Number formats, rounding and summation: R128 to R151. Every value is held exactly as an
extended dyadic (`Xr`), and each helper of the manual has one definition here.
-/

namespace Sys2Proof.Machine

/-- An extended dyadic number: NaN, an infinity, or ±m·2^e. A zero keeps its sign (R130). -/
inductive Xr where
  | nan
  | inf (neg : Bool)
  | fin (neg : Bool) (m : Nat) (e : Int)
  deriving DecidableEq, Repr

/-- The rounding modes of R138, in the order of their codes. -/
inductive Rm where
  | rne | rtz | rup | rdn
  deriving DecidableEq, Repr

/-- The rounding mode of a 2-bit code (R138). -/
def Rm.ofCode (c : BitVec 2) : Rm :=
  if c = 0 then .rne else if c = 1 then .rtz else if c = 2 then .rup else .rdn

/-- How a float format encodes infinities and NaN (R131). -/
inductive Specials where
  | ieee | e4m3 | none
  deriving DecidableEq, Repr

/-- The parameters of a float element format (R130, R131). -/
structure FpFmt where
  expBits : Nat
  manBits : Nat
  bias : Nat
  specials : Specials
  deriving DecidableEq, Repr

def fp32 : FpFmt := ⟨8, 23, 127, .ieee⟩
def fp16 : FpFmt := ⟨5, 10, 15, .ieee⟩
def bf16 : FpFmt := ⟨8, 7, 127, .ieee⟩
def fpE4M3 : FpFmt := ⟨4, 3, 7, .e4m3⟩
def fpE5M2 : FpFmt := ⟨5, 2, 15, .ieee⟩
def fpE2M3 : FpFmt := ⟨2, 3, 1, .none⟩
def fpE3M2 : FpFmt := ⟨3, 2, 3, .none⟩
def fpE2M1 : FpFmt := ⟨2, 1, 1, .none⟩

namespace FpFmt

/-- The width of an element. -/
def width (f : FpFmt) : Nat := 1 + f.expBits + f.manBits

/-- The magnitude code of the largest finite value (R130). -/
def maxCode (f : FpFmt) : Nat :=
  match f.specials with
  | .ieee => (2 ^ f.expBits - 1) * 2 ^ f.manBits - 1
  | .e4m3 => 2 ^ (f.expBits + f.manBits) - 2
  | .none => 2 ^ (f.expBits + f.manBits) - 1

/-- The code of +∞ in a format that has one. -/
def infCode (f : FpFmt) : Nat := (2 ^ f.expBits - 1) * 2 ^ f.manBits

/-- The canonical NaN that the device produces (R131); +0 where the format has none (R139). -/
def nanCode (f : FpFmt) : Nat :=
  match f.specials with
  | .ieee => f.infCode + 2 ^ (f.manBits - 1)
  | .e4m3 => 2 ^ (f.expBits + f.manBits) - 1
  | .none => 0

/-- Whether the format has an infinity. -/
def hasInf (f : FpFmt) : Bool := f.specials = .ieee

/-- The sign bit, placed. -/
def signBit (f : FpFmt) (neg : Bool) : Nat := if neg then 2 ^ (f.expBits + f.manBits) else 0

/-- The exact value of an encoding (R130, R131, R137). -/
def decode (f : FpFmt) (code : Nat) : Xr :=
  let c := code % 2 ^ f.width
  let neg := c.testBit (f.expBits + f.manBits)
  let mag := c % 2 ^ (f.expBits + f.manBits)
  let m := mag % 2 ^ f.manBits
  let e := mag / 2 ^ f.manBits
  if f.specials = .ieee ∧ e = 2 ^ f.expBits - 1 then
    if m = 0 then .inf neg else .nan
  else if f.specials = .e4m3 ∧ mag = 2 ^ (f.expBits + f.manBits) - 1 then .nan
  else if e = 0 then .fin neg m (1 - (f.bias : Int) - f.manBits)
  else .fin neg (2 ^ f.manBits + m) ((e : Int) - f.bias - f.manBits)

end FpFmt

/-- The position of the highest set bit of `n`: ⌊log2 n⌋ for n ≠ 0. -/
def flog2 (n : Nat) : Nat := Nat.log2 n

/-- `m·2^(e-q)` rounded to an integer in `mode`; `sticky` says that the true magnitude lies above
`m·2^e` by less than one unit of it. -/
def roundShift (mode : Rm) (neg : Bool) (m : Nat) (e q : Int) (sticky : Bool) : Nat :=
  if q ≤ e then m * 2 ^ (e - q).toNat
  else
    let s := (q - e).toNat
    let r := m / 2 ^ s
    let rem := m % 2 ^ s
    let half := 2 ^ (s - 1)
    let inexact : Bool := rem ≠ 0 || sticky
    let up : Bool :=
      match mode with
      | .rne => decide (half < rem) || (rem == half && (sticky || r % 2 == 1))
      | .rtz => false
      | .rup => inexact && !neg
      | .rdn => inexact && neg
    if up then r + 1 else r

/-- The magnitude code, with no upper limit on the exponent, of `m·2^e` rounded to the grid of `f`
(R139: the subnormal grid below the smallest normal). -/
def gridCode (f : FpFmt) (mode : Rm) (neg : Bool) (m : Nat) (e : Int) (sticky : Bool) : Nat :=
  let qmin : Int := 1 - (f.bias : Int) - f.manBits
  let q := max qmin ((flog2 m : Int) + e - f.manBits)
  let r := roundShift mode neg m e q sticky
  (q - qmin).toNat * 2 ^ f.manBits + r

/-- The overflow result of R138 for a mode and a sign: true for an infinity, false for ±max. -/
def overflowsToInf (mode : Rm) (neg : Bool) : Bool :=
  match mode with
  | .rne => true
  | .rtz => false
  | .rup => !neg
  | .rdn => neg

/-- `round_fp` of R139 on a finite magnitude with a sticky tail. -/
def roundFin (f : FpFmt) (mode : Rm) (sat : Bool) (neg : Bool) (m : Nat) (e : Int) (sticky : Bool) : Nat :=
  if m = 0 then f.signBit neg
  else
    let c := gridCode f mode neg m e sticky
    if f.maxCode < c then
      if !sat && f.hasInf && overflowsToInf mode neg then f.signBit neg + f.infCode
      else f.signBit neg + f.maxCode
    else f.signBit neg + c

/-- `round_fp(x, fmt, mode, sat)` of R139. -/
def roundFp (x : Xr) (f : FpFmt) (mode : Rm) (sat : Bool) : Nat :=
  match x with
  | .nan => f.nanCode
  | .inf neg => if sat || !f.hasInf then f.signBit neg + f.maxCode else f.signBit neg + f.infCode
  | .fin neg m e => roundFin f mode sat neg m e false

namespace Xr

/-- The signed mantissa. -/
def sgn (neg : Bool) (m : Nat) : Int := if neg then -(m : Int) else m

/-- A finite value from a signed mantissa; an exact zero takes the sign `zneg`. -/
def ofInt (z : Int) (e : Int) (zneg : Bool := false) : Xr :=
  if z = 0 then .fin zneg 0 0 else .fin (z < 0) z.natAbs e

/-- The negation; NaN stays NaN. -/
def neg : Xr → Xr
  | .nan => .nan
  | .inf s => .inf (!s)
  | .fin s m e => .fin (!s) m e

/-- Whether the value is zero of either sign. -/
def isZero : Xr → Bool
  | .fin _ 0 _ => true
  | _ => false

/-- Whether the value is NaN. -/
def isNan : Xr → Bool
  | .nan => true
  | _ => false

/-- Whether the value is NaN or infinite. -/
def isSpecial : Xr → Bool
  | .fin _ _ _ => false
  | _ => true

/-- The sign, false for NaN. -/
def sign : Xr → Bool
  | .nan => false
  | .inf s => s
  | .fin s _ _ => s

/-- The exact product; 0 × ∞ is NaN (R255). -/
def mul : Xr → Xr → Xr
  | .nan, _ => .nan
  | _, .nan => .nan
  | .inf s, .inf t => .inf (s != t)
  | .inf s, .fin t m _ => if m = 0 then .nan else .inf (s != t)
  | .fin s m _, .inf t => if m = 0 then .nan else .inf (s != t)
  | .fin s m e, .fin t n f => .fin (s != t) (m * n) (e + f)

/-- The exact sum. ∞ − ∞ is NaN. An exact zero sum is −0 when both addends are −0 and otherwise takes
the sign `zneg` (R138: −0 under RDN, +0 under the other modes). -/
def add (zneg : Bool) : Xr → Xr → Xr
  | .nan, _ => .nan
  | _, .nan => .nan
  | .inf s, .inf t => if s = t then .inf s else .nan
  | .inf s, .fin _ _ _ => .inf s
  | .fin _ _ _, .inf t => .inf t
  | .fin s m e, .fin t n f =>
    if m = 0 ∧ n = 0 then .fin (zneg || s && t) 0 0
    else if m = 0 then .fin t n f
    else if n = 0 then .fin s m e
    else
      let q := min e f
      ofInt (sgn s m * 2 ^ (e - q).toNat + sgn t n * 2 ^ (f - q).toNat) q zneg

/-- The value times 2^k. -/
def scale (k : Int) : Xr → Xr
  | .nan => .nan
  | .inf s => .inf s
  | .fin s m e => .fin s m (e + k)

/-- Exact comparison of two values that are not NaN, with −0 equal to +0. -/
def cmp : Xr → Xr → Ordering
  | .inf s, .inf t => if s = t then .eq else if s then .lt else .gt
  | .inf s, _ => if s then .lt else .gt
  | _, .inf t => if t then .gt else .lt
  | .fin s m e, .fin t n f =>
    let q := min e f
    compare (sgn s m * 2 ^ (e - q).toNat) (sgn t n * 2 ^ (f - q).toNat)
  | .nan, _ => .eq
  | _, .nan => .eq

end Xr

/-- The sum `a + b` rounded once to `f` (R138). -/
def fpAdd (f : FpFmt) (mode : Rm) (a b : Nat) : Nat :=
  roundFp (Xr.add (mode = .rdn) (f.decode a) (f.decode b)) f mode false

/-- The product `a × b` rounded once (R138). -/
def fpMul (f : FpFmt) (mode : Rm) (a b : Nat) : Nat :=
  roundFp ((f.decode a).mul (f.decode b)) f mode false

/-- `±(a × b) ± c` with one rounding (R138, R255). -/
def fpFma (f : FpFmt) (mode : Rm) (negP negC : Bool) (a b c : Nat) : Nat :=
  let p := (f.decode a).mul (f.decode b)
  let p := if negP then p.neg else p
  let z := if negC then (f.decode c).neg else f.decode c
  roundFp (Xr.add (mode = .rdn) p z) f mode false

/-- The sum of two binary32 encodings under RNE. -/
def f32Add (a b : Nat) : Nat := fpAdd fp32 .rne a b

/-- The binary32 encoding of −0. -/
def f32NegZero : Nat := 2 ^ 31

/-- The canonical binary32 NaN (R131). -/
def f32Nan : Nat := fp32.nanCode

/-! ### Integers (R129, R142) -/

/-- An integer element format: its width and whether it is signed (R128). -/
structure IntFmt where
  width : Nat
  signed : Bool
  deriving DecidableEq, Repr

namespace IntFmt

def minVal (f : IntFmt) : Int := if f.signed then -(2 ^ (f.width - 1) : Nat) else 0
def maxVal (f : IntFmt) : Int := if f.signed then (2 ^ (f.width - 1) : Nat) - 1 else (2 ^ f.width : Nat) - 1

/-- The value of an encoding (R129). -/
def decode (f : IntFmt) (c : Nat) : Int :=
  if f.signed then sextNat f.width c else (c % 2 ^ f.width : Nat)

/-- The encoding of an in-range value. -/
def encode (f : IntFmt) (z : Int) : Nat := wrapInt f.width z

/-- Clamping to the format's range. -/
def clamp (f : IntFmt) (z : Int) : Int := max f.minVal (min f.maxVal z)

end IntFmt

/-- A finite value rounded to an integer in a mode (R142). -/
def roundToInt (mode : Rm) (neg : Bool) (m : Nat) (e : Int) : Int :=
  Xr.sgn neg (roundShift mode neg m e 0 false)

/-- `round_int(x, fmt, mode)` of R142, as an integer. -/
def roundInt (x : Xr) (f : IntFmt) (mode : Rm) : Int :=
  match x with
  | .nan => 0
  | .inf neg => if neg then f.minVal else f.maxVal
  | .fin neg m e => f.clamp (roundToInt mode neg m e)

/-! ### Tapered formats (R135, R136) -/

/-- The length of the run of bits equal to bit `i`, counted downward from bit `i`. -/
def runLength (w : Nat) (b : Bool) : Nat → Nat
  | 0 => if w.testBit 0 = b then 1 else 0
  | i + 1 => if w.testBit (i + 1) = b then 1 + runLength w b i else 0

/-- `tapered_decode(w, n)` of R135. -/
def taperedDecode (n w : Nat) : Xr :=
  let w := w % 2 ^ n
  if w = 0 then .fin false 0 0
  else if w = 2 ^ (n - 1) then .nan
  else
    let s := w.testBit (n - 1)
    let w := if s then 2 ^ n - w else w
    let top := w.testBit (n - 2)
    let run := runLength w top (n - 2)
    let k : Int := if top then (run : Int) - 1 else -(run : Int)
    let restLen := n - 1 - run - 1
    let rest := w % 2 ^ restLen
    let e := if restLen = 0 then 0 else rest / 2 ^ (restLen - 1)
    let fl := restLen - 1
    let f := rest % 2 ^ fl
    .fin s (2 ^ fl + f) (2 * k + (e : Int) - (fl : Int))

/-- `tapered_round(x, n)` of R136. -/
def taperedRound (n : Nat) (x : Xr) : Nat :=
  match x with
  | .nan => 2 ^ (n - 1)
  | .inf _ => 2 ^ (n - 1)
  | .fin neg m e =>
    if m = 0 then 0
    else
      let lim : Int := 2 * ((n : Int) - 2)
      let q0 : Int := (flog2 m : Int) + e
      -- clamp to [minpos, maxpos] = [2^-lim, 2^lim]
      let low : Bool := q0 < -lim
      let high : Bool := lim ≤ q0
      let m := if low || high then 1 else m
      let e : Int := if low then -lim else if high then lim else e
      let q : Int := (flog2 m : Int) + e
      let k : Int := q / 2
      let ex : Nat := (q - 2 * k).toNat
      let fb := flog2 m
      let f := m - 2 ^ fb
      let regLen := if 0 ≤ k then k.toNat + 2 else (-k).toNat + 1
      let reg := if 0 ≤ k then 2 ^ (k.toNat + 2) - 2 else 1
      -- the string reg, e, then fb fraction digits, then zeros
      let str := (reg * 2 + ex) * 2 ^ fb + f
      let len := regLen + 1 + fb
      let pad := n + 1
      let str := str * 2 ^ pad
      let len := len + pad
      let drop := len - (n - 1)
      let body := str / 2 ^ drop
      let g := (str / 2 ^ (drop - 1)) % 2
      let st := str % 2 ^ (drop - 1)
      let body := if g = 1 ∧ (st ≠ 0 ∨ body % 2 = 1) then body + 1 else body
      if neg then 2 ^ n - body else body

/-! ### Format codes (R128) -/

/-- What a 5-bit format code names (R128). -/
inductive ElemFmt where
  | int (f : IntFmt)
  | fp (f : FpFmt)
  | tapered (n : Nat)
  | mx (code : Nat)
  | e8m0
  deriving DecidableEq, Repr

/-- The element format of a code, or none for a reserved code (R128). -/
def elemFmt (c : BitVec 5) : Option ElemFmt :=
  match c.toNat with
  | 0x00 => some (.int ⟨8, true⟩)
  | 0x01 => some (.int ⟨8, false⟩)
  | 0x02 => some (.int ⟨16, true⟩)
  | 0x03 => some (.int ⟨16, false⟩)
  | 0x04 => some (.int ⟨32, true⟩)
  | 0x05 => some (.int ⟨32, false⟩)
  | 0x06 => some (.int ⟨4, true⟩)
  | 0x07 => some (.int ⟨4, false⟩)
  | 0x08 => some (.fp fp32)
  | 0x09 => some (.fp fp16)
  | 0x0A => some (.fp bf16)
  | 0x0B => some (.fp fpE4M3)
  | 0x0C => some (.fp fpE5M2)
  | 0x0D => some (.fp fpE2M3)
  | 0x0E => some (.fp fpE3M2)
  | 0x0F => some (.fp fpE2M1)
  | 0x10 => some (.tapered 8)
  | 0x11 => some (.tapered 6)
  | 0x12 => some (.mx 0x12)
  | 0x13 => some (.mx 0x13)
  | 0x14 => some (.mx 0x14)
  | 0x15 => some (.mx 0x15)
  | 0x16 => some (.mx 0x16)
  | 0x17 => some (.mx 0x17)
  | 0x18 => some .e8m0
  | _ => none

/-- The width in bits of an element held in a lane; 6-bit elements count as 8 (R129, R261). -/
def ElemFmt.laneWidth : ElemFmt → Nat
  | .int f => f.width
  | .fp f => if f.width = 6 then 8 else f.width
  | .tapered n => if n = 6 then 8 else n
  | .mx _ => 0
  | .e8m0 => 8

/-- The exact value of an element's encoding (R129, R132, R135, R137). -/
def ElemFmt.decode (f : ElemFmt) (c : Nat) : Xr :=
  match f with
  | .int i => Xr.ofInt (i.decode c) 0
  | .fp p => p.decode c
  | .tapered n => taperedDecode n c
  | .mx _ => .nan
  | .e8m0 => if c % 256 = 0xFF then .nan else .fin false 1 ((c % 256 : Nat) - 127 : Int)

/-- `convert(x, to, m)` of R262, with the narrowing mode code of R140. -/
def convertTo (x : Xr) (t : ElemFmt) (m : BitVec 2) : Nat :=
  match t with
  | .fp p => roundFp x p (if m = 1 then .rtz else .rne) (m ≠ 2)
  | .tapered n => taperedRound n x
  | .int i => i.encode (roundInt x i (if m = 1 then .rtz else .rne))
  | .mx _ => 0
  | .e8m0 => 0

/-- Whether a target accepts a narrowing mode code (R140), error feedback apart. -/
def acceptsMode (t : ElemFmt) (m : BitVec 2) : Bool :=
  match t with
  | .fp p => m = 0 || m = 1 || (m = 2 && p.hasInf && p.manBits ≤ 10)
  | .tapered _ => m = 0
  | .int _ => m = 0 || m = 1
  | _ => false

/-- `ef_round(x, r, fmt)` of R143 on binary32 encodings: the encoding and the new residue. The remainder is an exact real, so a
remainder of zero is +0. -/
def efRound (x r : Nat) (t : ElemFmt) : Nat × Nat :=
  let s := f32Add x r
  let sv := fp32.decode s
  let y := match t with
    | .tapered n => taperedRound n sv
    | .fp p => roundFp sv p .rne true
    | _ => 0
  if sv.isSpecial then (y, 0)
  else
    let d := Xr.add false sv (t.decode y).neg
    (y, if d.isZero then 0 else roundFp d fp32 .rne false)

/-! ### MX blocks (R133, R134, R144, R145, R155, R156) -/

/-- The element format of an MX code; MXINT8 elements are decoded by `mxElem` (R133). -/
def mxFp (code : Nat) : Option FpFmt :=
  match code with
  | 0x12 => some fpE4M3
  | 0x13 => some fpE5M2
  | 0x14 => some fpE2M3
  | 0x15 => some fpE3M2
  | 0x16 => some fpE2M1
  | _ => none

/-- The slot size in bytes (R133). -/
def mxSlot (code : Nat) : Nat := if code = 0x16 then 16 else 32

/-- The exponent of the largest element magnitude (R144). -/
def mxEmax (code : Nat) : Int :=
  match code with
  | 0x12 => 8
  | 0x13 => 15
  | 0x14 => 2
  | 0x15 => 4
  | 0x16 => 2
  | _ => 0

/-- The value of one element's code (R133, R134). -/
def mxElem (code c : Nat) : Xr :=
  match mxFp code with
  | some f => f.decode c
  | none => Xr.ofInt (sextNat 8 c) (-6)

/-- The value of an element under a scale byte: NaN for a NaN block; NaN and infinities keep their
value (R133). -/
def mxValue (code scale c : Nat) : Xr :=
  if scale = 0xFF then .nan else (mxElem code c).scale ((scale : Int) - 127)

/-- The code of element `i` within a slot's bytes (R129, R133). -/
def slotElem (code : Nat) (slot : List Byte) (i : Nat) : Nat :=
  if code = 0x16 then bitsNat (slot.getD (i / 2) 0).toNat (4 * (i % 2)) 4
  else if code = 0x14 ∨ code = 0x15 then bitsNat (leValue (slot.take 24)) (6 * i) 6
  else (slot.getD i 0).toNat

/-- The slot bytes of 32 element codes; MXFP6 pad bytes are zero (R129, R133). -/
def slotBytes (code : Nat) (el : List Nat) : List Byte :=
  if code = 0x16 then
    leBytes 16 ((List.range 32).foldl (fun a i => a + (el.getD i 0) * 2 ^ (4 * i)) 0)
  else if code = 0x14 ∨ code = 0x15 then
    leBytes 24 ((List.range 32).foldl (fun a i => a + (el.getD i 0) * 2 ^ (6 * i)) 0) ++ leBytes 8 0
  else (List.range 32).map fun i => BitVec.ofNat 8 (el.getD i 0)

/-- ⌊log2 |x|⌋ of a finite non-zero value. -/
def xlog2 : Xr → Int
  | .fin _ m e => (flog2 m : Int) + e
  | _ => 0

/-- `mx_encode(v, fmt)` of R144: the scale byte and the element codes. -/
def mxEncode (v : List Xr) (code : Nat) : Nat × List Nat :=
  if v.any Xr.isSpecial then (0xFF, List.replicate 32 0)
  else
    let nz := v.filter fun x => !x.isZero
    match nz with
    | [] => (0x00, List.replicate 32 0)
    | a :: as =>
      let top := as.foldl (fun t x => max t (xlog2 x)) (xlog2 a)
      let x := max (-127) (min 127 (top - mxEmax code))
      let one (y : Xr) : Nat :=
        match mxFp code with
        | some f => roundFp (y.scale (-x)) f .rne true
        | none => wrapInt 8 (max (-127) (min 127 (roundInt (y.scale (6 - x)) ⟨8, true⟩ .rne)))
      ((x + 127).toNat, v.map one)

/-- `exact_add(a, b)` of R156. -/
def exactAdd (a b : Xr) : Xr := Xr.add false a b

/-- `crucible_accumulate` of R156 on a scale byte and a slot; the new scale byte and slot. -/
def crucibleAccumulate (code scale : Nat) (slot : List Byte) (u : List Xr) : Nat × List Byte :=
  let v := (List.range 32).map fun i =>
    exactAdd (mxValue code scale (slotElem code slot i)) (u.getD i .nan)
  let r := mxEncode v code
  (r.1, slotBytes code r.2)

/-- `scale_addr(S, fmt, b)` of R145. -/
def scaleAddr (s code b : Nat) : Nat :=
  let q := if code = 0x16 then 8 else 4
  let t := b / 128
  let j := b % 128
  s + 128 * t + (128 / q) * (j % q) + j / q

/-! ### Fixed-order sums (R147 to R150, R181) -/

/-- The exact group sum of R147 with its special values: NaN rules, infinities, and −0 only when every
product is −0. -/
def groupSum : List Xr → Xr
  | [] => .fin true 0 0
  | p :: ps => ps.foldl (fun a x => Xr.add false a x) p

/-- The chain of R147: each group sum is added to the accumulator, rounded RNE to binary32. -/
def chain (acc : Nat) (groups : List Xr) : Nat :=
  groups.foldl (fun a s => roundFp (Xr.add false (fp32.decode a) s) fp32 .rne false) acc

/-- One level of the pairwise tree of R148. -/
def treeStep : List Nat → List Nat
  | a :: b :: rest => f32Add a b :: treeStep rest
  | l => l

/-- The tree of R148 on `2^k` leaves. -/
def treeSum : Nat → List Nat → Nat
  | 0, l => l.headD f32NegZero
  | k + 1, l => treeSum k (treeStep l)

/-- `mr_combine` of R181 on one element position. -/
def mrCombineElem (code : Nat) (c : List Nat) : Nat :=
  match c with
  | [] => 0
  | x :: xs =>
    if code = 0x04 then (x + xs.foldl (· + ·) 0) % 2 ^ 32
    else
      let f := if code = 0x09 then fp16 else if code = 0x0A then bf16 else fp32
      let widen (y : Nat) : Nat := roundFp (f.decode y) fp32 .rne false
      let acc := xs.foldl (fun a y => f32Add a (widen y)) (widen x)
      if code = 0x08 then acc else roundFp (fp32.decode acc) f .rne false

end Sys2Proof.Machine
end

