-- ==== Sys2Proof/Machine/Special.lean ====
section
/-!
DEFINITION. The special functions of R260: each result is the exact value of the function, rounded once
to binary32. Reciprocal and roots are computed with a sticky tail; the others by enclosures in fixed
point whose two ends must round alike, taken at rising precision.
-/

namespace Sys2Proof.Machine

/-- ⌊√n⌋ by digits, `k` binary digits of the root at most. -/
def isqrtAux (n : Nat) : Nat → Nat → Nat
  | 0, r => r
  | k + 1, r =>
    let c := r + 2 ^ k
    if c * c ≤ n then isqrtAux n k c else isqrtAux n k r

/-- ⌊√n⌋. -/
def isqrt (n : Nat) : Nat := isqrtAux n (flog2 n / 2 + 1) 0

/-- An enclosure: the value lies within `rad` of `mid`, in units of 2^-P. -/
structure Ball where
  mid : Int
  rad : Nat
  deriving DecidableEq, Repr

/-- `Σ z^(2k+1)/(2k+1)` with signs `sg^k`, for z = p/q, |z| ≤ 1/3, at precision `P`. -/
def atanSeries (P : Nat) (sg : Int) (p : Int) (q : Nat) : Ball :=
  let n := P / 3 + 4
  let t0 : Int := p * 2 ^ P / q
  let s := (List.range n).foldl (fun (a : Int × Int × Int) k =>
    let (sum, t, s) := a
    (sum + s * (t / (2 * k + 1 : Nat)), t * p * p / ((q * q : Nat) : Int), s * sg)) (0, t0, 1)
  ⟨s.1, 4 * n + 8⟩

/-- ln 2 = 2 atanh(1/3). -/
def ln2Ball (P : Nat) : Ball :=
  let b := atanSeries P 1 1 3
  ⟨2 * b.mid, 2 * b.rad⟩

/-- π by Machin's formula. -/
def piBall (P : Nat) : Ball :=
  let a := atanSeries P (-1) 1 5
  let b := atanSeries P (-1) 1 239
  ⟨16 * a.mid - 4 * b.mid, 16 * a.rad + 4 * b.rad⟩

/-- The product of two enclosures whose values lie within [-32, 32]. -/
def Ball.mul (P : Nat) (x y : Ball) : Ball :=
  ⟨x.mid * y.mid / 2 ^ P, 33 * (x.rad + y.rad) + 2⟩

/-- e^y for an enclosure within [0, 1]. -/
def expBall (P : Nat) (y : Ball) : Ball :=
  let n := P / 4 + 24
  let s := (List.range n).foldl (fun (a : Int × Int) k =>
    let (sum, t) := a
    (sum + t, t * y.mid / 2 ^ P / ((k + 1 : Nat) : Int))) (0, 2 ^ P)
  ⟨s.1, 3 * y.rad + 2 * n + 4⟩

/-- sin y for an enclosure within [-1.6, 1.6]. -/
def sinBall (P : Nat) (y : Ball) : Ball :=
  let n := P / 4 + 24
  let s := (List.range n).foldl (fun (a : Int × Int) k =>
    let (sum, t) := a
    (sum + t, -(t * y.mid / 2 ^ P * y.mid / 2 ^ P / (((2 * k + 2) * (2 * k + 3) : Nat) : Int)))) (0, y.mid)
  ⟨s.1, 2 * y.rad + 6 * n + 8⟩

/-- A dyadic `±m·2^e` in units of 2^-P, rounded down. -/
def fixOf (P : Nat) (neg : Bool) (m : Nat) (e : Int) : Ball :=
  let k := e + P
  let v : Int := Xr.sgn neg m
  if 0 ≤ k then ⟨v * 2 ^ k.toNat, 0⟩ else ⟨v / 2 ^ (-k).toNat, 1⟩

/-- An integer in units of 2^-P as an exact value. -/
def xrFix (P : Nat) (z : Int) : Xr := Xr.ofInt z (-(P : Int))

/-- The binary32 rounding of an enclosure times 2^k, if its two ends round alike. -/
def roundBall (P : Nat) (k : Int) (b : Ball) : Option Nat :=
  let lo := roundFp ((xrFix P (b.mid - b.rad)).scale k) fp32 .rne false
  let hi := roundFp ((xrFix P (b.mid + b.rad)).scale k) fp32 .rne false
  if lo = hi then some lo else none

/-- The first precision whose enclosure decides the rounding; the last one's midpoint otherwise. -/
def decideRound (f : Nat → Ball × Int) : List Nat → Nat
  | [] => f32Nan
  | [P] => roundFp ((xrFix P (f P).1.mid).scale (f P).2) fp32 .rne false
  | P :: Ps =>
    match roundBall P (f P).2 (f P).1 with
    | some r => r
    | none => decideRound f Ps

/-- The precisions tried. -/
def precisions : List Nat := [96, 256, 512, 1024]

/-- VRCP (R260). -/
def specRcp (a : Nat) : Nat :=
  match fp32.decode a with
  | .nan => f32Nan
  | .inf s => fp32.signBit s
  | .fin s m e =>
    if m = 0 then fp32.signBit s + fp32.infCode
    else
      let k := flog2 m + 64
      let qt := 2 ^ k / m
      let sticky : Bool := 2 ^ k % m ≠ 0
      let ex : Int := -(k : Int) - e
      if fp32.maxCode < gridCode fp32 .rup false qt ex sticky then fp32.signBit s + fp32.infCode
      else roundFin fp32 .rne false s qt ex sticky

/-- VSQRT (R260), in the instruction's rounding mode. -/
def specSqrt (mode : Rm) (a : Nat) : Nat :=
  match fp32.decode a with
  | .nan => f32Nan
  | .inf s => if s then f32Nan else fp32.infCode
  | .fin s m e =>
    if m = 0 then fp32.signBit s
    else if s then f32Nan
    else
      let odd : Int := e % 2
      let n := m * 2 ^ (128 + odd.toNat)
      let r := isqrt n
      roundFin fp32 mode false false r ((e - odd - 128) / 2) (r * r ≠ n)

/-- VRSQRT (R260). -/
def specRsqrt (a : Nat) : Nat :=
  match fp32.decode a with
  | .nan => f32Nan
  | .inf s => if s then f32Nan else 0
  | .fin s m e =>
    if m = 0 then fp32.signBit s + fp32.infCode
    else if s then f32Nan
    else
      let odd : Int := e % 2
      let n := m * 2 ^ odd.toNat
      -- 1/√(n·2^(e-odd)) = √(2^192/n) · 2^(-96 - (e-odd)/2)
      let qt := 2 ^ 192 / n
      let r := isqrt qt
      let sticky : Bool := r * r * n ≠ 2 ^ 192
      roundFin fp32 .rne false false r (-96 - (e - odd) / 2) sticky

/-- VEXP2 (R260). -/
def specExp2 (a : Nat) : Nat :=
  match fp32.decode a with
  | .nan => f32Nan
  | .inf s => if s then 0 else fp32.infCode
  | .fin s m e =>
    let x : Xr := .fin s m e
    if m = 0 then roundFp (.fin false 1 0) fp32 .rne false
    else if Xr.cmp x (.fin false 128 0) ≠ .lt then fp32.infCode
    else if Xr.cmp x (.fin true 150 0) = .lt then 0
    else
      let n : Int := if 0 ≤ e then Xr.sgn s m * 2 ^ e.toNat else Xr.sgn s m / 2 ^ (-e).toNat
      let fm : Int := if 0 ≤ e then 0 else Xr.sgn s m % 2 ^ (-e).toNat
      if fm = 0 then roundFp (.fin false 1 n) fp32 .rne false
      else decideRound (fun P => (expBall P (Ball.mul P (fixOf P false fm.toNat e) (ln2Ball P)), n)) precisions

/-- The quotient of an enclosure by ln 2. -/
def divLn2 (P : Nat) (b : Ball) : Ball :=
  let d := ln2Ball P
  ⟨b.mid * 2 ^ P / d.mid, 2 * b.rad + 2 * d.rad + 4⟩

/-- VLOG2 (R260). -/
def specLog2 (a : Nat) : Nat :=
  match fp32.decode a with
  | .nan => f32Nan
  | .inf s => if s then f32Nan else fp32.infCode
  | .fin s m e =>
    if m = 0 then fp32.signBit true + fp32.infCode
    else if s then f32Nan
    else
      let k := flog2 m
      let ex : Int := e + k
      if m = 2 ^ k then roundFp (Xr.ofInt ex 0) fp32 .rne false
      else
        let big : Bool := 3 * 2 ^ k < 2 * m
        let d : Nat := if big then 2 ^ (k + 1) else 2 ^ k
        let sum : Nat := m + d
        let ex : Int := if big then ex + 1 else ex
        decideRound (fun P =>
          let b := atanSeries P 1 ((m : Int) - (d : Int)) sum
          let l := divLn2 P ⟨2 * b.mid, 2 * b.rad⟩
          (⟨ex * 2 ^ P + l.mid, l.rad⟩, 0)) precisions

/-- ±sin(π·g) rounded, for a dyadic g = ±m·2^e with |g| ≤ 1/2. -/
def sinPiRound (neg : Bool) (m : Nat) (e : Int) : Nat :=
  decideRound (fun P => (sinBall P (Ball.mul P (fixOf P neg m e) (piBall P)), 0)) precisions

/-- VSIN: sin(π·a) (R260). -/
def specSin (a : Nat) : Nat :=
  match fp32.decode a with
  | .nan => f32Nan
  | .inf _ => f32Nan
  | .fin s m e =>
    if m = 0 ∨ 0 ≤ e then fp32.signBit s
    else
      let k := (-e).toNat
      let t := m % 2 ^ (k + 1)
      let odd : Bool := 2 ^ k ≤ t
      let f := t % 2 ^ k
      if f = 0 then fp32.signBit s
      else
        let f := if 2 ^ k < 2 * f then 2 ^ k - f else f
        sinPiRound (s != odd) f e

/-- VCOS: cos(π·a) (R260). -/
def specCos (a : Nat) : Nat :=
  match fp32.decode a with
  | .nan => f32Nan
  | .inf _ => f32Nan
  | .fin _ m e =>
    let one (neg : Bool) : Nat := roundFp (.fin neg 1 0) fp32 .rne false
    if m = 0 then one false
    else if 0 ≤ e then one (decide (e = 0) && m % 2 = 1)
    else
      let k := (-e).toNat
      let t := m % 2 ^ (k + 1)
      let t := if 2 ^ k < t then 2 ^ (k + 1) - t else t
      if t = 0 then one false
      else if t = 2 ^ k then one true
      else if 2 * t = 2 ^ k then 0
      else
        let neg : Bool := 2 ^ k < 2 * t
        let g := if neg then 2 * t - 2 ^ k else 2 ^ k - 2 * t
        sinPiRound neg g (e - 1)

/-- VTANH (R260). -/
def specTanh (a : Nat) : Nat :=
  match fp32.decode a with
  | .nan => f32Nan
  | .inf s => roundFp (.fin s 1 0) fp32 .rne false
  | .fin s m e =>
    let ax : Xr := .fin false m e
    if Xr.cmp ax (.fin false 10 0) ≠ .lt then roundFp (.fin s 1 0) fp32 .rne false
    else if Xr.cmp ax (.fin false 1 (-12)) ≠ .gt then roundFp (.fin s m e) fp32 .rne false
    else
      decideRound (fun P =>
        let u := fixOf P false m (e + 1)
        let l := ln2Ball P
        let n := u.mid / l.mid
        let y : Ball := ⟨u.mid - n * l.mid, u.rad + 32 * l.rad⟩
        let b := expBall P y
        let ex := b.mid * 2 ^ n.toNat
        let t := 2 ^ P - 2 * 2 ^ (2 * P) / (ex + 2 ^ P)
        (⟨if s then -t else t, 2 * b.rad + 8⟩, 0)) precisions

end Sys2Proof.Machine
end

