-- ==== Sys2Proof/Syntax.lean ====
section
/-!
DEFINITION. The instruction syntax: one constructor of `Instr` for every row of spec/opcode_table.json. The
first 223 rows are instruction words, each with the fields of its format (R196 to R206); the other 118 are
the operations and events of the machine (spec/95_what_each_step_holds.md), with what the step needs named.
-/

namespace Sys2Proof

/-- The three instruction streams (R219). -/
inductive Stream where
  | execute | access | press
  deriving DecidableEq, Repr

/-- A guard: the negate bit and the predicate number (R198). -/
structure Guard where
  neg : Bool
  pred : BitVec 4
  deriving DecidableEq, Repr

/-- A destination: capture, no-write-back and register number (R199). -/
structure Dst where
  cap : BitVec 2
  nwb : Bool
  reg : BitVec 8
  deriving DecidableEq, Repr

/-- A source operand (R200): a vector register or predicate (kind 0b00), a uniform register (kind 0b01),
a latch (kind 0b10), a short immediate, or the wide immediate of the tail (kind 0b11). -/
inductive Src where
  | vec (n : BitVec 8)
  | uni (n : BitVec 8)
  | latch (n : BitVec 8)
  | short (imm : BitVec 7)
  | wide
  deriving DecidableEq, Repr

/-- The fields that every word has (R196). -/
structure Head where
  boundary : Bool
  guard : Guard
  dst : Dst
  a : Src
  deriving DecidableEq, Repr

/-- Format Y (R206). -/
structure FmtY extends Head where
  b : Src
  c : Src
  sel : BitVec 16
  operand : BitVec 19
  deriving DecidableEq, Repr

/-- Format A (R201). -/
structure FmtA extends Head where
  b : Src
  c : Src
  wide : BitVec 24
  mode : BitVec 2
  fmt : BitVec 5
  modi : BitVec 4
  deriving DecidableEq, Repr

/-- Format I (R202). -/
structure FmtI extends Head where
  imm : BitVec 32
  fmt : BitVec 5
  mode : BitVec 2
  modi : BitVec 16
  deriving DecidableEq, Repr

/-- Format M (R203). -/
structure FmtM extends Head where
  b : Src
  c : Src
  channel : BitVec 4
  scope : BitVec 3
  order : BitVec 2
  width : BitVec 3
  sign : Bool
  scale : BitVec 2
  swz : BitVec 2
  off : BitVec 18
  deriving DecidableEq, Repr

/-- Format B (R204): the second target, the target, the condition and the modifier. -/
structure FmtB extends Head where
  disp2 : BitVec 17
  slot2 : BitVec 3
  disp : BitVec 21
  slot : BitVec 3
  cond : BitVec 4
  modi : BitVec 7
  deriving DecidableEq, Repr

/-- Format X with the region tail (R205). -/
structure FmtXR extends Head where
  b : Src
  c : Src
  off : BitVec 19
  pitch : BitVec 8
  rows : BitVec 6
  swz : BitVec 2
  deriving DecidableEq, Repr

/-- Format X with the arithmetic tail (R205). -/
structure FmtXA extends Head where
  b : Src
  c : Src
  fa : BitVec 5
  fb : BitVec 5
  mode : BitVec 2
  modi : BitVec 23
  deriving DecidableEq, Repr

/-- What a placement, a pre-emption or a retirement names: the head launch of a queue, a pair, or a cohort
(R40, R49, R50). -/
inductive PlaceSrc where
  | queue (q : Nat)
  | pair (id : Nat)
  | cohort (id : Nat)
  deriving DecidableEq, Repr

/-- The kinds of access that arrive from another device (R176, R177, R183). -/
inductive RemoteKind where
  | load (width : Nat)
  | store (width : Nat)
  | atomic (minor width : Nat) (ret : Bool)
  | nmop (op : Nat)
  | mxacc (fmt : Nat) (values : List (BitVec 32)) (ordinal : Option (BitVec 16))
  | mxaccBlock (stored fmt scale : Nat) (slot : List Byte) (ordinal : Option (BitVec 16))
  | mxld (fmt : Nat)
  | mxst (fmt scale : Nat) (slot : List Byte)
  | faddOrd (ordinal : BitVec 16)
  | sigdec (n : Nat)
  | mapft
  | prefetch
  | devdec (n source : Nat) (info : Dword)
  deriving DecidableEq, Repr

/-- A request from another device: the number of its operation there, its context number, its group there, its channel, its kind, the
lanes, for each lane the address and up to two data words, and the PC of the instruction (R174, R176, R183). A replay carries the number
of the operation that it replays. -/
structure RemoteReq where
  req : Nat
  ctx : Nat
  group : Nat
  channel : Nat
  kind : RemoteKind
  lanes : Mask
  addr : Lanes
  data : Lanes
  data2 : Lanes
  pc : Dword
  deriving DecidableEq, Repr

/-- What the calibration and the self-test of bring-up have found: the cores whose arrays have passed, whether the rings are calibrated, and
whether the Crucibles have passed (R422). -/
structure SelfTests where
  cores : BitVec 160
  rings : Bool
  crucibles : Bool
  deriving DecidableEq, Repr

/-- A failed check reported to Mysko (R446, R449): class 1 corrected, 2 transient, 3 lasting; the unit; `part` is the data way of a
slice that fails, or for a lane set the receiving end; `passed` names the pairs and cluster cohorts of a core whose saved state passed its
checks (R447). -/
structure ErrReport where
  cls : Nat
  kind : Nat
  unit : Nat
  ctx : Nat
  addr : Dword
  struct : Nat
  part : Option Nat
  passed : List Nat
  deriving DecidableEq, Repr

/-- The instructions, operations and events: one constructor per row of spec/opcode_table.json. -/
inductive Instr where
  | trap (f : FmtY)
  | bkpt (f : FmtY)
  | sysrd (f : FmtY)
  | syswr (f : FmtY)
  | eret (f : FmtY)
  | mapft (f : FmtY)
  | grow (f : FmtY)
  | shrink (f : FmtY)
  | launch (f : FmtY)
  | temit (f : FmtY)
  | tstamp (f : FmtY)
  | hmread (f : FmtY)
  | hmseal (f : FmtY)
  | vadd (f : FmtA)
  | vsub (f : FmtA)
  | vmul (f : FmtA)
  | vmulh (f : FmtA)
  | vmad (f : FmtA)
  | vmin (f : FmtA)
  | vmax (f : FmtA)
  | vabs (f : FmtA)
  | vneg (f : FmtA)
  | vaddc (f : FmtA)
  | vsubb (f : FmtA)
  | vand (f : FmtA)
  | vor (f : FmtA)
  | vxor (f : FmtA)
  | vnot (f : FmtA)
  | vshl (f : FmtA)
  | vshr (f : FmtA)
  | vsar (f : FmtA)
  | vrot (f : FmtA)
  | vbfx (f : FmtA)
  | vbfi (f : FmtA)
  | vpopc (f : FmtA)
  | vclz (f : FmtA)
  | vctz (f : FmtA)
  | vbrev (f : FmtA)
  | vpermb (f : FmtA)
  | vsel (f : FmtA)
  | vmov (f : FmtA)
  | vcmp (f : FmtA)
  | vtest (f : FmtA)
  | vfadd (f : FmtA)
  | vfsub (f : FmtA)
  | vfmul (f : FmtA)
  | vfma (f : FmtA)
  | vfms (f : FmtA)
  | vfnma (f : FmtA)
  | vfmin (f : FmtA)
  | vfmax (f : FmtA)
  | vfabs (f : FmtA)
  | vfneg (f : FmtA)
  | vfcpys (f : FmtA)
  | vfcmp (f : FmtA)
  | vfclass (f : FmtA)
  | vrcp (f : FmtA)
  | vrsqrt (f : FmtA)
  | vsqrt (f : FmtA)
  | vexp2 (f : FmtA)
  | vlog2 (f : FmtA)
  | vsin (f : FmtA)
  | vcos (f : FmtA)
  | vtanh (f : FmtA)
  | cvt (f : FmtA)
  | cvtn (f : FmtA)
  | cvtef (f : FmtA)
  | cvtw (f : FmtA)
  | mxq (f : FmtA)
  | mxdq (f : FmtA)
  | vshfl (f : FmtA)
  | vbcast (f : FmtA)
  | vredadd (f : FmtA)
  | vredmax (f : FmtA)
  | vscan (f : FmtA)
  | topk (f : FmtA)
  | topkM (f : FmtA)
  | selk (f : FmtA)
  | sadd (f : FmtA)
  | ssub (f : FmtA)
  | smul (f : FmtA)
  | sand (f : FmtA)
  | sor (f : FmtA)
  | sxor (f : FmtA)
  | sshl (f : FmtA)
  | sshr (f : FmtA)
  | ssar (f : FmtA)
  | smin (f : FmtA)
  | smax (f : FmtA)
  | smov (f : FmtA)
  | ssel (f : FmtA)
  | srdsys (f : FmtA)
  | sldc (f : FmtA)
  | pset (f : FmtA)
  | pclr (f : FmtA)
  | pand (f : FmtA)
  | por (f : FmtA)
  | pxor (f : FmtA)
  | pandn (f : FmtA)
  | pmov (f : FmtA)
  | pcnt (f : FmtA)
  | pfirst (f : FmtA)
  | execrd (f : FmtA)
  | execwr (f : FmtA)
  | recon (f : FmtA)
  | swait (f : FmtA)
  | vaddI (f : FmtI)
  | vsubI (f : FmtI)
  | vmulI (f : FmtI)
  | vmulhI (f : FmtI)
  | vminI (f : FmtI)
  | vmaxI (f : FmtI)
  | vaddcI (f : FmtI)
  | vsubbI (f : FmtI)
  | vandI (f : FmtI)
  | vorI (f : FmtI)
  | vxorI (f : FmtI)
  | vshlI (f : FmtI)
  | vshrI (f : FmtI)
  | vsarI (f : FmtI)
  | vrotI (f : FmtI)
  | vmovI (f : FmtI)
  | vcmpI (f : FmtI)
  | vtestI (f : FmtI)
  | vfaddI (f : FmtI)
  | vfsubI (f : FmtI)
  | vfmulI (f : FmtI)
  | vfminI (f : FmtI)
  | vfmaxI (f : FmtI)
  | vfcpysI (f : FmtI)
  | vfcmpI (f : FmtI)
  | saddI (f : FmtI)
  | ssubI (f : FmtI)
  | smulI (f : FmtI)
  | sandI (f : FmtI)
  | sorI (f : FmtI)
  | sxorI (f : FmtI)
  | sshlI (f : FmtI)
  | sshrI (f : FmtI)
  | ssarI (f : FmtI)
  | sminI (f : FmtI)
  | smaxI (f : FmtI)
  | smovI (f : FmtI)
  | ldv (f : FmtM)
  | ldp (f : FmtM)
  | grld (f : FmtM)
  | pfetch (f : FmtM)
  | st (f : FmtM)
  | stq (f : FmtM)
  | lds (f : FmtM)
  | sts (f : FmtM)
  | ldsT (f : FmtM)
  | ldcl (f : FmtM)
  | stcl (f : FmtM)
  | qcount (f : FmtM)
  | qskip (f : FmtM)
  | aadd (f : FmtM)
  | asub (f : FmtM)
  | aand (f : FmtM)
  | aor (f : FmtM)
  | axor (f : FmtM)
  | amin (f : FmtM)
  | amax (f : FmtM)
  | aminu (f : FmtM)
  | amaxu (f : FmtM)
  | axchg (f : FmtM)
  | acas (f : FmtM)
  | fadd (f : FmtM)
  | faddOrd (f : FmtM)
  | mxacc (f : FmtM)
  | mxaccOrd (f : FmtM)
  | mxld (f : FmtM)
  | mxst (f : FmtM)
  | fence (f : FmtM)
  | waitc (f : FmtM)
  | waitw (f : FmtM)
  | harrive (f : FmtM)
  | hwait (f : FmtM)
  | cjoin (f : FmtM)
  | cleave (f : FmtM)
  | carrive (f : FmtM)
  | cwait (f : FmtM)
  | sigdec (f : FmtM)
  | waitsig (f : FmtM)
  | copy (f : FmtM)
  | copyo (f : FmtM)
  | copyc (f : FmtM)
  | gclaim (f : FmtM)
  | gcommit (f : FmtM)
  | gawait (f : FmtM)
  | gretire (f : FmtM)
  | sqpub (f : FmtM)
  | sqget (f : FmtM)
  | lease (f : FmtM)
  | leaseDrop (f : FmtM)
  | leaseq (f : FmtM)
  | nmop (f : FmtM)
  | stMr (f : FmtM)
  | xfence (f : FmtM)
  | rgetQueue (f : FmtM)
  | rgetSpad (f : FmtM)
  | bra (f : FmtB)
  | brc (f : FmtB)
  | bdiv (f : FmtB)
  | brx (f : FmtB)
  | call (f : FmtB)
  | ret (f : FmtB)
  | exit (f : FmtB)
  | loops (f : FmtB)
  | mloop (f : FmtB)
  | mbra (f : FmtB)
  | mend (f : FmtB)
  | mload (f : FmtXR)
  | mloadT (f : FmtXR)
  | mloadS (f : FmtXR)
  | mstore (f : FmtXR)
  | mma (f : FmtXA)
  | mzero (f : FmtXA)
  | mcvt (f : FmtXA)
  | mharrive (f : FmtXA)
  | mhwait (f : FmtXA)
  | mpop (f : FmtXA)
  | msig (f : FmtXA)
  | runFetch (core : Nat) (unit : Nat)
  | pathArbitration (core : Nat) (unit : Nat)
  | pathPromotion (gid : Nat) (entry : Nat)
  | pressArbitration (core : Nat)
  | bankTheft (core : Nat) (k : Nat)
  | ladleWindowAccess (core : Nat) (k : Nat)
  | qdead (pair : Nat)
  | loadDataReturn (op : Nat) (data : Lanes)
  | faultReturn (op : Nat) (lanes : Mask) (code : Nat) (marks : Nat)
  | storeUnitStore (pair : Nat) (q : Nat)
  | placement (src : PlaceSrc) (core : Nat) (part : Nat)
  | migration (pair : Nat) (core : Nat) (part : Nat)
  | growPreemption (core : Nat) (unit : Nat)
  | cwaitPreemption (pair : Nat)
  | preemption (tgt : PlaceSrc)
  | retirement (tgt : PlaceSrc)
  | pressCauseDelivery (core : Nat) (k : Nat)
  | hoopArrivalCount (op : Nat)
  | pressCommandFinish (id : Nat)
  | copyComplete (op : Nat) (data : List Byte)
  | scoreboardGrant (core : Nat)
  | watchMatch (gid : Nat) (entry : Nat)
  | swaitDeadline (gid : Nat) (entry : Nat)
  | homeSliceAccess (op : Nat) (lane : Nat)
  | l1Recall (core : Nat) (tag : Nat) (line : Nat)
  | directoryEviction (tag : Nat) (line : Nat)
  | l2Eviction (tag : Nat) (line : Nat)
  | pageWalk (ctx : Nat) (off : Nat)
  | remoteRequest (peer : Nat) (req : RemoteReq)
  | homeAgentOp (op : Nat)
  | crucibleArrival (op : Nat) (k : Nat)
  | orderEntryLoad (ctx : Nat) (region : Nat) (granule : Nat)
  | orderEntryEvict (ctx : Nat) (region : Nat) (granule : Nat)
  | orderStall (ctx : Nat) (region : Nat) (granule : Nat)
  | flitReceive (peer : Nat) (set : Nat) (seq : Nat) (good : Bool) (ctx : Nat)
  | laneSetChange (peer : Nat)
  | leaseRequestArrival (peer : Nat) (lanes : Nat) (term : Nat) (revoking : Bool)
  | leaseDecision
  | leaseGrant (ctx : Nat) (slot : Nat) (granted : Bool) (notice : Nat)
  | noticeEnd (ctx : Nat) (k : Nat)
  | leaseTermExpiry (ctx : Nat) (slot : Nat)
  | mrContribution (ctx : Nat) (win : Nat) (member : Nat) (chunk : Nat) (data : List Byte)
  | mrResend (op : Nat)
  | mrDelivery (ctx : Nat) (win : Nat) (gen : Nat) (chunk : Nat) (data : List Byte)
  | rgetServe (peer : Nat) (ctx : Nat) (addr : Dword) (len : Nat) (requester : BitVec 192)
  | mapftExecute (op : Nat)
  | xfenceComplete (op : Nat)
  | signalDecrement (k : Nat)
  | waitsigPoll (gid : Nat) (entry : Nat) (remote : Dword) (fault : Nat)
  | sealPerform
  | qbase (q : Nat) (v : Dword)
  | queueEnable (q : Nat)
  | queueDisable (q : Nat)
  | qctlConfig (q : Nat) (v : Dword)
  | qerr (q : Nat) (v : Dword)
  | doorbell (q : Nat) (w : Word)
  | registerWrite (off : Nat) (v : Dword)
  | hostWindowRead (x : Nat) (width : Nat)
  | hostWindowWrite (x : Nat) (width : Nat) (v : Nat)
  | packetRead (q : Nat)
  | launchPacketRead (op : Nat)
  | dependenceMet (launch : Nat)
  | priorityStarvation (q : Nat)
  | eventWordClear (v : Dword)
  | ctxCreate (slot : Nat) (c : Nat) (block : Dword) (cores : BitVec 160)
  | ctxCores (slot : Nat) (c : Nat) (add : BitVec 160) (rem : BitVec 160)
  | ctxStop (slot : Nat) (c : Nat)
  | contextStopped (c : Nat)
  | ctxResume (slot : Nat) (c : Nat)
  | ctxEnd (slot : Nat) (c : Nat)
  | contextDrained (c : Nat)
  | inval (slot : Nat) (c : Nat) (off : Dword) (len : Dword) (glob : Bool)
  | rangeSet (slot : Nat) (k : Nat) (e : BitVec 256)
  | rangeClear (slot : Nat) (k : Nat)
  | regionEnable (slot : Nat) (c : Nat) (k : Nat)
  | regionDisable (slot : Nat) (c : Nat) (k : Nat)
  | windowEnable (slot : Nat) (c : Nat) (k : Nat)
  | windowDisable (slot : Nat) (c : Nat) (k : Nat)
  | fwStage (slot : Nat) (addr : Dword) (len : Nat) (pieces : List Byte)
  | serviceFull (slot : Nat)
  | domainForm (slot : Nat) (index : Nat) (count : Nat) (laneMap : Dword) (floors : Dword) (mismatch : Option Nat)
  | domainLeave (slot : Nat)
  | ctxMembers (slot : Nat) (c : Nat) (mask : BitVec 1024)
  | uePort (slot : Nat) (port : Nat) (entry : BitVec 512)
  | peerTable (slot : Nat) (c : Nat) (base : Dword) (n : Nat)
  | powerSet (slot : Nat) (limit : Nat) (q : Nat)
  | jobSet (slot : Nat) (c : Nat) (job : BitVec 256)
  | hmRead (slot : Nat) (c : Nat)
  | hmSeal (slot : Nat) (c : Nat) (dst : Dword)
  | domAttest (slot : Nat) (c : Nat) (dst : Dword)
  | idRead (slot : Nat) (dst : Dword)
  | errRead (slot : Nat) (dst : Dword) (n : Nat)
  | traceSet (slot : Nat) (core : Nat) (base : Dword) (cap : Nat) (shift : Nat)
  | debugSet (slot : Nat) (c : Nat) (on : Bool) (base : Dword)
  | debugStop (slot : Nat) (c : Nat) (group : Nat) (stream : Stream) (entry : Nat)
  | debugRelease (slot : Nat) (c : Nat) (group : Nat) (stream : Stream) (entry : Nat)
  | debugDump (slot : Nat) (c : Nat) (group : Nat) (stream : Stream) (entry : Nat) (dst : Dword)
  | powerOnReset
  | stack0Trained
  | bringupComplete (hbm : BitVec 12) (cores : SelfTests)
  | powerSample (watts : Nat) (junction : Nat) (inlet : Nat)
  | thermalTrip
  | budgetRefill
  | keySwitchAnnounce (peer : Nat) (set : Nat)
  | keySwitch (peer : Nat) (set : Nat)
  | keySwitchRetry (peer : Nat) (set : Nat)
  | oldGenerationExpiry (peer : Nat) (set : Nat)
  | timeExchange (offset : Int)
  | timeOffsetAlert
  | l2Scrub
  | hbmScrub
  | errorReport (report : ErrReport)
  | traceDrain (core : Nat)
  | traceSample (core : Nat)
  | acknowledgementReturn (op : Nat)
  | rgetPieceLanding (op : Nat) (piece : Nat) (data : List Byte)
  | transportFailure (op : Nat) (piece : Nat)
  | peerLeavesDomain (peer : Nat)
  deriving DecidableEq, Repr

end Sys2Proof
end

