-- ==== Sys2Proof/Machine/Opcodes.lean ====
section
/-!
DEFINITION. The opcode map (R219 to R228): the major and minor of every word, its body by format, the
constructor that a major, a minor and a body name, and the class of each pair.
-/

namespace Sys2Proof.Machine

/-- The fields of a word, by format (R197). -/
inductive Body where
  | y (f : FmtY)
  | a (f : FmtA)
  | i (f : FmtI)
  | m (f : FmtM)
  | b (f : FmtB)
  | xr (f : FmtXR)
  | xa (f : FmtXA)
  deriving DecidableEq, Repr

/-- The fields common to all formats (R196). -/
def Body.head : Body → Head
  | .y f => f.toHead
  | .a f => f.toHead
  | .i f => f.toHead
  | .m f => f.toHead
  | .b f => f.toHead
  | .xr f => f.toHead
  | .xa f => f.toHead

/-- Sources B and C; a format without the field answers zero. -/
def Body.srcB : Body → Src
  | .y f => f.b
  | .a f => f.b
  | .i _ => .vec 0
  | .m f => f.b
  | .b _ => .vec 0
  | .xr f => f.b
  | .xa f => f.b

@[inherit_doc Body.srcB] def Body.srcC : Body → Src
  | .y f => f.c
  | .a f => f.c
  | .i _ => .vec 0
  | .m f => f.c
  | .b _ => .vec 0
  | .xr f => f.c
  | .xa f => f.c

/-- The major, minor and body of a word; none for the operations and events of the machine. -/
def parts : Instr → Option (Nat × Nat × Body)
  | .trap f => some (0x01, 0x00, .y f)
  | .bkpt f => some (0x01, 0x01, .y f)
  | .sysrd f => some (0x02, 0x00, .y f)
  | .syswr f => some (0x02, 0x01, .y f)
  | .eret f => some (0x03, 0x00, .y f)
  | .mapft f => some (0x03, 0x01, .y f)
  | .grow f => some (0x04, 0x00, .y f)
  | .shrink f => some (0x04, 0x01, .y f)
  | .launch f => some (0x04, 0x02, .y f)
  | .temit f => some (0x05, 0x00, .y f)
  | .tstamp f => some (0x05, 0x01, .y f)
  | .hmread f => some (0x06, 0x00, .y f)
  | .hmseal f => some (0x06, 0x01, .y f)
  | .vadd f => some (0x20, 0x00, .a f)
  | .vsub f => some (0x20, 0x01, .a f)
  | .vmul f => some (0x20, 0x02, .a f)
  | .vmulh f => some (0x20, 0x03, .a f)
  | .vmad f => some (0x20, 0x04, .a f)
  | .vmin f => some (0x20, 0x05, .a f)
  | .vmax f => some (0x20, 0x06, .a f)
  | .vabs f => some (0x20, 0x07, .a f)
  | .vneg f => some (0x20, 0x08, .a f)
  | .vaddc f => some (0x20, 0x09, .a f)
  | .vsubb f => some (0x20, 0x0A, .a f)
  | .vand f => some (0x21, 0x00, .a f)
  | .vor f => some (0x21, 0x01, .a f)
  | .vxor f => some (0x21, 0x02, .a f)
  | .vnot f => some (0x21, 0x03, .a f)
  | .vshl f => some (0x21, 0x04, .a f)
  | .vshr f => some (0x21, 0x05, .a f)
  | .vsar f => some (0x21, 0x06, .a f)
  | .vrot f => some (0x21, 0x07, .a f)
  | .vbfx f => some (0x21, 0x08, .a f)
  | .vbfi f => some (0x21, 0x09, .a f)
  | .vpopc f => some (0x21, 0x0A, .a f)
  | .vclz f => some (0x21, 0x0B, .a f)
  | .vctz f => some (0x21, 0x0C, .a f)
  | .vbrev f => some (0x21, 0x0D, .a f)
  | .vpermb f => some (0x21, 0x0E, .a f)
  | .vsel f => some (0x21, 0x0F, .a f)
  | .vmov f => some (0x21, 0x10, .a f)
  | .vcmp f => some (0x22, 0x00, .a f)
  | .vtest f => some (0x22, 0x01, .a f)
  | .vfadd f => some (0x23, 0x00, .a f)
  | .vfsub f => some (0x23, 0x01, .a f)
  | .vfmul f => some (0x23, 0x02, .a f)
  | .vfma f => some (0x23, 0x03, .a f)
  | .vfms f => some (0x23, 0x04, .a f)
  | .vfnma f => some (0x23, 0x05, .a f)
  | .vfmin f => some (0x23, 0x06, .a f)
  | .vfmax f => some (0x23, 0x07, .a f)
  | .vfabs f => some (0x23, 0x08, .a f)
  | .vfneg f => some (0x23, 0x09, .a f)
  | .vfcpys f => some (0x23, 0x0A, .a f)
  | .vfcmp f => some (0x24, 0x00, .a f)
  | .vfclass f => some (0x24, 0x01, .a f)
  | .vrcp f => some (0x25, 0x00, .a f)
  | .vrsqrt f => some (0x25, 0x01, .a f)
  | .vsqrt f => some (0x25, 0x02, .a f)
  | .vexp2 f => some (0x25, 0x03, .a f)
  | .vlog2 f => some (0x25, 0x04, .a f)
  | .vsin f => some (0x25, 0x05, .a f)
  | .vcos f => some (0x25, 0x06, .a f)
  | .vtanh f => some (0x25, 0x07, .a f)
  | .cvt f => some (0x26, 0x00, .a f)
  | .cvtn f => some (0x26, 0x01, .a f)
  | .cvtef f => some (0x26, 0x02, .a f)
  | .cvtw f => some (0x26, 0x03, .a f)
  | .mxq f => some (0x27, 0x00, .a f)
  | .mxdq f => some (0x27, 0x01, .a f)
  | .vshfl f => some (0x28, 0x00, .a f)
  | .vbcast f => some (0x28, 0x01, .a f)
  | .vredadd f => some (0x28, 0x02, .a f)
  | .vredmax f => some (0x28, 0x03, .a f)
  | .vscan f => some (0x28, 0x04, .a f)
  | .topk f => some (0x29, 0x00, .a f)
  | .topkM f => some (0x29, 0x01, .a f)
  | .selk f => some (0x29, 0x02, .a f)
  | .sadd f => some (0x30, 0x00, .a f)
  | .ssub f => some (0x30, 0x01, .a f)
  | .smul f => some (0x30, 0x02, .a f)
  | .sand f => some (0x30, 0x03, .a f)
  | .sor f => some (0x30, 0x04, .a f)
  | .sxor f => some (0x30, 0x05, .a f)
  | .sshl f => some (0x30, 0x06, .a f)
  | .sshr f => some (0x30, 0x07, .a f)
  | .ssar f => some (0x30, 0x08, .a f)
  | .smin f => some (0x30, 0x09, .a f)
  | .smax f => some (0x30, 0x0A, .a f)
  | .smov f => some (0x30, 0x0B, .a f)
  | .ssel f => some (0x30, 0x0C, .a f)
  | .srdsys f => some (0x31, 0x00, .a f)
  | .sldc f => some (0x31, 0x01, .a f)
  | .pset f => some (0x32, 0x00, .a f)
  | .pclr f => some (0x32, 0x01, .a f)
  | .pand f => some (0x32, 0x02, .a f)
  | .por f => some (0x32, 0x03, .a f)
  | .pxor f => some (0x32, 0x04, .a f)
  | .pandn f => some (0x32, 0x05, .a f)
  | .pmov f => some (0x32, 0x06, .a f)
  | .pcnt f => some (0x32, 0x07, .a f)
  | .pfirst f => some (0x32, 0x08, .a f)
  | .execrd f => some (0x33, 0x00, .a f)
  | .execwr f => some (0x33, 0x01, .a f)
  | .recon f => some (0x33, 0x02, .a f)
  | .swait f => some (0x33, 0x03, .a f)
  | .vaddI f => some (0x60, 0x00, .i f)
  | .vsubI f => some (0x60, 0x01, .i f)
  | .vmulI f => some (0x60, 0x02, .i f)
  | .vmulhI f => some (0x60, 0x03, .i f)
  | .vminI f => some (0x60, 0x05, .i f)
  | .vmaxI f => some (0x60, 0x06, .i f)
  | .vaddcI f => some (0x60, 0x09, .i f)
  | .vsubbI f => some (0x60, 0x0A, .i f)
  | .vandI f => some (0x61, 0x00, .i f)
  | .vorI f => some (0x61, 0x01, .i f)
  | .vxorI f => some (0x61, 0x02, .i f)
  | .vshlI f => some (0x61, 0x04, .i f)
  | .vshrI f => some (0x61, 0x05, .i f)
  | .vsarI f => some (0x61, 0x06, .i f)
  | .vrotI f => some (0x61, 0x07, .i f)
  | .vmovI f => some (0x61, 0x10, .i f)
  | .vcmpI f => some (0x62, 0x00, .i f)
  | .vtestI f => some (0x62, 0x01, .i f)
  | .vfaddI f => some (0x63, 0x00, .i f)
  | .vfsubI f => some (0x63, 0x01, .i f)
  | .vfmulI f => some (0x63, 0x02, .i f)
  | .vfminI f => some (0x63, 0x06, .i f)
  | .vfmaxI f => some (0x63, 0x07, .i f)
  | .vfcpysI f => some (0x63, 0x0A, .i f)
  | .vfcmpI f => some (0x64, 0x00, .i f)
  | .saddI f => some (0x70, 0x00, .i f)
  | .ssubI f => some (0x70, 0x01, .i f)
  | .smulI f => some (0x70, 0x02, .i f)
  | .sandI f => some (0x70, 0x03, .i f)
  | .sorI f => some (0x70, 0x04, .i f)
  | .sxorI f => some (0x70, 0x05, .i f)
  | .sshlI f => some (0x70, 0x06, .i f)
  | .sshrI f => some (0x70, 0x07, .i f)
  | .ssarI f => some (0x70, 0x08, .i f)
  | .sminI f => some (0x70, 0x09, .i f)
  | .smaxI f => some (0x70, 0x0A, .i f)
  | .smovI f => some (0x70, 0x0B, .i f)
  | .ldv f => some (0x80, 0x00, .m f)
  | .ldp f => some (0x80, 0x01, .m f)
  | .grld f => some (0x80, 0x02, .m f)
  | .pfetch f => some (0x80, 0x03, .m f)
  | .st f => some (0x81, 0x00, .m f)
  | .stq f => some (0x81, 0x01, .m f)
  | .lds f => some (0x82, 0x00, .m f)
  | .sts f => some (0x82, 0x01, .m f)
  | .ldsT f => some (0x82, 0x02, .m f)
  | .ldcl f => some (0x82, 0x03, .m f)
  | .stcl f => some (0x82, 0x04, .m f)
  | .qcount f => some (0x83, 0x00, .m f)
  | .qskip f => some (0x83, 0x01, .m f)
  | .aadd f => some (0x84, 0x00, .m f)
  | .asub f => some (0x84, 0x01, .m f)
  | .aand f => some (0x84, 0x02, .m f)
  | .aor f => some (0x84, 0x03, .m f)
  | .axor f => some (0x84, 0x04, .m f)
  | .amin f => some (0x84, 0x05, .m f)
  | .amax f => some (0x84, 0x06, .m f)
  | .aminu f => some (0x84, 0x07, .m f)
  | .amaxu f => some (0x84, 0x08, .m f)
  | .axchg f => some (0x84, 0x09, .m f)
  | .acas f => some (0x84, 0x0A, .m f)
  | .fadd f => some (0x85, 0x00, .m f)
  | .faddOrd f => some (0x85, 0x01, .m f)
  | .mxacc f => some (0x85, 0x02, .m f)
  | .mxaccOrd f => some (0x85, 0x03, .m f)
  | .mxld f => some (0x85, 0x04, .m f)
  | .mxst f => some (0x85, 0x05, .m f)
  | .fence f => some (0x86, 0x00, .m f)
  | .waitc f => some (0x86, 0x01, .m f)
  | .waitw f => some (0x86, 0x02, .m f)
  | .harrive f => some (0x87, 0x00, .m f)
  | .hwait f => some (0x87, 0x01, .m f)
  | .cjoin f => some (0x87, 0x02, .m f)
  | .cleave f => some (0x87, 0x03, .m f)
  | .carrive f => some (0x87, 0x04, .m f)
  | .cwait f => some (0x87, 0x05, .m f)
  | .sigdec f => some (0x88, 0x00, .m f)
  | .waitsig f => some (0x88, 0x01, .m f)
  | .copy f => some (0x89, 0x00, .m f)
  | .copyo f => some (0x89, 0x01, .m f)
  | .copyc f => some (0x89, 0x02, .m f)
  | .gclaim f => some (0x8A, 0x00, .m f)
  | .gcommit f => some (0x8A, 0x01, .m f)
  | .gawait f => some (0x8A, 0x02, .m f)
  | .gretire f => some (0x8A, 0x03, .m f)
  | .sqpub f => some (0x8A, 0x04, .m f)
  | .sqget f => some (0x8A, 0x05, .m f)
  | .lease f => some (0x8B, 0x00, .m f)
  | .leaseDrop f => some (0x8B, 0x00, .m f)
  | .leaseq f => some (0x8B, 0x01, .m f)
  | .nmop f => some (0x8B, 0x02, .m f)
  | .stMr f => some (0x8B, 0x03, .m f)
  | .xfence f => some (0x8B, 0x04, .m f)
  | .rgetQueue f => some (0x8B, 0x05, .m f)
  | .rgetSpad f => some (0x8B, 0x05, .m f)
  | .bra f => some (0xC0, 0x00, .b f)
  | .brc f => some (0xC0, 0x01, .b f)
  | .bdiv f => some (0xC0, 0x02, .b f)
  | .brx f => some (0xC0, 0x03, .b f)
  | .call f => some (0xC0, 0x04, .b f)
  | .ret f => some (0xC0, 0x05, .b f)
  | .exit f => some (0xC0, 0x06, .b f)
  | .loops f => some (0xC0, 0x07, .b f)
  | .mloop f => some (0xC8, 0x00, .b f)
  | .mbra f => some (0xC8, 0x01, .b f)
  | .mend f => some (0xC8, 0x02, .b f)
  | .mload f => some (0xE0, 0x00, .xr f)
  | .mloadT f => some (0xE0, 0x01, .xr f)
  | .mloadS f => some (0xE0, 0x02, .xr f)
  | .mstore f => some (0xE0, 0x03, .xr f)
  | .mma f => some (0xE1, 0x00, .xa f)
  | .mzero f => some (0xE1, 0x01, .xa f)
  | .mcvt f => some (0xE1, 0x02, .xa f)
  | .mharrive f => some (0xE2, 0x00, .xa f)
  | .mhwait f => some (0xE2, 0x01, .xa f)
  | .mpop f => some (0xE2, 0x02, .xa f)
  | .msig f => some (0xE2, 0x03, .xa f)
  | .runFetch _ _ => none
  | .pathArbitration _ _ => none
  | .pathPromotion _ _ => none
  | .pressArbitration _ => none
  | .bankTheft _ _ => none
  | .ladleWindowAccess _ _ => none
  | .qdead _ => none
  | .loadDataReturn _ _ => none
  | .faultReturn _ _ _ _ => none
  | .storeUnitStore _ _ => none
  | .placement _ _ _ => none
  | .migration _ _ _ => none
  | .growPreemption _ _ => none
  | .cwaitPreemption _ => none
  | .preemption _ => none
  | .retirement _ => none
  | .pressCauseDelivery _ _ => none
  | .hoopArrivalCount _ => none
  | .pressCommandFinish _ => none
  | .copyComplete _ _ => none
  | .scoreboardGrant _ => none
  | .watchMatch _ _ => none
  | .swaitDeadline _ _ => none
  | .homeSliceAccess _ _ => none
  | .l1Recall _ _ _ => none
  | .directoryEviction _ _ => none
  | .l2Eviction _ _ => none
  | .pageWalk _ _ => none
  | .remoteRequest _ _ => none
  | .homeAgentOp _ => none
  | .crucibleArrival _ _ => none
  | .orderEntryLoad _ _ _ => none
  | .orderEntryEvict _ _ _ => none
  | .orderStall _ _ _ => none
  | .flitReceive _ _ _ _ _ => none
  | .laneSetChange _ => none
  | .leaseRequestArrival _ _ _ _ => none
  | .leaseDecision => none
  | .leaseGrant _ _ _ _ => none
  | .noticeEnd _ _ => none
  | .leaseTermExpiry _ _ => none
  | .mrContribution _ _ _ _ _ => none
  | .mrResend _ => none
  | .mrDelivery _ _ _ _ _ => none
  | .rgetServe _ _ _ _ _ => none
  | .mapftExecute _ => none
  | .xfenceComplete _ => none
  | .signalDecrement _ => none
  | .waitsigPoll _ _ _ _ => none
  | .sealPerform => none
  | .qbase _ _ => none
  | .queueEnable _ => none
  | .queueDisable _ => none
  | .qctlConfig _ _ => none
  | .qerr _ _ => none
  | .doorbell _ _ => none
  | .registerWrite _ _ => none
  | .hostWindowRead _ _ => none
  | .hostWindowWrite _ _ _ => none
  | .packetRead _ => none
  | .launchPacketRead _ => none
  | .dependenceMet _ => none
  | .priorityStarvation _ => none
  | .eventWordClear _ => none
  | .ctxCreate _ _ _ _ => none
  | .ctxCores _ _ _ _ => none
  | .ctxStop _ _ => none
  | .contextStopped _ => none
  | .ctxResume _ _ => none
  | .ctxEnd _ _ => none
  | .contextDrained _ => none
  | .inval _ _ _ _ _ => none
  | .rangeSet _ _ _ => none
  | .rangeClear _ _ => none
  | .regionEnable _ _ _ => none
  | .regionDisable _ _ _ => none
  | .windowEnable _ _ _ => none
  | .windowDisable _ _ _ => none
  | .fwStage _ _ _ _ => none
  | .serviceFull _ => none
  | .domainForm _ _ _ _ _ _ => none
  | .domainLeave _ => none
  | .ctxMembers _ _ _ => none
  | .uePort _ _ _ => none
  | .peerTable _ _ _ _ => none
  | .powerSet _ _ _ => none
  | .jobSet _ _ _ => none
  | .hmRead _ _ => none
  | .hmSeal _ _ _ => none
  | .domAttest _ _ _ => none
  | .idRead _ _ => none
  | .errRead _ _ _ => none
  | .traceSet _ _ _ _ _ => none
  | .debugSet _ _ _ _ => none
  | .debugStop _ _ _ _ _ => none
  | .debugRelease _ _ _ _ _ => none
  | .debugDump _ _ _ _ _ _ => none
  | .powerOnReset => none
  | .stack0Trained => none
  | .bringupComplete _ _ => none
  | .powerSample _ _ _ => none
  | .thermalTrip => none
  | .budgetRefill => none
  | .keySwitchAnnounce _ _ => none
  | .keySwitch _ _ => none
  | .keySwitchRetry _ _ => none
  | .oldGenerationExpiry _ _ => none
  | .timeExchange _ => none
  | .timeOffsetAlert => none
  | .l2Scrub => none
  | .hbmScrub => none
  | .errorReport _ => none
  | .traceDrain _ => none
  | .traceSample _ => none
  | .acknowledgementReturn _ => none
  | .rgetPieceLanding _ _ _ => none
  | .transportFailure _ _ => none
  | .peerLeavesDomain _ => none

/-- The constructor of a major, a minor and a body of format Y (R221 to R227). -/
def buildY (major minor : Nat) (f : FmtY) : Option Instr :=
  match major, minor with
  | 0x01, 0x00 => some (.trap f)
  | 0x01, 0x01 => some (.bkpt f)
  | 0x02, 0x00 => some (.sysrd f)
  | 0x02, 0x01 => some (.syswr f)
  | 0x03, 0x00 => some (.eret f)
  | 0x03, 0x01 => some (.mapft f)
  | 0x04, 0x00 => some (.grow f)
  | 0x04, 0x01 => some (.shrink f)
  | 0x04, 0x02 => some (.launch f)
  | 0x05, 0x00 => some (.temit f)
  | 0x05, 0x01 => some (.tstamp f)
  | 0x06, 0x00 => some (.hmread f)
  | 0x06, 0x01 => some (.hmseal f)
  | _, _ => none

/-- The constructor of a major, a minor and a body of format A (R221 to R227). -/
def buildA (major minor : Nat) (f : FmtA) : Option Instr :=
  match major, minor with
  | 0x20, 0x00 => some (.vadd f)
  | 0x20, 0x01 => some (.vsub f)
  | 0x20, 0x02 => some (.vmul f)
  | 0x20, 0x03 => some (.vmulh f)
  | 0x20, 0x04 => some (.vmad f)
  | 0x20, 0x05 => some (.vmin f)
  | 0x20, 0x06 => some (.vmax f)
  | 0x20, 0x07 => some (.vabs f)
  | 0x20, 0x08 => some (.vneg f)
  | 0x20, 0x09 => some (.vaddc f)
  | 0x20, 0x0A => some (.vsubb f)
  | 0x21, 0x00 => some (.vand f)
  | 0x21, 0x01 => some (.vor f)
  | 0x21, 0x02 => some (.vxor f)
  | 0x21, 0x03 => some (.vnot f)
  | 0x21, 0x04 => some (.vshl f)
  | 0x21, 0x05 => some (.vshr f)
  | 0x21, 0x06 => some (.vsar f)
  | 0x21, 0x07 => some (.vrot f)
  | 0x21, 0x08 => some (.vbfx f)
  | 0x21, 0x09 => some (.vbfi f)
  | 0x21, 0x0A => some (.vpopc f)
  | 0x21, 0x0B => some (.vclz f)
  | 0x21, 0x0C => some (.vctz f)
  | 0x21, 0x0D => some (.vbrev f)
  | 0x21, 0x0E => some (.vpermb f)
  | 0x21, 0x0F => some (.vsel f)
  | 0x21, 0x10 => some (.vmov f)
  | 0x22, 0x00 => some (.vcmp f)
  | 0x22, 0x01 => some (.vtest f)
  | 0x23, 0x00 => some (.vfadd f)
  | 0x23, 0x01 => some (.vfsub f)
  | 0x23, 0x02 => some (.vfmul f)
  | 0x23, 0x03 => some (.vfma f)
  | 0x23, 0x04 => some (.vfms f)
  | 0x23, 0x05 => some (.vfnma f)
  | 0x23, 0x06 => some (.vfmin f)
  | 0x23, 0x07 => some (.vfmax f)
  | 0x23, 0x08 => some (.vfabs f)
  | 0x23, 0x09 => some (.vfneg f)
  | 0x23, 0x0A => some (.vfcpys f)
  | 0x24, 0x00 => some (.vfcmp f)
  | 0x24, 0x01 => some (.vfclass f)
  | 0x25, 0x00 => some (.vrcp f)
  | 0x25, 0x01 => some (.vrsqrt f)
  | 0x25, 0x02 => some (.vsqrt f)
  | 0x25, 0x03 => some (.vexp2 f)
  | 0x25, 0x04 => some (.vlog2 f)
  | 0x25, 0x05 => some (.vsin f)
  | 0x25, 0x06 => some (.vcos f)
  | 0x25, 0x07 => some (.vtanh f)
  | 0x26, 0x00 => some (.cvt f)
  | 0x26, 0x01 => some (.cvtn f)
  | 0x26, 0x02 => some (.cvtef f)
  | 0x26, 0x03 => some (.cvtw f)
  | 0x27, 0x00 => some (.mxq f)
  | 0x27, 0x01 => some (.mxdq f)
  | 0x28, 0x00 => some (.vshfl f)
  | 0x28, 0x01 => some (.vbcast f)
  | 0x28, 0x02 => some (.vredadd f)
  | 0x28, 0x03 => some (.vredmax f)
  | 0x28, 0x04 => some (.vscan f)
  | 0x29, 0x00 => some (.topk f)
  | 0x29, 0x01 => some (.topkM f)
  | 0x29, 0x02 => some (.selk f)
  | 0x30, 0x00 => some (.sadd f)
  | 0x30, 0x01 => some (.ssub f)
  | 0x30, 0x02 => some (.smul f)
  | 0x30, 0x03 => some (.sand f)
  | 0x30, 0x04 => some (.sor f)
  | 0x30, 0x05 => some (.sxor f)
  | 0x30, 0x06 => some (.sshl f)
  | 0x30, 0x07 => some (.sshr f)
  | 0x30, 0x08 => some (.ssar f)
  | 0x30, 0x09 => some (.smin f)
  | 0x30, 0x0A => some (.smax f)
  | 0x30, 0x0B => some (.smov f)
  | 0x30, 0x0C => some (.ssel f)
  | 0x31, 0x00 => some (.srdsys f)
  | 0x31, 0x01 => some (.sldc f)
  | 0x32, 0x00 => some (.pset f)
  | 0x32, 0x01 => some (.pclr f)
  | 0x32, 0x02 => some (.pand f)
  | 0x32, 0x03 => some (.por f)
  | 0x32, 0x04 => some (.pxor f)
  | 0x32, 0x05 => some (.pandn f)
  | 0x32, 0x06 => some (.pmov f)
  | 0x32, 0x07 => some (.pcnt f)
  | 0x32, 0x08 => some (.pfirst f)
  | 0x33, 0x00 => some (.execrd f)
  | 0x33, 0x01 => some (.execwr f)
  | 0x33, 0x02 => some (.recon f)
  | 0x33, 0x03 => some (.swait f)
  | _, _ => none

/-- The constructor of a major, a minor and a body of format I (R221 to R227). -/
def buildI (major minor : Nat) (f : FmtI) : Option Instr :=
  match major, minor with
  | 0x60, 0x00 => some (.vaddI f)
  | 0x60, 0x01 => some (.vsubI f)
  | 0x60, 0x02 => some (.vmulI f)
  | 0x60, 0x03 => some (.vmulhI f)
  | 0x60, 0x05 => some (.vminI f)
  | 0x60, 0x06 => some (.vmaxI f)
  | 0x60, 0x09 => some (.vaddcI f)
  | 0x60, 0x0A => some (.vsubbI f)
  | 0x61, 0x00 => some (.vandI f)
  | 0x61, 0x01 => some (.vorI f)
  | 0x61, 0x02 => some (.vxorI f)
  | 0x61, 0x04 => some (.vshlI f)
  | 0x61, 0x05 => some (.vshrI f)
  | 0x61, 0x06 => some (.vsarI f)
  | 0x61, 0x07 => some (.vrotI f)
  | 0x61, 0x10 => some (.vmovI f)
  | 0x62, 0x00 => some (.vcmpI f)
  | 0x62, 0x01 => some (.vtestI f)
  | 0x63, 0x00 => some (.vfaddI f)
  | 0x63, 0x01 => some (.vfsubI f)
  | 0x63, 0x02 => some (.vfmulI f)
  | 0x63, 0x06 => some (.vfminI f)
  | 0x63, 0x07 => some (.vfmaxI f)
  | 0x63, 0x0A => some (.vfcpysI f)
  | 0x64, 0x00 => some (.vfcmpI f)
  | 0x70, 0x00 => some (.saddI f)
  | 0x70, 0x01 => some (.ssubI f)
  | 0x70, 0x02 => some (.smulI f)
  | 0x70, 0x03 => some (.sandI f)
  | 0x70, 0x04 => some (.sorI f)
  | 0x70, 0x05 => some (.sxorI f)
  | 0x70, 0x06 => some (.sshlI f)
  | 0x70, 0x07 => some (.sshrI f)
  | 0x70, 0x08 => some (.ssarI f)
  | 0x70, 0x09 => some (.sminI f)
  | 0x70, 0x0A => some (.smaxI f)
  | 0x70, 0x0B => some (.smovI f)
  | _, _ => none

/-- The constructor of a major, a minor and a body of format M (R221 to R227). -/
def buildM (major minor : Nat) (f : FmtM) : Option Instr :=
  match major, minor with
  | 0x80, 0x00 => some (.ldv f)
  | 0x80, 0x01 => some (.ldp f)
  | 0x80, 0x02 => some (.grld f)
  | 0x80, 0x03 => some (.pfetch f)
  | 0x81, 0x00 => some (.st f)
  | 0x81, 0x01 => some (.stq f)
  | 0x82, 0x00 => some (.lds f)
  | 0x82, 0x01 => some (.sts f)
  | 0x82, 0x02 => some (.ldsT f)
  | 0x82, 0x03 => some (.ldcl f)
  | 0x82, 0x04 => some (.stcl f)
  | 0x83, 0x00 => some (.qcount f)
  | 0x83, 0x01 => some (.qskip f)
  | 0x84, 0x00 => some (.aadd f)
  | 0x84, 0x01 => some (.asub f)
  | 0x84, 0x02 => some (.aand f)
  | 0x84, 0x03 => some (.aor f)
  | 0x84, 0x04 => some (.axor f)
  | 0x84, 0x05 => some (.amin f)
  | 0x84, 0x06 => some (.amax f)
  | 0x84, 0x07 => some (.aminu f)
  | 0x84, 0x08 => some (.amaxu f)
  | 0x84, 0x09 => some (.axchg f)
  | 0x84, 0x0A => some (.acas f)
  | 0x85, 0x00 => some (.fadd f)
  | 0x85, 0x01 => some (.faddOrd f)
  | 0x85, 0x02 => some (.mxacc f)
  | 0x85, 0x03 => some (.mxaccOrd f)
  | 0x85, 0x04 => some (.mxld f)
  | 0x85, 0x05 => some (.mxst f)
  | 0x86, 0x00 => some (.fence f)
  | 0x86, 0x01 => some (.waitc f)
  | 0x86, 0x02 => some (.waitw f)
  | 0x87, 0x00 => some (.harrive f)
  | 0x87, 0x01 => some (.hwait f)
  | 0x87, 0x02 => some (.cjoin f)
  | 0x87, 0x03 => some (.cleave f)
  | 0x87, 0x04 => some (.carrive f)
  | 0x87, 0x05 => some (.cwait f)
  | 0x88, 0x00 => some (.sigdec f)
  | 0x88, 0x01 => some (.waitsig f)
  | 0x89, 0x00 => some (.copy f)
  | 0x89, 0x01 => some (.copyo f)
  | 0x89, 0x02 => some (.copyc f)
  | 0x8A, 0x00 => some (.gclaim f)
  | 0x8A, 0x01 => some (.gcommit f)
  | 0x8A, 0x02 => some (.gawait f)
  | 0x8A, 0x03 => some (.gretire f)
  | 0x8A, 0x04 => some (.sqpub f)
  | 0x8A, 0x05 => some (.sqget f)
  | 0x8B, 0x00 => some (if f.off.getLsbD 1 then .leaseDrop f else .lease f)
  | 0x8B, 0x01 => some (.leaseq f)
  | 0x8B, 0x02 => some (.nmop f)
  | 0x8B, 0x03 => some (.stMr f)
  | 0x8B, 0x04 => some (.xfence f)
  | 0x8B, 0x05 => some (if f.off.getLsbD 0 then .rgetSpad f else .rgetQueue f)
  | _, _ => none

/-- The constructor of a major, a minor and a body of format B (R221 to R227). -/
def buildB (major minor : Nat) (f : FmtB) : Option Instr :=
  match major, minor with
  | 0xC0, 0x00 => some (.bra f)
  | 0xC0, 0x01 => some (.brc f)
  | 0xC0, 0x02 => some (.bdiv f)
  | 0xC0, 0x03 => some (.brx f)
  | 0xC0, 0x04 => some (.call f)
  | 0xC0, 0x05 => some (.ret f)
  | 0xC0, 0x06 => some (.exit f)
  | 0xC0, 0x07 => some (.loops f)
  | 0xC8, 0x00 => some (.mloop f)
  | 0xC8, 0x01 => some (.mbra f)
  | 0xC8, 0x02 => some (.mend f)
  | _, _ => none

/-- The constructor of a major, a minor and a body of format XR (R221 to R227). -/
def buildXR (major minor : Nat) (f : FmtXR) : Option Instr :=
  match major, minor with
  | 0xE0, 0x00 => some (.mload f)
  | 0xE0, 0x01 => some (.mloadT f)
  | 0xE0, 0x02 => some (.mloadS f)
  | 0xE0, 0x03 => some (.mstore f)
  | _, _ => none

/-- The constructor of a major, a minor and a body of format XA (R221 to R227). -/
def buildXA (major minor : Nat) (f : FmtXA) : Option Instr :=
  match major, minor with
  | 0xE1, 0x00 => some (.mma f)
  | 0xE1, 0x01 => some (.mzero f)
  | 0xE1, 0x02 => some (.mcvt f)
  | 0xE2, 0x00 => some (.mharrive f)
  | 0xE2, 0x01 => some (.mhwait f)
  | 0xE2, 0x02 => some (.mpop f)
  | 0xE2, 0x03 => some (.msig f)
  | _, _ => none

/-- The constructor that a major, a minor and a body name. -/
def build (major minor : Nat) : Body → Option Instr
  | .y f => buildY major minor f
  | .a f => buildA major minor f
  | .i f => buildI major minor f
  | .m f => buildM major minor f
  | .b f => buildB major minor f
  | .xr f => buildXR major minor f
  | .xa f => buildXA major minor f

/-- Whether a pair is legal in a stream (R221 to R227). -/
def streamAccepts (st : Stream) (major minor : Nat) : Bool :=
  match st with
  | .press => major == 0xC8 || (0xE0 ≤ major && major ≤ 0xE2) || (major == 1 && minor == 1)
  | .execute =>
    if major ≤ 6 then !((major == 3 && minor == 1) || (major == 4 && minor == 2) || (major == 6 && minor == 1))
    else if major ≤ 0x64 || major == 0x70 then true
    else if major == 0x82 || major == 0x83 || major == 0x86 || major == 0x87 || major == 0x8A then true
    else major == 0xC0
  | .access =>
    if major ≤ 6 then true
    else if 0x23 ≤ major && major ≤ 0x29 then false
    else if major == 0x63 || major == 0x64 then false
    else major ≤ 0x8B || major == 0xC0

/-- The uniform-and-branch class, mark U (R195, R222, R226). -/
def classU (major minor : Nat) : Bool :=
  major == 0x30 || major == 0x31 || major == 0x32 || major == 0x70 || major == 0xC0 || major == 0xC8 ||
  (major == 0x33 && minor ≤ 1)

/-- Whether an opcode pair is of a 64-lane instruction; `spad` tells the scratchpad form of RGET (R195, R254, R272, R330). -/
def opcode64 (major minor : Nat) (spad : Bool) : Bool :=
  (0x20 ≤ major && major ≤ 0x29) || (0x60 ≤ major && major ≤ 0x64) || (0x80 ≤ major && major ≤ 0x82) ||
  major == 0x84 || major == 0x85 || (major == 0x8B && (minor == 3 || (minor == 5 && !spad)))

/-- The 64-lane instructions of the execute and access streams. -/
def is64 (major minor : Nat) (b : Body) : Bool :=
  opcode64 major minor (match b with
    | .m f => f.off.getLsbD 0
    | _ => true)

/-- The control transfers of R32, which must end their run; ERET must too (R344). -/
def isTransfer (major minor : Nat) : Bool :=
  major == 0xC0 || major == 0xC8 || (major == 3 && minor == 0)

/-- The instructions of R31 that may block whatever their operands; naming a queue port blocks as well. -/
def blocksAlways (major minor : Nat) : Bool :=
  (major == 0x86 && minor != 0) || (major == 0x33 && 2 ≤ minor) || (major == 0x88 && minor == 1) ||
  (major == 0x87 && (minor == 1 || minor == 5)) || (major == 0x8A && (minor == 2 || minor == 5)) ||
  (major == 4 && minor == 0) || (major == 0xE2 && (minor == 1 || minor == 2))

end Sys2Proof.Machine
end

