-- ==== Sys2Proof/Machine/Fields.lean ====
section
/-!
DEFINITION. The entry rules of every word (step 5 of R219): which operands each field accepts and which tail
values each entry defines. A rule that depends on the stream or on the group's allocation is not here: it
is checked at run fetch (Machine/RunCheck.lean).
-/

namespace Sys2Proof.Machine

/-- What an operand field holds, as an entry states it. A destination uses `none` to `acc`; a source any. -/
inductive Role where
  /-- reserved: the field is zero (R196) -/
  | none
  /-- a vector register, or a queue port -/
  | vec
  /-- a vector register only -/
  | vreg
  /-- a uniform register -/
  | uni
  /-- an even uniform pair (R57) -/
  | pair
  /-- a predicate -/
  | pred
  /-- a uniform or a vector register, or no destination: no-write-back with register 0 -/
  | optUni
  | optVreg
  /-- a tile or an accumulator -/
  | tile
  | acc
  /-- a 64-lane value of any kind (R244, R254); `index` and `data` have no wide immediate -/
  | val
  /-- a uniform register, or an immediate -/
  | uniImm
  /-- an even pair, or an immediate -/
  | pairImm
  /-- a predicate, an even pair or an immediate (EXECWR) -/
  | mask
  /-- a short immediate from `lo` to `hi` -/
  | imm (lo hi : Int)
  /-- a uniform register, or a short immediate from `lo` to `hi` -/
  | uniOr (lo hi : Int)
  /-- an even pair, or a short immediate: the base of R273 -/
  | base
  /-- a uniform register, or the short immediate 0: the base of R274 -/
  | sbase
  /-- a vector register, latch, even pair or short immediate: the index of R273, and the data of ST -/
  | index
  | data
  /-- a vector register, latch, uniform or short immediate: the index of R274 -/
  | sindex
  /-- a vector register or a latch; `portLatch` takes a queue port as well (R330) -/
  | vlatch
  | portLatch
  /-- a tile 0 to 15, or an accumulator at 32 to 39 (MSTORE) -/
  | tileOrAcc
  deriving DecidableEq, Repr

/-- The value of a short immediate. -/
def shortVal (i : BitVec 7) : Int := i.toInt

/-- Whether a source satisfies a role; `wide` says that the format has a wide immediate (R200). -/
def srcOk (wide : Bool) (r : Role) (s : Src) : Bool :=
  let even (n : BitVec 8) : Bool := n.toNat % 2 == 0 && n.toNat < 64
  let uni (n : BitVec 8) : Bool := n.toNat < 64
  let lat (n : BitVec 8) : Bool := n.toNat < 3
  let rng (lo hi : Int) (i : BitVec 7) : Bool := lo ≤ shortVal i && shortVal i ≤ hi
  match r, s with
  | .none, s => s == .vec 0
  | .vec, .vec _ => true
  | .vreg, .vec n => n.toNat < 240
  | .uni, .uni n => uni n
  | .pair, .uni n => even n
  | .pred, .vec n => n.toNat < 16
  | .tile, .vec n => n.toNat < 16
  | .acc, .vec n => n.toNat < 8
  | .tileOrAcc, .vec n => n.toNat < 16 || (32 ≤ n.toNat && n.toNat < 40)
  | .val, .vec _ => true
  | .val, .uni n => uni n
  | .val, .latch n => lat n
  | .val, .short _ => true
  | .val, .wide => wide
  | .uniImm, .uni n => uni n
  | .uniImm, .short _ => true
  | .uniImm, .wide => wide
  | .pairImm, .uni n => even n
  | .pairImm, .short _ => true
  | .pairImm, .wide => wide
  | .mask, .vec n => n.toNat < 16
  | .mask, .uni n => even n
  | .mask, .short _ => true
  | .mask, .wide => wide
  | .imm lo hi, .short i => rng lo hi i
  | .uniOr _ _, .uni n => uni n
  | .uniOr lo hi, .short i => rng lo hi i
  | .base, .uni n => even n
  | .base, .short _ => true
  | .sbase, .uni n => uni n
  | .sbase, .short i => i == 0
  | .index, .vec n => n.toNat < 240
  | .index, .uni n => even n
  | .index, .latch n => lat n
  | .index, .short _ => true
  | .data, .vec _ => true
  | .data, .uni n => even n
  | .data, .latch n => lat n
  | .data, .short _ => true
  | .sindex, .vec n => n.toNat < 240
  | .sindex, .uni n => uni n
  | .sindex, .latch n => lat n
  | .sindex, .short _ => true
  | .vlatch, .vec n => n.toNat < 240
  | .vlatch, .latch n => lat n
  | .portLatch, .vec _ => true
  | .portLatch, .latch n => lat n
  | _, _ => false

/-- Whether a destination satisfies a role (R199); `long` refuses a capture, but not that of a port (R62, R210). -/
def dstOk (long : Bool) (r : Role) (d : Dst) : Bool :=
  let n := d.reg.toNat
  let port := 240 ≤ n
  match r with
  | .none => d == ⟨0, false, 0⟩
  | .vec => (!port || !d.nwb) && (!long || port || d.cap == 0)
  | .vreg => !port && (!long || d.cap == 0)
  | .uni => n < 64 && (!long || d.cap == 0)
  | .pair => n < 64 && n % 2 == 0 && (!long || d.cap == 0)
  | .pred => n < 16 && d.cap == 0
  | .optUni => n < 64 && (!long || d.cap == 0)
  | .optVreg => !port && d.cap == 0 && (!d.nwb || n == 0)
  | .tile => n < 16 && d.cap == 0 && !d.nwb
  | .acc => n < 8 && d.cap == 0 && !d.nwb
  | _ => false

/-- The roles of the four operand fields, and whether the destination is long-latency (R210). -/
structure Roles where
  d : Role := .none
  a : Role := .none
  b : Role := .none
  c : Role := .none
  long : Bool := false
  deriving DecidableEq, Repr

/-- The unguarded guard (R198). -/
def guardTrue : Guard := ⟨false, 15⟩

def isInt32 (c : BitVec 5) : Bool := c == 4 || c == 5
def isPackedInt (c : BitVec 5) : Bool := c.toNat < 4
def isFloat3 (c : BitVec 5) : Bool := c == 8 || c == 9 || c == 10
def isMx (c : BitVec 5) : Bool := 0x12 ≤ c.toNat && c.toNat ≤ 0x17

/-- Whether a source is an immediate. -/
def srcIsImm : Src → Bool
  | .short _ => true
  | .wide => true
  | _ => false

/-- The selectors that SRDSYS defines (R241). -/
def sysSelector (n : Int) : Bool := (0 ≤ n && n ≤ 13) || (16 ≤ n && n ≤ 20) || n == 24

/-- The system registers (R342). -/
def sysReg (n : Nat) : Bool := n ≤ 1 || (0x100 ≤ n && n ≤ 0x109) || n == 0x110

/-- The lane width in bits of a code that CVT and its kin name. -/
def laneBits (c : BitVec 5) : Nat :=
  match elemFmt c with
  | some f => f.laneWidth
  | none => 0

/-- Whether a narrowing code suits a target (R140, R261). -/
def cvtMode (t : BitVec 5) (m : BitVec 2) : Bool :=
  match elemFmt t with
  | some f => acceptsMode f m
  | none => false

/-- The value of a short immediate source, or −1. -/
def shortOf : Src → Int
  | .short i => shortVal i
  | _ => -1

/-- The roles of a word of format A (R229 to R271). -/
def rolesA (major minor : Nat) (f : FmtA) : Roles :=
  let dd := f.modi.getLsbD 0
  match major with
  | 0x20 =>
    if minor == 4 then { d := .vec, a := .val, b := .val, c := .val }
    else if minor == 7 || minor == 8 then { d := .vec, a := .val }
    else { d := .vec, a := .val, b := .val }
  | 0x21 =>
    if minor == 9 || minor == 0xE then { d := .vec, a := .val, b := .val, c := .val }
    else if minor == 0xF then { d := .vec, a := .val, b := .val, c := .pred }
    else if minor == 3 || minor == 0x10 || (0xA ≤ minor && minor ≤ 0xD) then { d := .vec, a := .val }
    else { d := .vec, a := .val, b := .val }
  | 0x22 => { d := .pred, a := .val, b := .val }
  | 0x23 =>
    if 3 ≤ minor && minor ≤ 5 then { d := .vec, a := .val, b := .val, c := .val }
    else if minor == 8 || minor == 9 then { d := .vec, a := .val }
    else { d := .vec, a := .val, b := .val }
  | 0x24 => if minor == 0 then { d := .pred, a := .val, b := .val } else { d := .pred, a := .val, b := .uniImm }
  | 0x25 => { d := .vec, a := .val }
  | 0x26 =>
    if minor == 0 then { d := .vec, a := .val, c := .imm 0 63 }
    else if minor == 1 then { d := .vec, a := .val, b := .val }
    else if minor == 2 then { d := .vec, a := .val, b := .vreg }
    else { d := .vec, a := .val }
  | 0x27 => { d := .vec, a := .val }
  | 0x28 =>
    if minor == 0 then { d := .vec, a := .val, b := if f.modi == 0 then .val else .uniImm }
    else if minor == 1 then { d := .vec, a := .val, b := if dd then .none else .uniImm }
    else { d := .vec, a := .val }
  | 0x29 => { d := if minor == 2 then .pred else .vec, a := .val, b := .uniImm }
  | 0x30 =>
    let r : Role := if dd then .pairImm else .uniImm
    let d : Role := if dd then .pair else .uni
    { d := d, a := r, b := if minor == 0xB then .none else r, c := if minor == 0xC then d else .none }
  | 0x31 =>
    if minor == 0 then { d := if dd then .pair else .uni, a := .imm 0 63 } else { d := .uni, a := .uniImm }
  | 0x32 =>
    if minor == 0 then { d := .pred, a := .pairImm }
    else if minor == 1 then { d := .pred }
    else if minor ≤ 5 then { d := .pred, a := .pred, b := .pred }
    else if minor == 6 then { d := .pred, a := .pred }
    else { d := .uni, a := .pred }
  | 0x33 =>
    if minor == 0 then { d := .pred }
    else if minor == 1 then { a := .mask }
    else if minor == 2 then {}
    else { a := if dd then .pair else .uniImm }
  | _ => {}

/-- The wide immediate of a source list, when exactly the sources listed name it. -/
def wideOk (f : FmtA) : Bool :=
  let k := [f.a, f.b, f.c].countP (· == .wide)
  k ≤ 1 && (k == 1 || f.wide == 0)

/-- The value of an immediate source of format A read as an integer (R200). -/
def immA (f : FmtA) (s : Src) : Int :=
  match s with
  | .short i => shortVal i
  | .wide => f.wide.toInt
  | _ => 0

/-- The tail rules of a word of format A. -/
def tailA (major minor : Nat) (f : FmtA) : Bool :=
  let md := f.modi.toNat
  let noImm := !(srcIsImm f.a || srcIsImm f.b || srcIsImm f.c)
  let idx (hi : Int) : Bool := !srcIsImm f.b || (0 ≤ immA f f.b && immA f f.b ≤ hi)
  match major with
  | 0x20 =>
    f.mode == 0 &&
    (if minor == 9 || minor == 0xA then isInt32 f.fmt
     else
       (isInt32 f.fmt || (isPackedInt f.fmt && noImm && (minor ≤ 1 || 5 ≤ minor))) &&
       (!(minor == 7 || minor == 8) || f.fmt.toNat % 2 == 0) &&
       (md == 0 || (md == 1 && minor != 3 && minor != 5 && minor != 6)))
  | 0x21 => f.mode == 0 && isInt32 f.fmt && md == 0
  | 0x22 => f.mode == 0 && isInt32 f.fmt && (if minor == 0 then md ≤ 5 else md ≤ 1)
  | 0x23 =>
    isFloat3 f.fmt && md == 0 && (minor ≤ 5 || f.mode == 0) &&
    (f.fmt == 8 || f.wide.toNat < 65536)
  | 0x24 => f.fmt == 8 && f.mode == 0 && (if minor == 0 then md ≤ 7 else md == 0)
  | 0x25 => f.fmt == 8 && md == 0 && (minor == 2 || f.mode == 0)
  | 0x26 =>
    let t := f.fmt.toNat
    if minor == 0 then
      let c := shortOf f.c
      ((0 ≤ c && c ≤ 0x11) || c == 0x18) && t ≤ 0x11 && f.mode != 3 && cvtMode f.fmt f.mode && md == 0 &&
      (!(c == 9 || c == 10) || f.wide.toNat < 65536)
    else if minor == 1 then
      (t ≤ 3 || t == 6 || t == 7 || (9 ≤ t && t ≤ 0x11)) && f.mode != 3 && cvtMode f.fmt f.mode &&
      md < 32 / laneBits f.fmt
    else if minor == 2 then
      9 ≤ t && t ≤ 0x11 && f.mode == 3 && md == 0 && f.b != .vec f.dst.reg
    else
      (t ≤ 3 || t == 6 || t == 7 || (9 ≤ t && t ≤ 0x11) || t == 0x18) && f.mode == 0 &&
      md < 32 / laneBits f.fmt && (!(t == 9 || t == 10) || f.wide.toNat < 65536)
  | 0x27 => isMx f.fmt && md == 0 && (minor == 1 || f.mode == 0)
  | 0x28 =>
    f.mode == 0 &&
    (if minor == 0 then f.fmt == 0 && md ≤ 3 && idx 63
     else if minor == 1 then f.fmt == 0 && md ≤ 1 && idx 63
     else
       md == 0 && (isInt32 f.fmt || f.fmt == 8 || (minor != 4 && isFloat3 f.fmt)) &&
       (!(f.fmt == 9 || f.fmt == 10) || f.wide.toNat < 65536))
  | 0x29 => f.mode == 0 && (isInt32 f.fmt || f.fmt == 8) && 1 ≤ md && md ≤ 6 && idx 64
  | 0x30 => f.mode == 0 && f.fmt == 0 && (md ≤ 1 || (md ≤ 3 && (minor == 9 || minor == 0xA)))
  | 0x31 =>
    f.mode == 0 && f.fmt == 0 &&
    (if minor == 0 then
       sysSelector (shortOf f.a) && md ≤ 1 && (md == 1) == (shortOf f.a == 24)
     else md == 0)
  | 0x32 => f.mode == 0 && f.fmt == 0 && (md == 0 || (md == 1 && 6 ≤ minor))
  | 0x33 => f.mode == 0 && f.fmt == 0 && (md == 0 || (md == 1 && minor == 3))
  | _ => false

/-- The roles of a word of format I (R223). -/
def rolesI (major minor : Nat) (f : FmtI) : Roles :=
  let dd := f.modi.getLsbD 0
  match major with
  | 0x22 | 0x62 | 0x64 => { d := .pred, a := .val }
  | 0x61 => { d := .vec, a := if minor == 0x10 then .none else .val }
  | 0x70 =>
    { d := if dd then .pair else .uni, a := if minor == 0xB then .none else if dd then .pairImm else .uniImm }
  | _ => { d := .vec, a := .val }

/-- The tail rules of a word of format I (R223, R245, R246, R251, R257). -/
def tailI (major minor : Nat) (f : FmtI) : Bool :=
  let md := f.modi.toNat
  match major with
  | 0x60 =>
    f.mode == 0 && isInt32 f.fmt &&
    (if minor == 9 || minor == 0xA then md ≤ 15 else md == 0 || (md == 1 && minor ≤ 2))
  | 0x61 => f.mode == 0 && isInt32 f.fmt && md == 0
  | 0x62 => f.mode == 0 && isInt32 f.fmt && (if minor == 0 then md ≤ 5 else md ≤ 1)
  | 0x63 => isFloat3 f.fmt && md == 0 && (minor ≤ 2 || f.mode == 0)
  | 0x64 => f.fmt == 8 && f.mode == 0 && md ≤ 7
  | 0x70 => f.mode == 0 && f.fmt == 0 && (md ≤ 1 || (md ≤ 3 && (minor == 9 || minor == 0xA)))
  | _ => false

/-- The roles of a word of format M (R272 to R301, R330). -/
def rolesM (major minor : Nat) (f : FmtM) : Roles :=
  match major, minor with
  | 0x80, 0 => { d := .vec, a := .base, b := .index, long := true }
  | 0x80, 1 => { d := .vec, a := .base, long := true }
  | 0x80, 2 => { d := .vec, a := .base, b := .vreg, c := .uniOr (-64) 63, long := true }
  | 0x80, 3 => { a := .base, b := .index }
  | 0x81, 0 => { a := .base, b := .index, c := .data }
  | 0x81, 1 => { d := .vec, a := .base, b := .index, long := true }
  | 0x82, 0 => { d := .vec, a := .sbase, b := .sindex, long := true }
  | 0x82, 1 => { a := .sbase, b := .sindex, c := .data }
  | 0x82, 2 => { d := .vec, a := .sbase, b := .uniOr 0 63, long := true }
  | 0x82, 3 => { d := .vec, a := .sbase, b := .sindex, long := true }
  | 0x82, 4 => { a := .sbase, b := .sindex, c := .data }
  | 0x83, 0 => { d := .uni, a := .imm 0 15, b := .imm 0 1 }
  | 0x83, 1 => { d := .optUni, a := .imm 0 15 }
  | 0x84, 0xA => { d := .optVreg, a := .base, b := .index, c := if f.width == 3 then .vreg else .data, long := true }
  | 0x84, _ => { d := .optVreg, a := .base, b := .index, c := .data, long := true }
  | 0x85, 0 => { d := .optVreg, a := .base, b := .index, c := .data, long := true }
  | 0x85, 1 => { a := .pair, b := .vec, c := .uni }
  | 0x85, 2 => { a := .pair, b := .vec }
  | 0x85, 3 => { a := .pair, b := .vec, c := .uni }
  | 0x85, 4 => { d := .vec, a := .pair, long := true }
  | 0x85, 5 => { a := .pair, b := .vec }
  | 0x86, 0 => {}
  | 0x86, 1 => { a := .imm 0 4, b := .uniOr 0 63 }
  | 0x86, 2 => { a := .sbase, b := .base, c := .imm 0 3 }
  | 0x87, 0 => { d := .optUni, a := .imm 0 15, long := true }
  | 0x87, 1 => { a := .imm 0 15, b := .uniOr (-64) 63 }
  | 0x87, _ => { a := .uni }
  | 0x88, 0 => { a := .base, c := .uniOr 0 63 }
  | 0x88, 1 => { a := .base, b := .base, c := .imm 0 1 }
  | 0x89, _ => { a := .pair, b := .uniOr 0 0, c := if f.b != .short 0 then .base else if f.c == .vec 0 then .none else .imm 0 0 }
  | 0x8A, 0 => { d := .uni, a := .imm 0 1, b := .uniOr 1 16 }
  | 0x8A, 1 => { a := .imm 0 1, b := .uni, c := .uniOr (-64) 63 }
  | 0x8A, 2 => { a := .imm 0 1, b := .uni }
  | 0x8A, 3 => { a := .imm 0 1, b := .uni, c := .uniOr 1 16 }
  | 0x8A, 4 => { a := .sbase, b := .uni, c := .uniOr (-64) 63 }
  | 0x8A, 5 => { d := .uni, a := .sbase, b := .uni }
  | 0x8B, 0 =>
    if f.off.getLsbD 1 then { a := .uni }
    else { d := .uni, a := .uniOr (-64) 63, b := .uniOr (-64) 63, c := .uniOr (-64) 63, long := true }
  | 0x8B, 1 => { d := .pair, a := .uni, long := true }
  | 0x8B, 2 => { d := .optVreg, b := .vreg, long := true }
  | 0x8B, 3 => { a := .uniOr (-64) 63, b := .uni, c := .portLatch }
  | 0x8B, 4 => { a := if f.off.getLsbD 0 then .none else .uniOr (-64) 63 }
  | 0x8B, 5 =>
    if f.off.getLsbD 0 then { a := .uniOr (-64) 63, b := .pair, c := .pair }
    else { d := .vec, a := .uniOr (-64) 63, b := .vlatch, long := true }
  | _, _ => {}

/-- Order and scope zero, as R276 states for every instruction that carries none. -/
def noOrder (f : FmtM) : Bool := f.order == 0 && f.scope == 0

/-- None, or the given order at any scope (R203, R276). -/
def orderIn (f : FmtM) (os : List (BitVec 2)) : Bool :=
  noOrder f || (os.contains f.order && 1 ≤ f.scope.toNat && f.scope.toNat ≤ 5)

/-- Whether a source names a queue port. -/
def isPort : Src → Bool
  | .vec n => 240 ≤ n.toNat
  | _ => false

/-- The width and sign of a load (R275): an eight-byte load has no sign form and no port. -/
def loadWidth (f : FmtM) : Bool := f.width.toNat ≤ 3 && (f.width != 3 || (!f.sign && f.dst.reg.toNat < 240))

/-- The width of a store (R275). -/
def storeWidth (f : FmtM) : Bool := f.width.toNat ≤ 3 && !f.sign && (f.width != 3 || !isPort f.c)

/-- The element bytes of a GRLD format, or none where R281 refuses the code. -/
def grldBytes (c : Nat) : Option Nat :=
  match c with
  | 0x08 => some 4
  | 0x09 => some 2
  | 0x0A => some 2
  | 0x0B => some 1
  | 0x0C => some 1
  | 0x10 => some 1
  | _ => none

/-- The GRLD format and row pitch of the tail (R278). -/
def grldFmt (f : FmtM) : BitVec 5 := f.off.extractLsb' 13 5
def grldPitch (f : FmtM) : Nat := 16 * (f.off.extractLsb' 0 13).toNat

/-- The format, half, binary32 mark and displacement of a Crucible word (R289). -/
def mxFmt (f : FmtM) : BitVec 5 := f.off.extractLsb' 13 5
def mxHi (f : FmtM) : Bool := f.off.getLsbD 12
def mxF32 (f : FmtM) : Bool := f.off.getLsbD 11
def mxDisp (f : FmtM) : Int := (f.off.extractLsb' 0 11).toInt

/-- The tail rules of a word of format M. -/
def tailM (major minor : Nat) (f : FmtM) : Bool :=
  let ch0 := f.channel == 0
  let noOff := f.off == 0
  let plain := f.width == 0 && !f.sign && f.scale == 0
  let swz0 := f.swz == 0
  match major, minor with
  | 0x80, 0 => loadWidth f && orderIn f [1] && swz0
  | 0x80, 1 => loadWidth f && orderIn f [1] && swz0 && f.scale == 0
  | 0x80, 2 =>
    noOrder f && swz0 && f.scale == 0 && !f.sign && grldPitch f != 0 &&
    (match grldBytes (grldFmt f).toNat with
     | some n => 2 ^ f.width.toNat == n
     | none => false)
  | 0x80, 3 => f.width.toNat ≤ 1 && !f.sign && noOrder f && ch0 && swz0
  | 0x81, 0 => storeWidth f && orderIn f [2] && swz0
  | 0x81, 1 => f.width.toNat ≤ 2 && !f.sign && orderIn f [2] && swz0 && 240 ≤ f.dst.reg.toNat
  | 0x82, 0 => loadWidth f && orderIn f [1] && ch0
  | 0x82, 1 => storeWidth f && orderIn f [2] && ch0
  | 0x82, 2 => loadWidth f && !f.sign && orderIn f [1] && ch0 && f.scale == 0
  | 0x82, 3 => loadWidth f && orderIn f [1] && ch0
  | 0x82, 4 => storeWidth f && orderIn f [2] && ch0
  | 0x83, 0 => plain && noOrder f && ch0 && swz0 && noOff
  | 0x83, 1 => plain && noOrder f && ch0 && swz0 && noOff
  | 0x84, 0xA =>
    (f.width == 2 || f.width == 3) && !f.sign && orderIn f [1, 2, 3] && swz0 &&
    (match f.c with
     | .vec n => f.width != 3 || n.toNat % 2 == 0
     | .latch _ => f.width != 3
     | _ => false)
  | 0x84, _ =>
    (f.width == 2 || f.width == 3) && !f.sign && orderIn f [1, 2, 3] && swz0
  | 0x85, 0 => f.width == 2 && !f.sign && orderIn f [1, 2, 3] && swz0
  | 0x85, 1 => plain && noOrder f && ch0 && swz0
  | 0x85, 2 => plain && noOrder f && ch0 && swz0 && isMx (mxFmt f)
  | 0x85, 3 => plain && noOrder f && ch0 && swz0 && isMx (mxFmt f)
  | 0x85, _ => plain && noOrder f && ch0 && swz0 && isMx (mxFmt f) && !mxF32 f
  | 0x86, 0 =>
    1 ≤ f.scope.toNat && f.scope.toNat ≤ 5 && f.order != 0 && (!f.sign || f.order == 3) && f.width == 0 &&
    f.scale == 0 && ch0 && swz0 && noOff
  | 0x86, 1 => plain && noOrder f && ch0 && swz0 && noOff
  | 0x86, 2 => plain && noOrder f && ch0 && swz0
  | 0x87, 4 => plain && f.order == 2 && (f.scope == 3 || f.scope == 4) && ch0 && swz0 && noOff
  | 0x87, _ => plain && noOrder f && ch0 && swz0 && noOff
  | 0x88, 0 => plain && f.order == 2 && (f.scope == 4 || f.scope == 5) && swz0
  | 0x88, 1 => plain && noOrder f && ch0 && swz0
  | 0x89, _ => plain && noOrder f && ch0 && noOff
  | 0x8A, 4 => plain && noOrder f && ch0 && swz0
  | 0x8A, 5 => plain && noOrder f && ch0 && swz0
  | 0x8A, _ => plain && noOrder f && ch0 && swz0 && noOff
  | 0x8B, 0 => plain && noOrder f && ch0 && swz0 && f.off.toNat ≤ 2
  | 0x8B, 1 => plain && noOrder f && ch0 && swz0 && noOff
  | 0x8B, 2 => plain && noOrder f && ch0 && swz0 && f.off.toNat ≤ 4
  | 0x8B, 3 => plain && noOrder f && ch0 && swz0 && noOff
  | 0x8B, 4 => plain && noOrder f && ch0 && swz0 && f.off.toNat ≤ 1
  | 0x8B, 5 =>
    plain && noOrder f && ch0 &&
    (if f.off.getLsbD 0 then f.off == 1 else noOff && swz0 && 240 ≤ f.dst.reg.toNat && f.dst.cap == 0)
  | _, _ => false

/-- The roles of a word of format B (R230, R324). -/
def rolesB (major minor : Nat) (f : FmtB) : Roles :=
  match major, minor with
  | 0xC0, 1 => { a := if 8 ≤ f.cond.toNat then .pred else if f.modi == 1 then .pair else .uni }
  | 0xC0, 3 => { a := .pair }
  | 0xC0, 4 => { d := .pair }
  | 0xC0, 5 => { a := .pair }
  | 0xC0, 7 => { a := .uni }
  | 0xC8, 0 => { a := if f.modi.getLsbD 2 then .none else .imm 1 63 }
  | _, _ => {}

/-- The tail rules of a word of format B. -/
def tailB (major minor : Nat) (f : FmtB) : Bool :=
  let noSecond := f.disp2 == 0 && f.slot2 == 0
  let noTarget := f.disp == 0 && f.slot == 0
  let slots := f.slot.toNat ≤ 4 && f.slot2.toNat ≤ 4
  let c := f.cond.toNat
  slots && f.dst.cap == 0 && !f.dst.nwb &&
  match major, minor with
  | 0xC0, 0 => noSecond && c == 0 && f.modi == 0
  | 0xC0, 1 => noSecond && (c ≤ 5 || (8 ≤ c && c ≤ 10)) && (f.modi == 0 || (f.modi == 1 && c ≤ 5))
  | 0xC0, 2 => c == 0 && f.modi == 0
  | 0xC0, 3 => noSecond && noTarget && c == 0 && f.modi == 0
  | 0xC0, 4 => noSecond && c == 0 && f.modi == 0
  | 0xC0, 5 => noSecond && noTarget && c == 0 && f.modi == 0
  | 0xC0, 6 => noSecond && noTarget && c == 0 && f.modi == 0
  | 0xC0, 7 => noSecond && c == 0 && f.modi == 0
  | 0xC8, 0 => noSecond && c == 0 && f.modi.toNat ≤ 7
  | 0xC8, 1 => noSecond && c ≤ 2 && f.modi == 0
  | 0xC8, 2 => noSecond && noTarget && c == 0 && f.modi == 0
  | _, _ => false

/-- The roles of a word with the region tail (R309). -/
def rolesXR (minor : Nat) (_f : FmtXR) : Roles :=
  match minor with
  | 0 => { d := .tile, a := .imm 0 1, b := .imm 0 2 }
  | 1 => { d := .tile, a := .imm 0 1, b := .imm 0 2 }
  | 2 => { d := .tile, a := .imm 0 1, b := .imm 0x12 0x16, c := .imm 0 3 }
  | _ => { a := .imm 0 1, b := .tileOrAcc }

/-- A field that is zero, or one of the short immediates 1 to `hi` (R309). -/
def zeroOrImm (s : Src) (hi : Int) : Bool := s == .vec 0 || srcOk false (.imm 1 hi) s

/-- The operand and tail rules of a word with the region tail. -/
def entryXR (minor : Nat) (f : FmtXR) : Bool :=
  f.pitch != 0 && zeroOrImm f.a 1 &&
  match minor with
  | 0 => dstOk false .tile f.dst && zeroOrImm f.b 2 && f.c == .vec 0
  | 1 => dstOk false .tile f.dst && srcOk false (.imm 0 2) f.b && f.c == .vec 0
  | 2 =>
    dstOk false .tile f.dst && srcOk false (.imm 0x12 0x16) f.b && srcOk false (.imm 0 3) f.c &&
    f.pitch == 8 && f.rows == 0 && !(2 ≤ shortOf f.c && shortOf f.b ≤ 0x13)
  | _ => f.dst == ⟨0, false, 0⟩ && srcOk false .tileOrAcc f.b && f.c == .vec 0

/-- The width class of an MMA format: 16, 8, 6 or 4 (R316). -/
def mmaClass (c : BitVec 5) : Option Nat :=
  match c.toNat with
  | 0x09 => some 16
  | 0x0A => some 16
  | 0x0B => some 8
  | 0x0C => some 8
  | 0x10 => some 8
  | 0x12 => some 8
  | 0x13 => some 8
  | 0x0D => some 6
  | 0x0E => some 6
  | 0x11 => some 6
  | 0x14 => some 6
  | 0x15 => some 6
  | 0x0F => some 4
  | 0x16 => some 4
  | _ => none

/-- The number of K indices of a width class (R308). -/
def classK (c : Nat) : Nat := if c == 16 then 32 else if c == 8 then 64 else 128

/-- The register number of a vector-kind source. -/
def vecNum : Src → Nat
  | .vec n => n.toNat
  | _ => 0

/-- Whether an MCVT accepts a target and a mode (R140, R319). -/
def mcvtOk (t : BitVec 5) (m : BitVec 2) (td am : Nat) : Bool :=
  let n := t.toNat
  (n == 9 || n == 0xA || n == 0xB || n == 0xC || n == 0x10 || n == 0xD || n == 0xE || n == 0x11 || n == 0xF) &&
  (!(n == 9 || n == 0xA) || td % 2 == 0) &&
  (if m == 3 then am % 2 == 0 else cvtMode t m)

/-- The operand and tail rules of a word with the arithmetic tail (R315, R316, R319, R320). -/
def entryXA (major minor : Nat) (f : FmtXA) : Bool :=
  let z := f.fa == 0 && f.fb == 0 && f.mode == 0
  match major, minor with
  | 0xE1, 0 =>
    dstOk false .acc f.dst && srcOk false .tile f.a && srcOk false .tile f.b && f.mode == 0 && f.modi.toNat ≤ 1 &&
    (match mmaClass f.fa, mmaClass f.fb with
     | some ca, some cb =>
       classK ca == classK cb && (ca != 6 || vecNum f.a % 2 == 0) && (cb != 6 || vecNum f.b % 2 == 0)
     | _, _ => false) &&
    (if isMx f.fa || isMx f.fb then srcOk false .tile f.c else f.c == .vec 0)
  | 0xE1, 1 => dstOk false .acc f.dst && f.a == .vec 0 && f.b == .vec 0 && f.c == .vec 0 && z && f.modi == 0
  | 0xE1, 2 =>
    dstOk false .tile f.dst && srcOk false .acc f.a && f.b == .vec 0 && f.c == .vec 0 && f.fa == 8 &&
    mcvtOk f.fb f.mode f.dst.reg.toNat (vecNum f.a) && f.modi == 0
  | 0xE2, 0 => f.dst == ⟨0, false, 0⟩ && srcOk false (.imm 0 15) f.a && f.b == .vec 0 && f.c == .vec 0 && z && f.modi == 0
  | 0xE2, 1 => f.dst == ⟨0, false, 0⟩ && srcOk false (.imm 0 15) f.a && f.b == .vec 0 && f.c == .vec 0 && z && f.modi == 0
  | 0xE2, 2 => f.dst == ⟨0, false, 0⟩ && f.a == .vec 0 && f.b == .vec 0 && f.c == .vec 0 && z && f.modi == 0
  | 0xE2, 3 =>
    f.dst == ⟨0, false, 0⟩ && f.b == .vec 0 && f.c == .vec 0 && z &&
    (f.modi.extractLsb' 19 4).toNat ≤ 2 &&
    (if f.modi.extractLsb' 19 2 == 0 then srcOk false (.imm (-64) 63) f.a else f.a == .vec 0)
  | _, _ => false

/-- The roles of a system word (R338). -/
def rolesY (major minor : Nat) : Roles :=
  match major, minor with
  | 2, 0 => { d := .pair, long := true }
  | 2, 1 => { a := .base }
  | 3, 1 => { a := .pair }
  | 4, 0 => { d := .optUni, a := .uniOr (-64) 63, long := true }
  | 4, 1 => { d := .optUni, a := .uniOr (-64) 63, long := true }
  | 4, 2 => { a := .pair, b := .uniOr (-64) 63 }
  | 5, 0 => { a := .base }
  | 5, 1 => { d := .pair, long := true }
  | 6, 0 => { d := .pair, long := true }
  | 6, 1 => { a := .pair, b := .pair }
  | _, _ => {}

/-- The selector rules of a system word (R338, R342, R350). -/
def tailY (major minor : Nat) (f : FmtY) : Bool :=
  f.operand == 0 && f.c == .vec 0 && f.dst.cap == 0 &&
  match major, minor with
  | 1, _ => true
  | 2, 0 => sysReg f.sel.toNat
  | 2, 1 => f.sel == 0x101 || f.sel == 0x108
  | 3, 0 => f.sel == 0 && f.boundary
  | 5, 0 => true
  | 6, 0 => f.sel.toNat ≤ 64
  | _, _ => f.sel == 0

/-- The roles of a body, for the run checks and the hazards. -/
def rolesOf (major minor : Nat) : Body → Roles
  | .y _ => rolesY major minor
  | .a f => rolesA major minor f
  | .i f => rolesI major minor f
  | .m f => rolesM major minor f
  | .b f => rolesB major minor f
  | .xr f => rolesXR minor f
  | .xa _ => {}

/-- The guard rule of R198: only a 64-lane instruction is guarded; BDIV names its condition there. -/
def guardOk (major minor : Nat) (b : Body) : Bool :=
  b.head.guard == guardTrue || is64 major minor b || (major == 0xC0 && minor == 2)

/-- Every field rule of a word that no group's state decides (R196 to R206 and the entries). -/
def entryOk (major minor : Nat) (b : Body) : Bool :=
  let r := rolesOf major minor b
  let h := b.head
  guardOk major minor b &&
  match b with
  | .y f => dstOk r.long r.d h.dst && srcOk false r.a h.a && srcOk false r.b f.b && srcOk false r.c f.c && tailY major minor f
  | .a f =>
    dstOk r.long r.d h.dst && srcOk true r.a h.a && srcOk true r.b f.b && srcOk true r.c f.c && wideOk f && tailA major minor f
  | .i f => dstOk r.long r.d h.dst && srcOk false r.a h.a && tailI major minor f
  | .m f => dstOk r.long r.d h.dst && srcOk false r.a h.a && srcOk false r.b f.b && srcOk false r.c f.c && tailM major minor f
  | .b f => dstOk r.long r.d h.dst && srcOk false r.a h.a && tailB major minor f
  | .xr f => entryXR minor f
  | .xa f => entryXA major minor f

end Sys2Proof.Machine
end

