-- ==== Sys2Proof/WellFormed.lean ====
section
/-!
DEFINITION. Which instruction words are well formed: the entry rules of R196 to R206 and of the instruction chapters
that no group's state decides. An operation or event of the machine is no word and has no field to check.
-/

namespace Sys2Proof

/-- Whether a word meets the field rules of its entry. -/
def Instr.wellFormed (i : Instr) : Bool :=
  match Machine.parts i with
  | some (M, m, b) =>
    Machine.entryOk M m b &&
    (match i with
     | .lease f => f.off.toNat ≤ 1
     | .leaseDrop f => f.off == 2
     | .rgetQueue f => f.off == 0
     | .rgetSpad f => f.off == 1
     | _ => true)
  | none => true

/-- Whether a term is an instruction word. -/
def Instr.isWord (i : Instr) : Bool := (Machine.parts i).isSome

end Sys2Proof
end

