-- ==== Sys2Proof/Decode.lean ====
section
/-!
DEFINITION. The decoder and the encoder of the 96-bit instruction word (R190, R196 to R206, R219). The decoder is
total and rejects by name.
-/

namespace Sys2Proof

/-- Why a word is no instruction (steps 1, 2 and 5 of R219); each is ILLEGAL. -/
inductive DecodeError where
  | unassignedMajor
  | unassignedMinor
  | badField
  deriving DecidableEq, Repr

/-! ### Fields -/

/-- A guard's five bits (R198). -/
def guardBits (g : Guard) : BitVec 5 := (if g.neg then 1#1 else 0#1) ++ g.pred

def guardOf (x : BitVec 5) : Guard := ⟨x.getLsbD 4, x.extractLsb' 0 4⟩

/-- A destination's eleven bits (R199). -/
def dstBits (d : Dst) : BitVec 11 := d.cap ++ (if d.nwb then 1#1 else 0#1) ++ d.reg

def dstOf (x : BitVec 11) : Dst := ⟨x.extractLsb' 9 2, x.getLsbD 8, x.extractLsb' 0 8⟩

/-- A source's ten bits (R200). -/
def srcBits : Src → BitVec 10
  | .vec n => 0#2 ++ n
  | .uni n => 1#2 ++ n
  | .latch n => 2#2 ++ n
  | .short i => 6#3 ++ i
  | .wide => 0x380#10

/-- The source that ten bits name; none where kind 0b11 has bit 7 set and bits [6:0] not zero. -/
def srcOf (x : BitVec 10) : Option Src :=
  let n := x.extractLsb' 0 8
  match (x.extractLsb' 8 2).toNat with
  | 0 => some (.vec n)
  | 1 => some (.uni n)
  | 2 => some (.latch n)
  | _ =>
    if x.getLsbD 7 then (if x.extractLsb' 0 7 = 0 then some .wide else none)
    else some (.short (x.extractLsb' 0 7))

/-- A flag as one bit. -/
def bit1 (b : Bool) : BitVec 1 := if b then 1#1 else 0#1

/-! ### Words -/

/-- The 96 bits of a major, a minor, the head fields and bits [54:0] (R196). -/
def packWord (major minor : Nat) (h : Head) (rest : BitVec 55) : BitVec 96 :=
  BitVec.ofNat 8 major ++ BitVec.ofNat 6 minor ++ bit1 h.boundary ++ guardBits h.guard ++ dstBits h.dst ++
  srcBits h.a ++ rest

/-- Bits [54:0] of a body, by format (R201 to R206). -/
def restBits : Machine.Body → BitVec 55
  | .y f => srcBits f.b ++ srcBits f.c ++ f.sel ++ f.operand
  | .a f => srcBits f.b ++ srcBits f.c ++ f.wide ++ f.mode ++ f.fmt ++ f.modi
  | .i f => f.imm ++ f.fmt ++ f.mode ++ f.modi
  | .m f =>
    srcBits f.b ++ srcBits f.c ++ f.channel ++ f.scope ++ f.order ++ f.width ++ bit1 f.sign ++ f.scale ++ f.swz ++ f.off
  | .b f => f.disp2 ++ f.slot2 ++ f.disp ++ f.slot ++ f.cond ++ f.modi
  | .xr f => srcBits f.b ++ srcBits f.c ++ f.off ++ f.pitch ++ f.rows ++ f.swz
  | .xa f => srcBits f.b ++ srcBits f.c ++ f.fa ++ f.fb ++ f.mode ++ f.modi

/-- The word of an instruction; the all-zero fill word for an operation or event, which has none. -/
def encode (i : Instr) : BitVec 96 :=
  match Machine.parts i with
  | some (M, m, b) => packWord M m b.head (restBits b)
  | none => 0

/-- The head fields of a word; none for a source that no kind allows. -/
def headOf (w : BitVec 96) : Option Head :=
  match srcOf (w.extractLsb' 55 10) with
  | some a => some ⟨w.getLsbD 81, guardOf (w.extractLsb' 76 5), dstOf (w.extractLsb' 65 11), a⟩
  | none => none

/-- The body of a word, by the format of its major (R197). -/
def bodyOf (w : BitVec 96) : Option Machine.Body :=
  let major := (w.extractLsb' 88 8).toNat
  match headOf w with
  | none => none
  | some h =>
    if 0x60 ≤ major ∧ major < 0x80 then
      some (.i ⟨h, w.extractLsb' 23 32, w.extractLsb' 18 5, w.extractLsb' 16 2, w.extractLsb' 0 16⟩)
    else if 0xC0 ≤ major ∧ major < 0xE0 then
      some (.b ⟨h, w.extractLsb' 38 17, w.extractLsb' 35 3, w.extractLsb' 14 21, w.extractLsb' 11 3,
        w.extractLsb' 7 4, w.extractLsb' 0 7⟩)
    else
      match srcOf (w.extractLsb' 45 10), srcOf (w.extractLsb' 35 10) with
      | some b, some c =>
        if major < 0x20 then some (.y ⟨h, b, c, w.extractLsb' 19 16, w.extractLsb' 0 19⟩)
        else if major < 0x60 then
          some (.a ⟨h, b, c, w.extractLsb' 11 24, w.extractLsb' 9 2, w.extractLsb' 4 5, w.extractLsb' 0 4⟩)
        else if major < 0xC0 then
          some (.m ⟨h, b, c, w.extractLsb' 31 4, w.extractLsb' 28 3, w.extractLsb' 26 2, w.extractLsb' 23 3,
            w.getLsbD 22, w.extractLsb' 20 2, w.extractLsb' 18 2, w.extractLsb' 0 18⟩)
        else if major = 0xE0 then
          some (.xr ⟨h, b, c, w.extractLsb' 16 19, w.extractLsb' 8 8, w.extractLsb' 2 6, w.extractLsb' 0 2⟩)
        else
          some (.xa ⟨h, b, c, w.extractLsb' 30 5, w.extractLsb' 25 5, w.extractLsb' 23 2, w.extractLsb' 0 23⟩)
      | _, _ => none

/-- Whether a minor is assigned under an assigned major (step 2 of R219): 64 minors, as a bit mask. -/
def minorMask (major : Nat) : Nat :=
  match major with
  | 0x01 => 0x3 | 0x02 => 0x3 | 0x03 => 0x3 | 0x04 => 0x7 | 0x05 => 0x3 | 0x06 => 0x3
  | 0x20 => 0x7FF | 0x21 => 0x1FFFF | 0x22 => 0x3 | 0x23 => 0x7FF | 0x24 => 0x3 | 0x25 => 0xFF | 0x26 => 0xF
  | 0x27 => 0x3 | 0x28 => 0x1F | 0x29 => 0x7 | 0x30 => 0x1FFF | 0x31 => 0x3 | 0x32 => 0x1FF | 0x33 => 0xF
  | 0x60 => 0x66F | 0x61 => 0x100F7 | 0x62 => 0x3 | 0x63 => 0x4C7 | 0x64 => 0x1 | 0x70 => 0xFFF
  | 0x80 => 0xF | 0x81 => 0x3 | 0x82 => 0x1F | 0x83 => 0x3 | 0x84 => 0x7FF | 0x85 => 0x3F | 0x86 => 0x7
  | 0x87 => 0x3F | 0x88 => 0x3 | 0x89 => 0x7 | 0x8A => 0x3F | 0x8B => 0x3F | 0xC0 => 0xFF | 0xC8 => 0x7
  | 0xE0 => 0xF | 0xE1 => 0x7 | 0xE2 => 0xF
  | _ => 0

/-- The decoder: steps 1, 2 and 5 of R219 in order. -/
def decode (w : BitVec 96) : Except DecodeError Instr :=
  let major := (w.extractLsb' 88 8).toNat
  let minor := (w.extractLsb' 82 6).toNat
  if minorMask major = 0 then .error .unassignedMajor
  else if !(minorMask major).testBit minor then .error .unassignedMinor
  else
    match bodyOf w with
    | none => .error .badField
    | some b =>
      match Machine.build major minor b with
      | none => .error .unassignedMinor
      | some i => if i.wellFormed then .ok i else .error .badField

/-- The word of twelve bytes, little-endian (R190). -/
def wordOfBytes (bs : List Byte) : BitVec 96 := BitVec.ofNat 96 (leValue (bs.take 12))

/-- What the decoder reads from an instruction whose bits are `w`, bit 0 the least significant of its first byte;
every bit above `nbits` is 0. -/
def decodeTableWord (nbits w : Nat) : Option Instr :=
  match decode (wordOfBytes (leBytes 12 (w % 2 ^ nbits))) with
  | .ok i => some i
  | .error _ => none

end Sys2Proof
end

