-- ==== Sys2Proof/Machine/Flags.lean ====
section
/-!
DEFINITION. Flag-like results: relations and their codes, lane masks, carries, classes and ranks. The device has no
flags register; a predicate bit per lane takes its place (R229, R246, R251, R253, R259, R269).
-/

namespace Sys2Proof.Machine

/-- Codes 0 to 5 of R231 and R253 on an ordering. -/
def relOf (code : Nat) (o : Ordering) : Bool :=
  match code with
  | 0 => o == .eq
  | 1 => o != .eq
  | 2 => o == .lt
  | 3 => o != .gt
  | 4 => o == .gt
  | 5 => o != .lt
  | _ => false

/-- The integer relation of VCMP and BRC: two W-bit values, signed or unsigned (R231, R253). -/
def intRel (code : Nat) (signed : Bool) (w : Nat) (a b : Nat) : Bool :=
  if signed then relOf code (compare (sextNat w a) (sextNat w b)) else relOf code (compare (a % 2 ^ w) (b % 2 ^ w))

/-- The float relation of VFCMP (R253) on binary32 encodings. -/
def floatRel (code : Nat) (a b : Nat) : Bool :=
  let x := fp32.decode a
  let y := fp32.decode b
  let un := x.isNan || y.isNan
  match code with
  | 1 => un || relOf 1 (Xr.cmp x y)
  | 6 => un
  | 7 => !un
  | c => !un && relOf c (Xr.cmp x y)

/-- The conditions of BRC on a predicate (R231). -/
def maskCond (code : Nat) (p exec : Mask) : Bool :=
  match code with
  | 8 => p &&& exec != 0
  | 9 => p &&& exec == exec
  | 10 => p &&& exec == 0
  | _ => false

/-- The relations of WAITW (R293): equality and unsigned order of 64-bit values. -/
def waitRel (code : Nat) (x v : Dword) : Bool :=
  match code with
  | 0 => x == v
  | 1 => x != v
  | 2 => v.toNat ≤ x.toNat
  | _ => x.toNat < v.toNat

/-- The relations of WAITSIG (R298): equality and signed less-or-equal. -/
def sigRel (code : Nat) (x v : Dword) : Bool := if code = 0 then x == v else decide (x.toInt ≤ v.toInt)

/-- The sum and carry of one lane of VADDC (R246). -/
def addCarry (w a b cin : Nat) : Nat × Bool :=
  let s := a % 2 ^ w + b % 2 ^ w + cin
  (s % 2 ^ w, 2 ^ w ≤ s)

/-- The difference and borrow of one lane of VSUBB (R246). -/
def subBorrow (w a b cin : Nat) : Nat × Bool :=
  let d : Int := ((a % 2 ^ w : Nat) : Int) - (b % 2 ^ w : Nat) - cin
  (wrapInt w d, d < 0)

/-- The class of a binary32 encoding (R259). -/
def floatClass (a : Nat) : Nat :=
  match fp32.decode a with
  | .nan => 8
  | .inf s => if s then 0 else 7
  | .fin s m _ =>
    if m = 0 then (if s then 3 else 4)
    else if m < 2 ^ 23 then (if s then 2 else 5)
    else (if s then 1 else 6)

/-- The order of R256 and R268 as an integer key: NaN apart, −0 below +0. -/
def totalKey (w : Nat) (code : Nat) : Int :=
  let mag : Nat := code % 2 ^ (w - 1)
  if code.testBit (w - 1) then -(mag : Int) - 1 else (mag : Int)

/-- The key of R269 for a format: NaN below everything, −0 equal to +0. -/
def rankKey (fmt : BitVec 5) (v : Nat) : Int :=
  if fmt = 8 then
    if (fp32.decode v).isNan then -(2 ^ 40 : Nat)
    else
      let mag : Nat := v % 2 ^ 31
      if v.testBit 31 then -(mag : Int) else (mag : Int)
  else if fmt = 4 then sextNat 32 v
  else ((v % 2 ^ 32 : Nat) : Int)

/-- Whether lane `p` ranks ahead of lane `q` (R269). -/
def ranksAhead (eff : Mask) (key : Nat → Int) (p q : Nat) : Bool :=
  let ep := eff.getLsbD p
  let eq := eff.getLsbD q
  if ep != eq then ep
  else if key p ≠ key q then decide (key q < key p)
  else decide (p < q)

/-- The rank of a lane among the lanes of its segment of `seg` lanes (R269). -/
def rankOf (eff : Mask) (key : Nat → Int) (seg p : Nat) : Nat :=
  let base := p / seg * seg
  ((List.range seg).filter fun j => base + j ≠ p && ranksAhead eff key (base + j) p).length

/-- The lane of rank `k` in the segment that starts at `base` (R269). -/
def laneOfRank (eff : Mask) (key : Nat → Int) (seg base k : Nat) : Nat :=
  match (List.range seg).find? fun j => rankOf eff key seg (base + j) == k with
  | some j => base + j
  | none => base

end Sys2Proof.Machine
end

