-- ==== Sys2Proof/Config.lean ====
section
/-!
DEFINITION. What the device fixes and no program can set, and the values that the manual leaves open. An open
value is an opaque constant: nothing can be proved about which value it is.
-/

namespace Sys2Proof.Config

/-- The cores of the die (R8). -/
def cores : Nat := 160

/-- The bytes of one HBM4E stack (R14): 48 GiB. -/
def stackBytes : Nat := 48 * 2 ^ 30

/-- The bytes of memory in Reduced service (R422): 4 GiB. -/
def reducedBytes : Nat := 2 ^ 32

/-- The L2 slices and the lines that one slice holds (R13): 12 MiB of 128-byte lines. -/
def slices : Nat := 256
def sliceLines : Nat := 98304

/-- The value of a scratchpad byte that nothing has written since its allocation was placed (R77: undefined).
It depends on the allocation's placement number and the physical offset. FREE VALUE, log entry 3. -/
opaque scratchByte : Nat → Nat → Byte

/-- The value of a byte of physical memory at a phase of service whose contents the manual calls undefined
(R422), by address and by the number of the entry into full service. FREE VALUE, log entry 4. -/
opaque memoryByte : Nat → Nat → Byte

/-- The ticks from a key-switch announcement to its switch tick (R427 fixes none), by the tick of the announcement. FREE VALUE,
log entry 6. -/
opaque keySwitchLead : Nat → Nat

/-- The 64-bit AES-256-GCM tag of a flit under the session key of a lane set and generation, by the peer, the set's number, the nonce and the
bytes it covers (R427), uninterpreted. -/
opaque flitTag : Nat → Nat → List Byte → List Byte → BitVec 64

/-- The lines of one data way of an L2 slice (R447 does not give the number of ways). FREE VALUE, log entry 7. -/
opaque wayLines : Nat

/-- Whether the owner of a remote signal address answers that it translates there with read, or with read and write, permission (R402), by
the number of the question and the address. FREE VALUE, log entry 59. -/
opaque peerTranslates : Nat → BitVec 64 → Bool → Bool

/-- What a latch holds of a lane when it captures the entry that a load pushes and whose data has not landed: R62 gives no value. By
the entry's number and the lane. FREE VALUE, log entry 88. -/
opaque latchValue : Nat → Nat → BitVec 64

/-- The ML-DSA-87 signature of this device's identity key over a 64-byte digest (R442), uninterpreted. -/
opaque sign : List Byte → List Byte

/-- ML-DSA-87 verification under the vendor key fused in Mysko (R423), uninterpreted. -/
opaque vendorVerify : List Byte → List Byte → Bool

/-- This device's identity public key, serial and endorsement (R437, R442), uninterpreted. -/
opaque identityKey : List Byte
@[inherit_doc identityKey] opaque serial : List Byte
@[inherit_doc identityKey] opaque endorsement : List Byte

/-- The identity public key of the device with a domain index, as session agreement authenticated it (R440). -/
opaque peerKey : Nat → List Byte

end Sys2Proof.Config
end

