-- ==== Sys2Proof/Machine/State.lean ====
section
/-!
DEFINITION. The state of one CGK-640 and its reset value. Every field is plain data. A field's comment gives the
rule that names it; INVENTORY.md gives each width and reset value.
-/

namespace Sys2Proof.Machine

/-- Why a step can stop with a fault. -/
inductive Fault where
  /-- Raised by a step that an instruction word or an event of the cores, Ladles, slices and Crucibles would take, once a thermal trip has
  stopped their clock (R16, R430: no restart before a reset). Safe. -/
  | clockStopped
  deriving DecidableEq, Repr

/-- Why a step can be refused. -/
inductive Refusal where
  /-- Raised by an instruction that has no meaning yet. Safe. -/
  | notModelled (mnemonic : String)
  /-- Raised by an instruction word executed while no unit holds a run: no group is issuing it. Safe. -/
  | noIssuer
  /-- Raised by an operation or event of the machine whose condition in its rule does not hold in this
  state, so that it cannot happen now. Safe. -/
  | eventNotEnabled
  deriving DecidableEq, Repr

/-! ### Groups -/

/-- The states of a path-table entry (R39, R71). -/
inductive PathState where
  | free | ready | waiting | parked
  deriving DecidableEq, Repr

/-- The kinds of a reconvergence record (R36). -/
inductive RecKind where
  | split | detached | serial
  deriving DecidableEq, Repr

/-- A reconvergence record (R36, R39); partner none is "gone", and `former` is the entry that it last named. -/
structure PathRec where
  kind : RecKind
  recon : Dword
  partner : Option Nat
  former : Nat
  phase : Nat
  saved : Mask
  saved2 : Mask
  resume : Dword
  deriving DecidableEq, Repr

/-- A watch armed by a waiting head (R294, R298, R303): the scratchpad word on a core, or a signal. -/
inductive Watch where
  /-- the eight bytes at physical scratchpad byte `a` of `core`, the relation code and the value -/
  | word (core a rel : Nat) (value : Dword)
  /-- a sequence slot and its number -/
  | slot (core a : Nat) (n : Word)
  /-- a signal's address, the relation code and the value -/
  | signal (addr : Dword) (rel : Nat) (value : Dword)
  deriving DecidableEq, Repr

/-- One entry of the path table (R35). -/
structure Path where
  /-- the state of R39 -/
  st : PathState
  /-- the PC (R193) -/
  pc : Dword
  /-- the lane set -/
  lanes : Mask
  /-- the execution mask EXEC -/
  exec : Mask
  /-- the reconvergence stack, top first (R36) -/
  stack : List PathRec
  /-- boundaries at which it was ready and not chosen (R42) -/
  passed : Nat
  /-- its place in the promotion order, once promoted (R42) -/
  promoted : Option Nat
  /-- stopped by debug (R456), and a stop asked for at the next boundary -/
  stopped : Bool
  stopAsked : Bool
  /-- the deadline of a waiting SWAIT (R237) -/
  deadline : Option Nat
  /-- the watch of a waiting head -/
  watch : Option Watch
  /-- a watch matched: the value that released the head, and the cycle of its write (R294, R303, R304) -/
  matched : Option Dword
  matchedAt : Nat
  /-- the tick at which it began to wait in CWAIT, and the circle it waits on (R48) -/
  cwaitSince : Option (Nat × Word)
  /-- the granules that its waiting GROW asks for, and since when; and, pre-empted under R46, that they come with its return, and
  its GROW then ends -/
  grow : Option (Nat × Nat)
  granted : Bool
  /-- the cycle in which its head's pop of a control entry first found the bank used (R44) -/
  popSince : Option Nat
  /-- the slice entry has been checked against the target mask (R194) -/
  entered : Bool
  /-- operations that a BDIV or a RECON orders before every later access of the path (R103) -/
  holds : List Nat
  deriving DecidableEq, Repr

/-- A free path-table entry. -/
def Path.empty : Path := ⟨.free, 0, 0, 0, [], 0, none, false, false, none, none, none, 0, none, none, false, none, true, []⟩

/-- A cause of a trap (R51, R52, R343). -/
structure Cause where
  /-- the code of R52, or 0x10 for TRAP -/
  code : Nat
  /-- 0 precise, 1 boundary, 2 returned, 3 delivered from the Press -/
  cls : Nat
  /-- the causing instruction -/
  pc : Dword
  addr : Dword
  lanes : Mask
  /-- bits [31:16] of TRCAUSE -/
  marks : Nat
  detail : Nat
  /-- whether the cause is lane-wise (R51) -/
  lanewise : Bool
  deriving DecidableEq, Repr

/-- The trap registers of a group (R342). -/
structure TrapRegs where
  cause : Dword
  epc : Dword
  addr : Dword
  lanes : Dword
  pc0 : Dword
  pc1 : Dword
  pc2 : Dword
  pc3 : Dword
  exec : Dword
  mapst : Dword
  deriving DecidableEq, Repr

/-- The trap registers at a group's entry. -/
def TrapRegs.zero : TrapRegs := ⟨0, 0, 0, 0, 0, 0, 0, 0, 0, 0⟩

/-- The five outstanding counters (R115), in the order of the classes of WAITC. -/
structure Counters where
  copy : Nat
  fab : Nat
  atom : Nat
  mx : Nat
  ctl : Nat
  deriving DecidableEq, Repr

/-- An execute or access group (R21, R54). -/
structure Group where
  /-- the model's own number of the group -/
  gid : Nat
  pair : Nat
  stream : Stream
  ctx : Nat
  launch : Nat
  /-- the group index (R21) -/
  index : Nat
  core : Nat
  /-- the partition, or 4 for the Ladle -/
  part : Nat
  slot : Nat
  /-- the placement time, for R42's age -/
  age : Nat
  /-- vector and uniform granule counts (R55) -/
  g : Nat
  h : Nat
  /-- V0 upward, S0 upward, P0 to P14 (R54) -/
  vregs : List Lanes
  sregs : List Word
  preds : List Mask
  /-- the path table (R35) -/
  paths : List Path
  oc : Counters
  /-- the path entry in the supervisor handler (R339) -/
  sup : Option Nat
  trap : TrapRegs
  /-- causes not yet taken, with the path entry (R51, R339) -/
  pending : List (Nat × List Cause)
  /-- the circles the group belongs to, with the next-arrival phase (R297) -/
  circles : List (Word × Nat)
  /-- acquires that every later access follows (R106) -/
  holdAll : List Nat
  /-- what comes before a FENCE.ACQ, .AR or .SC, which every later access follows: what reads, and a faulted access (R107, R110) -/
  fenceAll : List Nat
  /-- operations that a FENCE.REL orders before every later store and atomic, with its scope (R107) -/
  fenceStores : List (Nat × Nat)
  /-- stores that a FENCE.SC orders before every later access that reads (R109) -/
  fenceLoads : List Nat
  /-- accesses that come before an early release whose bytes the group has read: its own releases follow them (R108) -/
  taints : List Nat
  /-- the Press context (core, number) whose cause the group took (R53) -/
  pressCause : Option (Nat × Nat)
  /-- the queue and entry whose POISON the handler is serving (R65) -/
  poison : Option (Nat × Nat)
  /-- the group has exited (R38) -/
  exited : Bool
  deriving DecidableEq, Repr

/-! ### Queue windows -/

/-- The states of an entry slot (R64); a Free slot is not listed. -/
inductive EntryState where
  | filling | ready | poisoned
  deriving DecidableEq, Repr

/-- An entry of a queue: its lanes, the lanes not yet landed, the faulted lanes, its poison record,
whether faulted lanes are held under R66, the accesses that the push of a control entry follows (R114), and one more than the cycle in
which a load last landed on it, or 0 (R304). -/
structure Entry where
  id : Nat
  st : EntryState
  vals : Lanes
  wait : Mask
  faulted : Mask
  record : Option Nat
  held : Bool
  after : List Nat
  landed : Nat
  deriving DecidableEq, Repr

/-- An address entry that STQ pushed (R67, R280): lanes, addresses, refused lanes, width, release, channel. -/
structure AddrEntry where
  op : Nat
  lanes : Mask
  addrs : Lanes
  refused : Mask
  width : Nat
  scope : Nat
  channel : Nat
  pc : Dword
  path : Nat
  after : List Nat
  deriving DecidableEq, Repr

/-- A declared queue (R60): 0 load-data, 1 store-data, 2 control. -/
structure Queue where
  declared : Bool
  kind : Nat
  depth : Nat
  entries : List Entry
  addrs : List AddrEntry
  deriving DecidableEq, Repr

/-- A poison record (R70): the entry's poisoned lanes and what re-performs their accesses. -/
structure Poison where
  lanes : Mask
  op : Nat
  cause : Nat
  deriving DecidableEq, Repr

/-- A scratchpad allocation (R77): its core, its owner, base and size in bytes, the number of its placement,
and the bytes written since, by physical offset. While its owner is saved it is no place of the core, and copies go on with it (R49):
`away` is then the physical address of its image in the owner's cohort unit (R413), 0 for a pair. -/
structure Alloc where
  core : Nat
  owner : PlaceSrc
  base : Nat
  size : Nat
  epoch : Nat
  cells : List Host.Cell
  away : Option Nat
  deriving DecidableEq, Repr

/-- The states of a work-ring slot (R302). -/
inductive RingSlot where
  | empty | committed (item : Word) | void
  deriving DecidableEq, Repr

/-- A work ring (R302), with the cycle of its latest claim and the unit that made it, and one more than the cycle of each slot's latest
commit, or 0 (R304). -/
structure Ring where
  claim : Word
  take : Word
  slots : List RingSlot
  last : Nat × Nat
  put : List Nat
  deriving DecidableEq, Repr

/-- An empty ring. -/
def Ring.zero : Ring := ⟨0, 0, List.replicate 16 .empty, (0, 0), List.replicate 16 0⟩

/-- Where a Press stream stands (R50, R53, R326). -/
inductive PressState where
  | running | waiting | stopped | ended | debugStopped
  deriving DecidableEq, Repr

/-- A Press command that has issued and not finished (R307, R327): its number, which is that of its scoreboard
entry, the command, and the offset and value that it took from the item register at its issue. -/
structure PressCmd where
  id : Nat
  what : Instr
  base : Nat
  value : Dword
  deriving DecidableEq, Repr

/-- A Press context (R305). -/
structure PressCtx where
  core : Nat
  num : Nat
  cohort : Nat
  st : PressState
  pc : Dword
  tiles : List (List Byte)
  accs : List (List Word)
  item : Word
  k : List Word
  w : List Word
  est : Nat
  toggles : List Nat
  rings : List Ring
  cmds : List PressCmd
  /-- the scoreboard entry of the next command, which waits for its grant (R327) -/
  waits : Option Nat
  /-- the entry of the slice has been checked against the target mask (R194) -/
  entered : Bool
  /-- cycles in which its next command could have issued and was passed over (R43) -/
  passed : Nat
  /-- a cause that stopped the stream and is not delivered yet (R53) -/
  cause : Option Cause
  /-- the group that took the cause -/
  taken : Option Nat
  deriving DecidableEq, Repr

/-- A twin pair (R20, R23). -/
structure Pair where
  id : Nat
  ctx : Nat
  launch : Nat
  index : Nat
  core : Nat
  part : Nat
  cohort : Option Nat
  member : Nat
  queues : List Queue
  /-- the loss-of-decoupling count (R68) -/
  lod : Nat
  /-- the eight poison records (R65) -/
  poison : List (Option Poison)
  /-- cycles since the window was last touched (R47, R69) -/
  idle : Nat
  /-- the save area that holds the pair while it is pre-empted (R413) -/
  area : Option Nat
  resident : Bool
  /-- its area has been refused at a restore (R72) -/
  refused : Bool
  deriving DecidableEq, Repr

/-! ### Cohorts and the Press -/

/-- The states of R50. -/
inductive CohortState where
  | resident | awaitingPress | draining | retired | saved
  deriving DecidableEq, Repr

/-- A cohort (R24, R25, R296). -/
structure Cohort where
  id : Nat
  ctx : Nat
  launch : Nat
  number : Nat
  size : Nat
  cores : List Nat
  pairs : List Nat
  st : CohortState
  /-- done_h and a_h of the hoops (R296), and the cycle and the unit of each one's latest arrival (R304) -/
  hoopDone : List Word
  hoopArr : List Nat
  hoopLast : List (Nat × Nat)
  /-- the units of the save region that hold it (R413) -/
  units : List Nat
  /-- its save area has been refused at a restore (R72) -/
  refused : Bool
  /-- its Press streams while it is saved -/
  streams : List PressCtx
  deriving DecidableEq, Repr

/-! ### Issue -/

/-- A captured latch: the slot that captured it, and its lanes (R33, R211). -/
structure Latch where
  slot : Nat
  vals : Lanes
  deriving DecidableEq, Repr

/-- The run that a unit is issuing (R29): partition 0 to 3, Ladle 4, or Press context 5 to 8 of a core. -/
structure Run where
  core : Nat
  unit : Nat
  gid : Nat
  entry : Nat
  head : Dword
  slots : List (Dword × Instr)
  idx : Nat
  latches : List (Option Latch)
  /-- boundary causes so far, in program order (R51) -/
  causes : List Cause
  /-- the PC that a transfer of the run chose -/
  next : Option Dword
  /-- n and the PC of the first BKPT that stops the path at the boundary (R341) -/
  brk : Option (Nat × Dword)
  deriving DecidableEq, Repr

/-- A unit's scheduling state (R42, R44, R454). `taken`: the Ladle has taken its issue cycle; `banks`: the banks that what has issued in
this cycle uses, bit b for bank b. -/
structure UnitSched where
  core : Nat
  unit : Nat
  /-- how many paths have been promoted so far -/
  promotions : Nat
  /-- issue cycles taken by the Ladle (R44) -/
  thefts : Nat
  /-- the slot sampled last (R454) -/
  sampled : Nat
  /-- the group and path that issued last -/
  issued : Option (Nat × Nat)
  /-- the group and path that arbitration has chosen and whose run is not fetched yet -/
  chosen : Option (Nat × Nat)
  taken : Bool
  banks : Nat
  deriving DecidableEq, Repr

/-- A fill of a window entry that waits for its bank (R44). -/
structure WindowAccess where
  core : Nat
  pair : Nat
  queue : Nat
  entry : Nat
  lanes : Mask
  faulted : Mask
  vals : Lanes
  waited : Nat
  op : Nat
  deriving DecidableEq, Repr

/-- A scoreboard entry (R120, R327): its 256-byte granules as (core, granule), whether it writes, and whether it
has been granted. -/
structure ScoreEntry where
  id : Nat
  core : Nat
  granules : List Nat
  writes : Bool
  granted : Bool
  deriving DecidableEq, Repr

/-! ### Operations in flight -/

/-- The classes of the outstanding counters (R115). -/
inductive OcClass where
  | copy | fab | atom | mx | ctl
  deriving DecidableEq, Repr

/-- Where an operation's result goes. -/
inductive Dest where
  | none
  | vreg (n : Nat)
  | ureg (n : Nat)
  | upair (n : Nat)
  | port (q entry : Nat)
  deriving DecidableEq, Repr

/-- A copy's descriptor (R299): 0 COPY, 1 COPYO, 2 COPYC; addresses, rows, row bytes, pitches, modes, flag. -/
structure CopyDesc where
  kind : Nat
  g : Dword
  p : Nat
  rows : Nat
  rb : Nat
  gp : Int
  sp : Int
  smode : Nat
  dmode : Nat
  flag : Option Nat
  value : Dword
  deriving DecidableEq, Repr

/-- What a Crucible contribution carries (R155, R290, R292). -/
inductive Crux where
  | accF32 (u : List Word)
  | accMx (fmt scale : Nat) (slot : List Byte)
  | load
  | store (scale : Nat) (slot : List Byte)
  | add (lanes : Mask) (vals : Lanes) (base : Dword)
  deriving DecidableEq, Repr

/-- The state of a contribution at its slice (R160, R161); `input` waits at the slice input for an order-table entry. -/
inductive CruxState where
  | sent | input | parked | held | loading | done | refused
  deriving DecidableEq, Repr

/-- One contribution: block or line address, payload, ordinal, and its state. -/
structure Contrib where
  addr : Dword
  what : Crux
  ordinal : Option Nat
  st : CruxState
  deriving DecidableEq, Repr

/-- The kinds of operation in flight. -/
inductive OpKind where
  | load (width : Nat) (sign : Bool) (out : Nat)
  | store (width : Nat)
  | atomic (major minor width : Nat) (ret : Bool)
  | grld (fmt pitch n : Nat) (list : Lanes)
  | prefetch (l1 : Bool)
  | nmop (op : Nat)
  | copy (d : CopyDesc)
  | crux (fmt : Nat) (hi f32 : Bool) (ord : Bool) (cs : List Contrib)
  /-- a reduce-window store; `back` holds its sent-back halves with the tick from which each may be resent (R181) -/
  | stmr (win q : Nat) (back : List (Nat × Nat))
  | rgetQueue (peer : Nat)
  | rgetSpad (peer off len mode : Nat)
  | lease (slot : Option Nat)
  | drop (ticket peer : Nat)
  | leaseq (ticket : Nat)
  | xfence (target : Option Nat) (all : Bool) (after : List Nat)
  | sigdec (n : Nat)
  | mapft
  | launch (queue : Nat)
  | sysrd (sel : Nat)
  | hmread (n : Nat)
  | harrive (hoop : Nat)
  | hmseal (signal : Dword)
  /-- scratchpad and cluster-memory accesses (R284, R285), and arrivals that earlier accesses hold back (R121) -/
  | spadLoad (cl : Bool) (mode width : Nat) (sign : Bool) (out : Nat)
  | spadT (mode width pitch out : Nat)
  | spadStore (cl : Bool) (mode width : Nat)
  /-- the eight bytes of a sequence slot, written as one (R303) -/
  | publish
  | carrive (key : Word)
  deriving DecidableEq, Repr

/-- An operation in flight. -/
structure Op where
  id : Nat
  ctx : Nat
  /-- the issuing group, or none for an operation that arrived from another device -/
  gid : Nat
  /-- the domain index of the requester; the device's own index for its own groups -/
  from_ : Nat
  entry : Nat
  pc : Dword
  kind : OpKind
  cls : Option OcClass
  dst : Dest
  /-- lanes not yet performed, performed lanes, lanes found remote at issue, faulted lanes -/
  todo : Mask
  done : Mask
  remote : Mask
  faulted : Mask
  cause : Nat
  marks : Nat
  addrs : Lanes
  data : Lanes
  data2 : Lanes
  res : Lanes
  channel : Nat
  scope : Nat
  order : Nat
  /-- operations that are performed before this one (R103, R106, R117, R125) -/
  after : List Nat
  /-- earlier accesses of its path whose bytes it may touch (R101) -/
  same : List Nat
  /-- operations that a release or a fence orders before it, with the scope that it reaches (R106, R107); 5 for every agent -/
  rel : List (Nat × Nat)
  /-- performed parts of a lane: lane, number of the byte or row element, value (R98, R281); for a copy, (byte, 0, value) of the bytes
  read and not yet written, (byte, 1, 0) of those refused, and (byte, 2, 0) of those sent to their owner (R118, R300) -/
  parts : List (Nat × Nat × Nat)
  /-- the fault has been returned to the group; and the faulted lanes stand in the replay record whose trap the
  group has taken (R51, R126) -/
  told : Bool
  replay : Bool
  /-- the group has ended; the operation completes into memory (R23) -/
  orphan : Bool
  /-- kept only for a poison record (R65): the access has completed -/
  dormant : Bool
  /-- pieces landed (R188), bytes of a copy performed (R118, R300), the queue of an STQ (R67), or the late member of a CARRIVE (R28) -/
  pieces : List Nat
  deriving DecidableEq, Repr

/-- A release that has been performed while accesses before it are not: until they are, the agents that it reaches do not read its
bytes, or for a CARRIVE do not pass the phase that it arrived for (R104, R106, R108, R121). The group's context, cohort or pair and core
are those at the release (R105). -/
structure Veil where
  gid : Nat
  ctx : Nat
  owner : PlaceSrc
  core : Nat
  scope : Nat
  addr : Nat
  bytes : Nat
  before : Nat
  deriving DecidableEq, Repr

/-! ### Memory side -/

/-- An L2 line (R88, R89, R92): tag, line number, physical line address, permissions, dirty, 128 bytes; the contexts for which
a line of tag 16 has been translated; and whether it is a line of a page table, numbered by its physical address. -/
structure L2Line where
  tag : Nat
  line : Nat
  frame : Nat
  r : Bool
  w : Bool
  x : Bool
  dirty : Bool
  data : List Byte
  users : List Nat
  table : Bool
  deriving DecidableEq, Repr

/-- A page-TLB entry of a slice (R87, R415). -/
structure TlbEntry where
  slice : Nat
  ctx : Nat
  base : Nat
  size : Nat
  frame : Nat
  r : Bool
  w : Bool
  x : Bool
  global : Bool
  deriving DecidableEq, Repr

/-- A range-TLB entry (R416). -/
structure RangeEntry where
  ctx : Nat
  base : Nat
  limit : Nat
  frame : Nat
  r : Bool
  w : Bool
  x : Bool
  global : Bool
  deriving DecidableEq, Repr

/-- A byte that a store has put into a Shared line of its core's L1 and that the home has not performed, where it stays until then
whatever becomes of the line (R112): the core, the storing group, the store, the byte's offset, and its value. -/
structure PendingByte where
  core : Nat
  gid : Nat
  op : Nat
  addr : Nat
  value : Byte
  deriving DecidableEq, Repr

/-- An L1 line (R93): Shared or Owned, and the atomics performed on it since ownership was granted (R95). Its bytes are those of the
home, but for what stands pending (R112). -/
structure L1Line where
  core : Nat
  tag : Nat
  line : Nat
  owned : Bool
  atomics : Nat
  deriving DecidableEq, Repr

/-- An instruction-cache line (R85). -/
structure ICLine where
  core : Nat
  ctx : Nat
  addr : Nat
  data : List Byte
  deriving DecidableEq, Repr

/-- A registered MX region (R152). -/
structure Region where
  fmt : Nat
  e : Nat
  elen : Nat
  s : Nat
  slen : Nat
  o : Nat
  /-- the launch that registered it, if any -/
  launch : Option Nat
  deriving DecidableEq, Repr

/-- An order-table entry (R160, R161): Loading, or Idle or Parked with its next ordinal; since when it has not
advanced, and whether that stall has been recorded (R162). -/
structure OrderEntry where
  ctx : Nat
  region : Nat
  granule : Nat
  loading : Bool
  next : Nat
  since : Nat
  stalled : Bool
  deriving DecidableEq, Repr

/-! ### Fabric -/

/-- A multicast-reduce window (R179) and, at its home, the contributions of two generations (R181). -/
structure Window where
  home : Nat
  members : List Nat
  fmt : Nat
  len : Nat
  dst : Nat
  sig : Nat
  deriving DecidableEq, Repr

/-- A chunk's generation count and the accepted contributions: generation, member, bytes. -/
structure Staging where
  ctx : Nat
  win : Nat
  chunk : Nat
  gen : Nat
  got : List (Nat × Nat × List Byte)
  deriving DecidableEq, Repr

/-- The states of a ticket (R171). -/
inductive LeaseState where
  | pending | granted | notice | refused | ended
  deriving DecidableEq, Repr

/-- A lease slot of a context on this device (R331). -/
structure Lease where
  slot : Nat
  gen : Nat
  st : LeaseState
  reason : Nat
  peer : Nat
  held : Nat
  noticed : Nat
  term : Nat
  /-- the tick at which the term ends -/
  until_ : Nat
  /-- the tick at which its notice ends -/
  noticeAt : Nat
  dropAsked : Bool
  /-- the place of its grant in the order of grants (R167) -/
  since : Nat
  deriving DecidableEq, Repr

/-- A lease request in this device's receive queue (R170). -/
structure LeaseReq where
  peer : Nat
  lanes : Nat
  term : Nat
  revoking : Bool
  ahead : Bool
  /-- the arithmetic cycle of its arrival (R170) -/
  cycle : Nat
  /-- notices have been put for it: it stays at the head until it is granted (R170) -/
  decided : Bool
  deriving DecidableEq, Repr

/-- A lease that this device serves as receiver (R170): requester, lanes, lanes in notice, grant time. -/
structure Served where
  id : Nat
  peer : Nat
  lanes : Nat
  noticed : Nat
  since : Nat
  until_ : Nat
  deriving DecidableEq, Repr

/-- A notice (R171): the requester that loses lanes, how many, and when it ends. -/
structure Notice where
  id : Nat
  lease : Nat
  lanes : Nat
  ends : Nat
  deriving DecidableEq, Repr

/-- A run of flits that awaits acknowledgement: whether it is relaxed (R173), the generation in which it was first sent, the number of
its first flit, and how many (R427). -/
structure FlitRun where
  relaxed : Bool
  gen : Nat
  seq : Nat
  count : Nat
  deriving DecidableEq, Repr

/-- The flit and key state of a lane set of a pair, from this device when `out` and to it otherwise (R165, R166, R427). `key` tells
the floor's sets and each lease's apart, and rises in the numbering of R167; `flits` are the runs of flits that await
acknowledgement, oldest first; `txSeq` is the number of the next flit sent, and `rxBad` says that a replay has been asked for. -/
structure LaneSet where
  peer : Nat
  out : Bool
  set : Nat
  key : Nat
  flits : List FlitRun
  gen : Nat
  sent : Nat
  txSeq : Nat
  genSince : Nat
  switchAt : Option Nat
  rxSeq : Nat
  rxGen : Nat
  rxAnnounced : Bool
  rxNewAt : Option Nat
  rxBad : Bool
  deriving DecidableEq, Repr

/-- A pair's lanes (R165 to R173): floor out, floor in, lane sets in use, a change that waits, the relaxed flits that await
acknowledgement, those that the change holds back (their context, line and how many), and the lease requests to the peer that are not
answered and whose ticket has ended. -/
structure PeerLink where
  peer : Nat
  floorOut : Nat
  floorIn : Nat
  sets : Nat
  pendingSets : Option Nat
  unacked : Nat
  held : List (Nat × Nat × Nat)
  stray : Nat
  refusals : Nat
  down : Bool
  deriving DecidableEq, Repr

/-! ### Launch and host -/

/-- The parsed kernel descriptor (R403). -/
structure Kernel where
  accessPc : Dword
  executePc : Dword
  pressPc : Dword
  regions : Nat
  cohort : Nat
  window : Nat
  scratch : Nat
  ans : Nat
  anv : Nat
  ens : Nat
  env : Nat
  queues : List (Bool × Nat × Nat)
  hoops : List Nat
  deriving DecidableEq, Repr

/-- An accepted launch or barrier (R401 to R406). -/
structure Launch where
  id : Nat
  ctx : Nat
  queue : Nat
  index : Nat
  barrier : Bool
  kernel : Kernel
  n : Nat
  args : List Word
  completion : Dword
  deps : List (Dword × Dword)
  /-- the dependences hold, and since when -/
  met : Option Nat
  /-- units (cohorts, or pairs) placed and retired -/
  placed : Nat
  retired : Nat
  starved : Bool
  deriving DecidableEq, Repr

/-- A hardware queue (R396, R399). -/
structure HwQueue where
  base : Dword
  enable : Bool
  feed : Bool
  size : Nat
  ctx : Nat
  prio : Nat
  rd : Word
  wr : Word
  err : Nat
  /-- the launch read and not wholly placed -/
  current : Option Nat
  deriving DecidableEq, Repr

/-- A window segment (R396). -/
structure Segment where
  base : Dword
  enable : Bool
  ctx : Nat
  deriving DecidableEq, Repr

/-- A decrement on its way to its signal (R408): source 0 retirement, 1 barrier, 2 window delivery, 3 HMSEAL. -/
structure SigDec where
  id : Nat
  ctx : Nat
  addr : Dword
  n : Nat
  source : Nat
  info : Dword
  deriving DecidableEq, Repr

/-! ### Contexts and Mysko -/

/-- The states of a context (R412). -/
inductive CtxState where
  | absent | live | stopping | stopped | ending
  deriving DecidableEq, Repr

/-- A context (R410 to R412, R419, R432, R437). -/
structure Ctx where
  st : CtxState
  created : Bool
  cores : BitVec 160
  block : Nat
  root : Nat
  saveBase : Nat
  np : Nat
  nc : Nat
  fqBase : Nat
  fqLog : Nat
  regionBase : Nat
  windowBase : Nat
  replayBase : Nat
  replayCount : Nat
  /-- the pair areas and cohort units in use -/
  areas : List Nat
  units : List Nat
  members : BitVec 1024
  /-- the mailbox slots whose CTX_STOP or CTX_END is not done yet -/
  waiting : List Nat
  regions : List (Option Region)
  windows : List (Option Window)
  leases : List Lease
  counters : List Nat
  satMask : Dword
  job : BitVec 256
  createTick : Nat
  formTick : Nat
  prevSeq : Nat
  memberKeys : List (Nat × List Byte)
  debug : Bool
  debugBase : Nat
  debugIndex : Nat
  peerBase : Nat
  peerCount : Nat
  /-- the WINDOW_ENABLE and WINDOW_DISABLE commands, by slot and index, that wait for the other members (R411) -/
  windowWait : List (Nat × Nat)
  /-- invalidations that wait for contributions checked before them: the mailbox slot, and operation and place of each (R417) -/
  invalWait : List (Nat × List (Nat × Nat))
  deriving DecidableEq, Repr

/-- A circle of a context (R27, R297): the open phase, and each member with the phase it is counted from and
its next-arrival phase. -/
structure Circle where
  ctx : Nat
  key : Word
  phase : Nat
  members : List (Nat × Nat × Nat)
  deriving DecidableEq, Repr

/-- A trace record (R451): type, tick, path, unit, issued, reason, and words 1 to 3. -/
structure TraceRec where
  word0 : Dword
  w1 : Dword
  w2 : Dword
  w3 : Dword
  deriving DecidableEq, Repr

/-- A core's own state: its context, fencing, trace FIFO, MMA budget and contention predictor. -/
structure Core where
  num : Nat
  owner : Option Nat
  fenced : Bool
  budget : Nat
  predictor : List Nat
  fifo : List TraceRec
  drops : Nat
  lastTick : Nat
  needFull : Bool
  ringBase : Nat
  ringLog : Nat
  ringOn : Bool
  ringIndex : Nat
  shift : Nat
  /-- the cycle in which its units were sampled last (R454) -/
  sampledAt : Option Nat
  deriving DecidableEq, Repr

/-- A mailbox slot (R424): the 8-byte words that the host and Mysko have written, by number; 0 is the command word and 1 the status
word. -/
structure Mail where
  slot : Nat
  words : List (Nat × Dword)
  deriving DecidableEq, Repr

/-- An error record (R449). -/
structure ErrRec where
  tick : Dword
  what : Dword
  addr : Dword
  struct : Dword
  deriving DecidableEq, Repr

/-- A seal request in Mysko's queue (R351, R437). -/
inductive SealReq where
  | hmseal (op : Nat)
  | hmSeal (slot ctx : Nat) (dst : Dword)
  | domAttest (slot ctx : Nat) (dst : Dword)
  deriving DecidableEq, Repr

/-- The phases of R422. -/
inductive Phase where
  | boot | recovery | reduced | full
  deriving DecidableEq, Repr

/-- A firmware slot of Mysko's flash (R423): the image's bytes, none when empty. -/
structure FwSlot where
  version : Nat
  rollback : Nat
  image : List Byte
  deriving DecidableEq, Repr

/-- Mysko, bring-up, power and time (R422 to R430, R442, R449, R450). -/
structure Mysko where
  phase : Phase
  fw : List FwSlot
  running : Nat
  fused : Nat
  stacksTrained : BitVec 12
  stacksFenced : BitVec 12
  rings : Bool
  selfTest : Bool
  events : Dword
  clock : Nat
  stopped : Bool
  /-- a thermal trip has ended every context, and stops the clock once they have drained (R430) -/
  tripped : Bool
  /-- the last ten power samples, newest first (R430) -/
  samples : List Nat
  junction : Nat
  inlet : Nat
  limit : Nat
  q : Nat
  below : Nat
  sequence : Nat
  log : List ErrRec
  lost : Nat
  corrected : List (Nat × Nat × Nat)
  seals : List SealReq
  mail : List Mail
  /-- the slots whose go has been written and whose command is not taken yet, in the order of the writes (R424) -/
  goes : List Nat
  fencedUnits : List (Nat × Nat)
  badFrames : List Nat
  deviceFenced : Bool
  serviceEpoch : Nat
  /-- ticks still to be added by slewing, and how many ticks pass before the next may be (R450) -/
  slew : Int
  slewWait : Nat
  /-- the offset from the reference, since when it exceeds 100 ns, and whether that has been reported -/
  offset : Int
  offsetSince : Option Nat
  alerted : Bool
  deriving DecidableEq, Repr

/-- The domain and the ports (R83, R165, R426, R429). -/
structure Fabric where
  formed : Bool
  index : Nat
  count : Nat
  laneMap : List (BitVec 16)
  links : List PeerLink
  sets : List LaneSet
  reqs : List LeaseReq
  served : List Served
  notices : List Notice
  rxPool : Nat
  txPool : Nat
  staging : List Staging
  ports : List (BitVec 512)
  /-- what left the device: destination, kind code, payload -/
  out : List (Nat × Nat × List Byte)
  deriving DecidableEq, Repr

/-- How a host read completes (R396, R397, R422). -/
inductive HostReply where
  | nothing | data (bytes : List Byte) | completerAbort | unsupported
  deriving DecidableEq, Repr

/-- The PCI Express side (R396, R408). -/
structure HostSide where
  queues : List HwQueue
  segments : List Segment
  msixTable : List (Nat × Dword)
  msixPending : BitVec 2048
  /-- MSI-X messages sent, oldest first -/
  msix : List Nat
  /-- the completion of the latest host read -/
  readData : HostReply
  /-- for each priority the queue at which the next rotation begins (R405) -/
  turn : List Nat
  deriving DecidableEq, Repr

/-- The memory side (R84 to R96, R160). -/
structure MemSide where
  l2 : List L2Line
  tlb : List TlbEntry
  ranges : List (Option RangeEntry)
  l1 : List L1Line
  /-- the bytes that stores have left pending in the L1s (R112) -/
  pending : List PendingByte
  icache : List ICLine
  orders : List OrderEntry
  /-- the entries that have left the order table while a contribution was held for their granule: their stalls go on (R162) -/
  stalls : List OrderEntry
  homeTouch : List (Nat × Nat × Nat × Nat)
  deriving DecidableEq, Repr

/-- The execution side: everything resident and everything in flight. -/
structure Exec where
  groups : List Group
  pairs : List Pair
  cohorts : List Cohort
  presses : List PressCtx
  allocs : List Alloc
  runs : List Run
  scheds : List UnitSched
  ops : List Op
  winAcc : List WindowAccess
  score : List ScoreEntry
  circles : List Circle
  sigdecs : List SigDec
  launches : List Launch
  veils : List Veil
  /-- arithmetic cycles so far (R16) -/
  cycle : Nat
  /-- numbers handed out so far: groups, pairs, cohorts, operations, entries, ages, launches -/
  seq : Nat
  deriving DecidableEq, Repr

/-- The machine. -/
structure State where
  /-- physical memory: the bytes that differ from an unlisted one, by rising address -/
  mem : List Host.Cell
  /-- the device timebase (R450) -/
  tick : Nat
  /-- the unit that issues the next slot, as (core, unit): the model's own field -/
  issuer : Option (Nat × Nat)
  /-- the operations and events that move next: the model's own field -/
  agenda : List Instr
  /-- the default scheduler's turn: the model's own field -/
  turn : Nat
  mysko : Mysko
  fabric : Fabric
  host : HostSide
  memory : MemSide
  exec : Exec
  ctxs : List Ctx
  cores : List Core
  deriving DecidableEq, Repr

/-- A context that was never created. -/
def Ctx.zero : Ctx :=
  { st := .absent, created := false, cores := 0, block := 0, root := 0, saveBase := 0, np := 0, nc := 0, fqBase := 0,
    fqLog := 4, regionBase := 0, windowBase := 0, replayBase := 0, replayCount := 0, areas := [], units := [],
    members := 1, waiting := [], regions := List.replicate 64 none, windows := List.replicate 64 none, leases := [],
    counters := List.replicate 64 0, satMask := 0, job := 0, createTick := 0, formTick := 0, prevSeq := 0,
    memberKeys := [], debug := false, debugBase := 0, debugIndex := 0, peerBase := 0, peerCount := 0,
    windowWait := [], invalWait := [] }

/-- A core that no context owns. -/
def Core.zero (n : Nat) : Core :=
  { num := n, owner := none, fenced := false, budget := 163840, predictor := List.replicate 256 0, fifo := [],
    drops := 0, lastTick := 0, needFull := false, ringBase := 0, ringLog := 7, ringOn := false, ringIndex := 0,
    shift := 0, sampledAt := none }

/-- Mysko at power-on (R422, R424, R430). -/
def Mysko.zero : Mysko :=
  { phase := .boot, fw := [⟨0, 0, []⟩, ⟨0, 0, []⟩], running := 0, fused := 0, stacksTrained := 0, stacksFenced := 0,
    rings := false, selfTest := false, events := 0, clock := 500, stopped := false, tripped := false, samples := [], junction := 0,
    inlet := 0, limit := 3200, q := 163840, below := 0, sequence := 0, log := [], lost := 0, corrected := [],
    seals := [], mail := [], goes := [], fencedUnits := [], badFrames := [], deviceFenced := false, serviceEpoch := 0,
    slew := 0, slewWait := 0, offset := 0, offsetSince := none, alerted := false }

/-- No domain (R83: a device outside any domain has index 0). -/
def Fabric.zero : Fabric :=
  { formed := false, index := 0, count := 1, laneMap := [], links := [], sets := [], reqs := [], served := [],
    notices := [], rxPool := 0, txPool := 0, staging := [], ports := List.replicate 8 0, out := [] }

/-- A disabled hardware queue. -/
def HwQueue.zero : HwQueue :=
  { base := 0, enable := false, feed := false, size := 4, ctx := 0, prio := 0, rd := 0, wr := 0, err := 0, current := none }

/-- The state right after reset: phase Boot, nothing resident, memory with nothing listed (R422). -/
def State.reset : State :=
  { mem := [], tick := 0, issuer := none, agenda := [], turn := 0, mysko := Mysko.zero, fabric := Fabric.zero,
    host := { queues := List.replicate 64 HwQueue.zero, segments := List.replicate 64 ⟨0, false, 0⟩, msixTable := [],
              msixPending := 0, msix := [], readData := .nothing, turn := [0, 0, 0, 0] },
    memory := { l2 := [], tlb := [], ranges := List.replicate 32 none, l1 := [], pending := [], icache := [], orders := [], stalls := [],
                homeTouch := [] },
    exec := { groups := [], pairs := [], cohorts := [], presses := [], allocs := [], runs := [], scheds := [], ops := [],
              winAcc := [], score := [], circles := [], sigdecs := [], launches := [], veils := [], cycle := 0, seq := 0 },
    ctxs := List.replicate 16 Ctx.zero, cores := (List.range 160).map Core.zero }

end Sys2Proof.Machine
end

