-- ==== Sys2Proof/Machine/Ops.lean ====
section
/-!
DEFINITION. The named operations over registers, physical memory, the L2 and translation, scratchpad, the fault
queue and the assay counters, and taking a trap with its return.
-/

namespace Sys2Proof.Machine

/-! ### Finding and updating the pieces of the state -/

def findGroup (s : State) (gid : Nat) : Option Group := s.exec.groups.find? (·.gid == gid)
def findPair (s : State) (id : Nat) : Option Pair := s.exec.pairs.find? (·.id == id)
def findCohort (s : State) (id : Nat) : Option Cohort := s.exec.cohorts.find? (·.id == id)
def findOp (s : State) (id : Nat) : Option Op := s.exec.ops.find? (·.id == id)
def findLaunch (s : State) (id : Nat) : Option Launch := s.exec.launches.find? (·.id == id)
def findPress (s : State) (core num : Nat) : Option PressCtx :=
  s.exec.presses.find? fun p => p.core == core && p.num == num
def findRun (s : State) (core unit : Nat) : Option Run :=
  s.exec.runs.find? fun r => r.core == core && r.unit == unit
def getCtx (s : State) (c : Nat) : Ctx := s.ctxs.getD c Ctx.zero
def getCore (s : State) (c : Nat) : Core := s.cores.getD c (Core.zero c)

/-- The state with its execution side changed. -/
def State.onExec (s : State) (f : Exec → Exec) : State := { s with exec := f s.exec }
def State.onMysko (s : State) (f : Mysko → Mysko) : State := { s with mysko := f s.mysko }
def State.onFabric (s : State) (f : Fabric → Fabric) : State := { s with fabric := f s.fabric }
def State.onHost (s : State) (f : HostSide → HostSide) : State := { s with host := f s.host }
def State.onMemory (s : State) (f : MemSide → MemSide) : State := { s with memory := f s.memory }

def updGroup (s : State) (gid : Nat) (f : Group → Group) : State :=
  s.onExec fun e => { e with groups := e.groups.map fun g => if g.gid == gid then f g else g }
def updPair (s : State) (id : Nat) (f : Pair → Pair) : State :=
  s.onExec fun e => { e with pairs := e.pairs.map fun p => if p.id == id then f p else p }
def updCohort (s : State) (id : Nat) (f : Cohort → Cohort) : State :=
  s.onExec fun e => { e with cohorts := e.cohorts.map fun p => if p.id == id then f p else p }
def updOp (s : State) (id : Nat) (f : Op → Op) : State :=
  s.onExec fun e => { e with ops := e.ops.map fun o => if o.id == id then f o else o }
def updLaunch (s : State) (id : Nat) (f : Launch → Launch) : State :=
  s.onExec fun e => { e with launches := e.launches.map fun o => if o.id == id then f o else o }
def updPress (s : State) (core num : Nat) (f : PressCtx → PressCtx) : State :=
  s.onExec fun e => { e with presses := e.presses.map fun p => if p.core == core && p.num == num then f p else p }
def updRun (s : State) (core unit : Nat) (f : Run → Run) : State :=
  s.onExec fun e => { e with runs := e.runs.map fun r => if r.core == core && r.unit == unit then f r else r }
def dropRun (s : State) (core unit : Nat) : State :=
  s.onExec fun e => { e with runs := e.runs.filter fun r => !(r.core == core && r.unit == unit) }
def updCtx (s : State) (c : Nat) (f : Ctx → Ctx) : State := { s with ctxs := s.ctxs.modify c f }
def updCore (s : State) (c : Nat) (f : Core → Core) : State := { s with cores := s.cores.modify c f }
def dropOp (s : State) (id : Nat) : State :=
  s.onExec fun e => { e with ops := e.ops.filter fun o => o.id != id }
def addOp (s : State) (o : Op) : State := s.onExec fun e => { e with ops := e.ops ++ [o] }

/-- The next number, and the state that has used it. -/
def fresh (s : State) : Nat × State := (s.exec.seq, s.onExec fun e => { e with seq := e.seq + 1 })

/-- One path of a group changed. -/
def updPath (s : State) (gid entry : Nat) (f : Path → Path) : State :=
  updGroup s gid fun g => { g with paths := g.paths.modify entry f }

/-- A path of a group; a number beyond the table reads as a free entry. -/
def Group.path (g : Group) (e : Nat) : Path := g.paths.getD e Path.empty

/-! ### Assay counters (R432 to R434) -/

/-- `assay_add(n, delta)` of R433. The values stand from the end of a context to its next creation (R432). -/
def assayAdd (s : State) (c n delta : Nat) : State :=
  updCtx s c fun x =>
    let v := x.counters.getD n 0 + delta
    if x.st = .absent then x
    else if 2 ^ 64 ≤ v then
      { x with counters := x.counters.set n (2 ^ 64 - 1), satMask := x.satMask ||| BitVec.ofNat 64 (2 ^ n) }
    else { x with counters := x.counters.set n v }

/-! ### Registers (R54 to R58) -/

/-- A vector register; a number beyond the allocation reads as zero. -/
def Group.vreg (g : Group) (n : Nat) : Lanes := g.vregs.getD n Lanes.zero

/-- A 32-bit uniform register. -/
def Group.sreg (g : Group) (n : Nat) : Word := g.sregs.getD n 0

/-- An even–odd pair: S[n] holds bits [31:0] (R57). -/
def Group.spair (g : Group) (n : Nat) : Dword := g.sreg (n + 1) ++ g.sreg n

/-- A predicate; P15 reads as all ones (R58). -/
def Group.pred (g : Group) (n : Nat) : Mask := if n = 15 then BitVec.allOnes 64 else g.preds.getD n 0

def Group.setVreg (g : Group) (n : Nat) (v : Lanes) : Group := { g with vregs := g.vregs.set n v }
def Group.setSreg (g : Group) (n : Nat) (v : Word) : Group := { g with sregs := g.sregs.set n v }
def Group.setPair (g : Group) (n : Nat) (v : Dword) : Group :=
  (g.setSreg n (v.extractLsb' 0 32)).setSreg (n + 1) (v.extractLsb' 32 32)

/-- A predicate write; a write to P15 is ignored (R58). -/
def Group.setPred (g : Group) (n : Nat) (m : Mask) : Group :=
  if n = 15 then g else { g with preds := g.preds.set n m }

/-- The width of a lane of the group (R54). -/
def Group.laneWidth (g : Group) : Nat := if g.stream = .access then 64 else 32

/-! ### Physical memory -/

/-- What an unlisted byte of physical memory reads as: zero, and for the memory whose contents the entry into
full service leaves undefined a free value (R422). Log entries 2 and 4. -/
def Memory.unlisted (epoch a : Nat) : Byte :=
  if epoch = 0 ∨ Config.reducedBytes ≤ a then 0 else Config.memoryByte epoch a

/-- A byte of physical memory. -/
def Memory.read (epoch : Nat) (m : List Host.Cell) (a : Nat) : Byte :=
  match m.find? fun c => c.1 == a with
  | some c => c.2
  | none => Memory.unlisted epoch a

/-- A byte written; an entry equal to what an unlisted byte reads as is not listed. -/
def Memory.write (epoch : Nat) : List Host.Cell → Nat → Byte → List Host.Cell
  | [], a, b => if b = Memory.unlisted epoch a then [] else [(a, b)]
  | (k, v) :: t, a, b =>
    if a < k then (if b = Memory.unlisted epoch a then (k, v) :: t else (a, b) :: (k, v) :: t)
    else if a = k then (if b = Memory.unlisted epoch a then t else (a, b) :: t)
    else (k, v) :: Memory.write epoch t a b

/-- Addresses strictly rise. -/
def Memory.rising : List Host.Cell → Bool
  | [] => true
  | [_] => true
  | a :: b :: t => decide (a.1 < b.1) && Memory.rising (b :: t)

/-- The canonical form: rising addresses, and no entry that an unlisted address would read as. -/
abbrev Memory.wf (epoch : Nat) (m : List Host.Cell) : Prop :=
  Memory.rising m = true ∧ ∀ c ∈ m, c.2 ≠ Memory.unlisted epoch c.1

/-- The bytes of installed memory (R14, R422, R447): physical addresses from 0 upward. Which addresses a missing stack takes away
is the model's choice (log entry 83). -/
def installedBytes (s : State) : Nat :=
  match s.mysko.phase with
  | .full => popNat 12 s.mysko.stacksTrained.toNat * Config.stackBytes
  | .reduced => Config.reducedBytes
  | _ => 0

/-- Whether `n` bytes from a physical address exist. -/
def physExists (s : State) (a n : Nat) : Bool := a + n ≤ installedBytes s

def State.memRead (s : State) (a : Nat) : Byte := Memory.read s.mysko.serviceEpoch s.mem a
def State.memWrite (s : State) (a : Nat) (b : Byte) : State :=
  { s with mem := Memory.write s.mysko.serviceEpoch s.mem a b }

/-- The L2 line that holds a physical line: a dirty one before others. -/
def frameLine (s : State) (f : Nat) : Option L2Line :=
  match s.memory.l2.find? fun l => l.frame == f && l.dirty with
  | some l => some l
  | none => s.memory.l2.find? fun l => l.frame == f

/-- A byte at a physical address as the walker and Mysko read it: through L2 where a slice holds the frame. -/
def physByte (s : State) (a : Nat) : Byte :=
  match frameLine s (a / 128) with
  | some l => l.data.getD (a % 128) 0
  | none => s.memRead a

/-- The bytes from a physical address. -/
def physBytes (s : State) (a n : Nat) : List Byte := (List.range n).map fun i => physByte s (a + i)

/-- The little-endian value of `n` bytes at a physical address. -/
def physNat (s : State) (a n : Nat) : Nat := leValue (physBytes s a n)

/-- A byte written at a physical address, in memory and in every L2 line that holds the frame. -/
def physWriteByte (s : State) (a : Nat) (b : Byte) : State :=
  (s.memWrite a b).onMemory fun m =>
    { m with l2 := m.l2.map fun l => if l.frame == a / 128 then { l with data := l.data.set (a % 128) b } else l }

/-- Bytes written from a physical address upward. -/
def physWrite (s : State) (a : Nat) : List Byte → State
  | [] => s
  | b :: bs => physWrite (physWriteByte s a b) (a + 1) bs

/-! ### Messages, event word and records -/

/-- Whether a vector is masked: bit 0 of its vector control word, which the PCI Express standard sets at reset (R396). -/
def msixMasked (h : HostSide) (v : Nat) : Bool :=
  match (h.msixTable.find? fun e => e.1 == 2 * v + 1).map (·.2) with
  | some w => w.getLsbD 32
  | none => true

/-- An MSI-X message (R395, R408): sent, or made pending when its vector is masked. -/
def sendMsix (s : State) (v : Nat) : State :=
  if msixMasked s.host v then s.onHost fun h => { h with msixPending := h.msixPending ||| BitVec.ofNat 2048 (2 ^ v) }
  else s.onHost fun h => { h with msix := h.msix ++ [v] }

/-- A bit of the status page's event word set, with vector 16 (R424). -/
def setEvent (s : State) (bit : Nat) : State :=
  sendMsix (s.onMysko fun m => { m with events := m.events ||| BitVec.ofNat 64 (2 ^ bit) }) 16

/-- The group word of a record (R421); all ones when no group applies. -/
def groupWord (g : Option (Group × Nat)) : Nat :=
  match g with
  | some (g, e) => g.index % 2 ^ 32 + g.core % 256 * 2 ^ 32 + e % 16 * 2 ^ 40
  | none => 2 ^ 64 - 1

/-- The five header words of a fault-queue record (R421). -/
structure FaultRec where
  type : Nat
  code : Nat := 0
  marks : Nat := 0
  group : Option (Group × Nat) := none
  pc : Dword := 0
  addr : Dword := 0
  d0 : Nat := 0
  d1 : Nat := 0
  d2 : Nat := 0

/-- The 64 bytes of a record. -/
def FaultRec.bytes (r : FaultRec) (c tick : Nat) : List Byte :=
  leBytes 8 (r.type + r.code * 2 ^ 8 + r.marks * 2 ^ 16 + c * 2 ^ 32) ++ leBytes 8 tick ++
  leBytes 8 (groupWord r.group) ++ leBytes 8 r.pc.toNat ++ leBytes 8 r.addr.toNat ++
  leBytes 8 r.d0 ++ leBytes 8 r.d1 ++ leBytes 8 r.d2

/-- A record enters the context fault queue, or is counted as dropped (R421). -/
def faultRecord (s : State) (c : Nat) (r : FaultRec) : State :=
  let x := getCtx s c
  let count := 2 ^ x.fqLog
  let wr := physNat s (x.block + 0x30) 4
  let rd := physNat s (x.block + 0x38) 4
  if (wr + 2 ^ 32 - rd) % 2 ^ 32 = count then
    let d := physNat s (x.block + 0x34) 4
    physWrite s (x.block + 0x34) (leBytes 4 (min (d + 1) (2 ^ 32 - 1)))
  else
    let s := physWrite s (x.fqBase + 64 * (wr % count)) (r.bytes c s.tick)
    let s := physWrite s (x.block + 0x30) (leBytes 4 ((wr + 1) % 2 ^ 32))
    if wr = rd then sendMsix s c else s

/-- A record enters Mysko's error log (R449). -/
def errorRecord (s : State) (cls kind unit ctx : Nat) (addr : Dword) (struct : Nat) : State :=
  let r : ErrRec := ⟨BitVec.ofNat 64 s.tick, BitVec.ofNat 64 (cls + kind * 2 ^ 8 + unit * 2 ^ 16 + ctx * 2 ^ 32), addr,
    BitVec.ofNat 64 struct⟩
  setEvent (s.onMysko fun m =>
    if m.log.length < 1024 then { m with log := m.log ++ [r] }
    else { m with log := m.log.drop 1 ++ [r], lost := min (m.lost + 1) (2 ^ 32 - 1) }) 2

/-! ### Virtual addresses and translation (R83 to R91, R415) -/

/-- The owner field and the offset of a virtual address (R83). -/
def vaOwner (a : Dword) : Nat := (a.extractLsb' 53 10).toNat
def vaOffset (a : Dword) : Nat := (a.extractLsb' 0 53).toNat

/-- Whether an address passes the checks of R83 for a context. -/
def vaOk (s : State) (c : Nat) (a : Dword) : Bool :=
  !a.getLsbD 63 && (getCtx s c).members.getLsbD (vaOwner a)

/-- Whether the owner field names this device (R84). -/
def vaLocal (s : State) (a : Dword) : Bool := vaOwner a == s.fabric.index

/-- h(n) of R90. -/
def sliceHash (n : Nat) : Nat :=
  let b (k : Nat) : BitVec 8 := BitVec.ofNat 8 (n >>> (8 * k))
  (b 0 ^^^ b 1 ^^^ b 2 ^^^ b 3 ^^^ b 4 ^^^ BitVec.ofNat 8 ((n >>> 40) % 64)).toNat

/-- Whether an offset lies in the element range of a region. -/
def Region.hasElem (r : Region) (off : Nat) : Bool := r.e ≤ off && off < r.e + r.elen

/-- Whether two byte ranges of one address space overlap. -/
def rangesMeet (a n b m : Nat) : Bool := a < b + m && b < a + n

/-- The home slice of an offset of a context (R90), which for a line that holds element bytes of an MX region is that of its scale line
(R91). -/
def homeSlice (s : State) (c off : Nat) : Nat :=
  let n := off / 128
  let r := ((getCtx s c).regions.filterMap id).find? fun r => r.fmt != 8 && rangesMeet (128 * n) 128 r.e r.elen
  match r with
  | some r =>
    let j := n - r.e / 128
    sliceHash (r.s / 128 + j / (if r.fmt == 0x16 then 16 else 32))
  | none => sliceHash n

/-- A refusal at the owner: the cause of R52 and the marks of R343 as their bit numbers less 16. -/
structure Miss where
  code : Nat
  marks : Nat
  deriving DecidableEq, Repr

/-- What a translation yields. -/
structure Trans where
  base : Nat
  size : Nat
  frame : Nat
  r : Bool
  w : Bool
  x : Bool
  global : Bool
  deriving DecidableEq, Repr

def addrFault : Miss := ⟨0x08, 0⟩
def permFault : Miss := ⟨0x09, 0⟩

/-- What the walk finds at a level of an entry (R415). -/
inductive PteView where
  | table (next : Nat)
  | leaf (t : Trans)
  | bad (firstTouch : Bool)
  deriving DecidableEq, Repr

/-- The view of an entry `p` at `level` for `off`; `limit` is the installed memory. -/
def pteView (limit level off : Nat) (p : Nat) : PteView :=
  let bit (k : Nat) : Bool := p.testBit k
  let kind := bitsNat p 60 2
  let frame := bitsNat p 13 35 * 8192
  let size := if kind = 3 then 2 ^ 27 else if kind = 2 then 2 ^ 20 else 8192
  if !bit 63 then .bad (bit 62)
  else if bitsNat p 48 8 ≠ 0 then .bad false
  else if kind = 0 then
    if level < 3 ∧ frame + 8192 ≤ limit then .table frame else .bad false
  else if (kind = 3 ∧ level ≠ 2) ∨ (kind ≠ 3 ∧ level ≠ 3) then .bad false
  else if frame % size ≠ 0 ∨ limit < frame + size then .bad false
  else .leaf ⟨off / size * size, size, frame, bit 56, bit 57, bit 58, bit 59⟩

/-- The index of a level (R86). -/
def pteIndex (level off : Nat) : Nat := (off >>> (43 - 10 * level)) % 1024

/-- The line through which a walk under a context reads a physical line: the context's line of the table, or its own line of that frame;
another context's line is not seen (R89). -/
def walkLine (s : State) (c f : Nat) : Option L2Line :=
  match s.memory.l2.find? fun l => l.table && l.tag == c && l.frame == f with
  | some l => some l
  | none => s.memory.l2.find? fun l => !l.table && l.frame == f && (l.tag == c || (l.tag == 16 && l.users.contains c))

/-- An entry of a page table as a walk under a context reads it (R87, R89). -/
def walkEntry (s : State) (c a : Nat) : Nat :=
  leValue ((List.range 8).map fun i =>
    match walkLine s c ((a + i) / 128) with
    | some l => l.data.getD ((a + i) % 128) 0
    | none => s.memRead (a + i))

/-- The physical address of the entry that a walk of the levels reads last, and what stands there. -/
def walkFrom (s : State) (c off : Nat) : List Nat → Nat → Nat × PteView
  | [], t => (t, .bad false)
  | level :: rest, t =>
    let a := t + 8 * pteIndex level off
    match pteView (installedBytes s) level off (walkEntry s c a) with
    | .table next => walkFrom s c off rest next
    | v => (a, v)

/-- The table entries that a walk reads. -/
def walkReads (s : State) (c off : Nat) : List Nat → Nat → List Nat
  | [], _ => []
  | level :: rest, t =>
    let a := t + 8 * pteIndex level off
    match pteView (installedBytes s) level off (walkEntry s c a) with
    | .table next => a :: walkReads s c off rest next
    | _ => [a]

/-- The page walk of R86 and R87; a table entry in a fenced frame is refused with the parity mark (R447). -/
def pageWalk (s : State) (c off : Nat) : Except Miss Trans :=
  let root := (getCtx s c).root
  if !s.mysko.badFrames.isEmpty && (walkReads s c off [0, 1, 2, 3] root).any fun a => s.mysko.badFrames.contains (a / 8192) then
    .error ⟨0x08, 2 ^ 8⟩
  else match (walkFrom s c off [0, 1, 2, 3] root).2 with
  | .leaf t => .ok t
  | .bad true => .error ⟨0x08, 1⟩
  | _ => .error addrFault

/-- The range TLB (R87, R416). -/
def rangeHit (s : State) (c off : Nat) : Option Trans :=
  ((s.memory.ranges.filterMap id).find? fun r => r.ctx == c && r.base ≤ off && off < r.limit).map fun r =>
    ⟨r.base, r.limit - r.base, r.frame, r.r, r.w, r.x, r.global⟩

/-- The page TLB of a slice (R87). -/
def tlbHit (s : State) (slice c off : Nat) : Option Trans :=
  (s.memory.tlb.find? fun t => t.slice == slice && t.ctx == c && t.base ≤ off && off < t.base + t.size).map fun t =>
    ⟨t.base, t.size, t.frame, t.r, t.w, t.x, t.global⟩

/-- A page-TLB entry filled, in place of what the TLB held for its page; the slice keeps 8 ways of 128 sets (R87). The set, and that
the oldest entry of a full set leaves, are the model's choice (log entry 84). -/
def tlbFill (s : State) (slice c : Nat) (t : Trans) : State :=
  s.onMemory fun m =>
    let same (x : TlbEntry) : Bool := x.slice == slice && x.base / x.size % 128 == t.base / t.size % 128
    let others := m.tlb.filter fun x => !(x.slice == slice && x.ctx == c && rangesMeet x.base x.size t.base t.size)
    let mine := (others.filter same).take 7
    let rest := others.filter fun x => !same x
    { m with tlb := ⟨slice, c, t.base, t.size, t.frame, t.r, t.w, t.x, t.global⟩ :: (mine ++ rest) }


/-- The permission that an access needs. -/
inductive Need where
  | read | write | both | exec
  deriving DecidableEq, Repr

def Need.met (n : Need) (r w x : Bool) : Bool :=
  match n with
  | .read => r
  | .write => w
  | .both => r && w
  | .exec => x

/-- The physical line of an offset under a translation. -/
def Trans.line (t : Trans) (off : Nat) : Nat := (t.frame + (off - t.base)) / 128

/-- A line written back to its cached frame (R88, R92); a context's line counts in counter 49 (R434). -/
def writeBack (s : State) (l : L2Line) : State :=
  if l.dirty then
    let s := (List.range 128).foldl (fun s i => s.memWrite (128 * l.frame + i) (l.data.getD i 0)) s
    if l.tag < 16 then assayAdd s l.tag 49 128 else s
  else s

/-- The L1 copies of a line gone from every core but `keep` (R94). -/
def l1Drop (s : State) (tag line : Nat) (keep : Option Nat) : State :=
  s.onMemory fun m =>
    { m with l1 := m.l1.filter fun l => !(l.tag == tag && l.line == line && some l.core != keep) }

/-- A recall of an Owned line updates its core's contention predictor (R95). -/
def recallOwned (s : State) (tag line : Nat) (keep : Option Nat) : State :=
  s.memory.l1.foldl (fun s l =>
    if l.tag == tag && l.line == line && l.owned && some l.core != keep && l.atomics < 4 then
      updCore s l.core fun k => { k with predictor := k.predictor.modify (sliceHash line) fun v => min 3 (v + 1) }
    else s) s

/-- Every L1 copy of a line recalled or invalidated, but that of `keep`. -/
def l1Recall (s : State) (tag line : Nat) (keep : Option Nat) : State := l1Drop (recallOwned s tag line keep) tag line keep

/-- Another party's read recalls an Owned line, and leaves Shared copies (R93, R94). -/
def recallForLoad (s : State) (c line : Nat) (keep : Option Nat) : State :=
  let s := recallOwned (recallOwned s c line keep) 16 line keep
  s.onMemory fun m =>
    { m with l1 := m.l1.filter fun l =>
        !((l.tag == c || l.tag == 16) && l.line == line && l.owned && some l.core != keep) }

/-- The line that holds an offset for a context, if the L2 holds it: the context's own tag, or tag 16 for a page that the context
has been found to map globally (R89). -/
def l2Find (s : State) (c off : Nat) : Option L2Line :=
  s.memory.l2.find? fun l => !l.table && l.line == off / 128 && (l.tag == c || (l.tag == 16 && l.users.contains c))

/-- The tag under which the L2 holds a line for a context. -/
def lineTag (s : State) (c line : Nat) : Nat := ((l2Find s c (128 * line)).map (·.tag)).getD c

/-- An access of a party to a line is noted for the 1,024 cycles of R95. -/
def touchLine (s : State) (c line party : Nat) : State :=
  let tag := lineTag s c line
  s.onMemory fun m =>
    { m with homeTouch := (tag, line, party, s.exec.cycle) :: m.homeTouch.filter fun t =>
        s.exec.cycle < t.2.2.2 + 1024 && !(t.1 == tag && t.2.1 == line && t.2.2.1 == party) }

/-- A read of a line at its home by a party that no L1 serves: a core's fetches, copies and polls by its number 0 to 159, device 160 and
above, or the host (R93 to R95). -/
def homeRead (s : State) (c line party : Nat) : State := touchLine (recallForLoad s c line none) c line party

/-- The party number of the host. -/
def hostParty : Nat := 4096

/-- A line evicted from L2: the L1 copies are recalled first, then a dirty line is written back (R92). -/
def l2Evict (s : State) (tag line : Nat) : State :=
  match s.memory.l2.find? fun l => !l.table && l.tag == tag && l.line == line with
  | none => s
  | some l =>
    let s := writeBack (l1Recall s tag line none) l
    s.onMemory fun m => { m with l2 := m.l2.filter fun x => x.table || !(x.tag == tag && x.line == line) }

/-- The slice of a line: that of its offset for the context that filled it, or for a line of a page table that of its physical line number
(log entry 85). -/
def L2Line.slice (s : State) (l : L2Line) : Nat :=
  if l.table then sliceHash l.line else homeSlice s (if l.tag < 16 then l.tag else l.users.getLastD 0) (128 * l.line)

/-- The slice of a line that an L1 holds. -/
def lineSlice (s : State) (tag line : Nat) : Nat :=
  match s.memory.l2.find? fun l => !l.table && l.tag == tag && l.line == line with
  | some l => l.slice s
  | none => homeSlice s tag (128 * line)

/-- The lines of a slice, newest first. -/
def sliceCount (s : State) (slice : Nat) : List L2Line := s.memory.l2.filter fun l => l.slice s == slice

/-- The lines that a slice holds: fewer once data ways of it have been fenced (R13, R447). -/
def sliceCapacity (s : State) (slice : Nat) : Nat :=
  let ways := s.mysko.fencedUnits.filter fun u => u.1 == 2 && u.2 / 65536 == slice
  if ways.isEmpty then Config.sliceLines else Config.sliceLines - ways.length * Config.wayLines

/-- A line leaves the L2 to make room. A line of a page table is never dirty. -/
def l2Leave (s : State) (l : L2Line) : State :=
  if l.table then s.onMemory fun m => { m with l2 := m.l2.filter fun x => !(x.table && x.tag == l.tag && x.line == l.line) }
  else l2Evict s l.tag l.line

/-- Room for one more line in a slice (R92): a full slice evicts its oldest fill first, the model's choice (log entry 84). -/
def l2Room (s : State) (slice : Nat) : State :=
  (((sliceCount s slice).drop (sliceCapacity s slice - 1)).reverse).foldl l2Leave s

/-- The 128 bytes of a physical line in memory. -/
def memLine (s : State) (f : Nat) : List Byte := (List.range 128).map fun i => s.memRead (128 * f + i)

/-- A line filled under a translation (R88, R89). A store that covers the whole line does not read HBM, so nothing is counted (R92). -/
def l2Fill (s : State) (c off : Nat) (t : Trans) (whole : Bool) : State × L2Line :=
  let s := l2Room s (homeSlice s c off)
  let tag := if t.global then 16 else c
  let f := t.line off
  let l : L2Line := ⟨tag, off / 128, f, t.r, t.w, t.x, false, memLine s f, [c], false⟩
  let s := if tag < 16 && !whole then assayAdd s c 48 128 else s
  (s.onMemory fun m => { m with l2 := l :: m.l2 }, l)

/-- A line of a page table filled under the context of a walk, with its reading of HBM counted (R87, R89, R434). -/
def tableFill (s : State) (c f : Nat) : State :=
  if (walkLine s c f).isSome then s
  else
    let s := l2Room (assayAdd s c 48 128) (sliceHash f)
    let l : L2Line := ⟨c, f, f, false, false, false, false, memLine s f, [], true⟩
    s.onMemory fun m => { m with l2 := l :: m.l2 }

/-- The table lines that a walk reads are filled in L2 (R87). -/
def walkLines (s : State) (c off : Nat) : State :=
  (walkReads s c off [0, 1, 2, 3] (getCtx s c).root).foldl (fun s a => tableFill s c (a / 128)) s

/-- A translation by the range TLB, or else by a walk that fills the page TLB (R87). -/
def translateAnew (s : State) (c off : Nat) : Except Miss (State × Trans) :=
  match rangeHit s c off with
  | some t => .ok (s, t)
  | none =>
    match pageWalk s c off with
    | .ok t => .ok (tlbFill (walkLines s c off) (homeSlice s c off) c t, t)
    | .error e => .error e

/-- Translation at the owner (R87): range TLB, then page TLB, then a walk that fills the page TLB. -/
def translate (s : State) (c off : Nat) : Except Miss (State × Trans) :=
  match rangeHit s c off, tlbHit s (homeSlice s c off) c off with
  | none, some t => .ok (s, t)
  | _, _ => translateAnew s c off

/-- What a walk leaves, whether it ends in a translation or in none: the table lines that it read, and the page-TLB entry of a
translation (R87). -/
def walked (s : State) (c off : Nat) : State :=
  match translateAnew s c off with
  | .ok (t, _) => t
  | .error _ => walkLines s c off

/-- What a refused access leaves of its translation: the walk that found no entry; or, behind a translation that does not permit it, the
one that is made once more (R87, R88, R434). -/
def refusedWalk (s : State) (c : Nat) (a : Dword) : State :=
  let off := vaOffset a
  if !vaOk s c a || !vaLocal s a then s
  else if (l2Find s c off).isSome then walked s c off
  else match translate s c off with
    | .ok (t, _) => walked t c off
    | .error _ => walkLines s c off

/-- A line changed in the L2. -/
def l2Upd (s : State) (l : L2Line) (f : L2Line → L2Line) : State :=
  s.onMemory fun m => { m with l2 := m.l2.map fun y => if !y.table && y.tag == l.tag && y.line == l.line then f y else y }

/-- A line made present under a translation: one of tag 16 that other contexts have brought in serves this one too (R89). -/
def l2Enter (s : State) (c off : Nat) (t : Trans) (whole : Bool) : State × L2Line :=
  if t.global then
    match s.memory.l2.find? fun l => !l.table && l.tag == 16 && l.line == off / 128 with
    | some l =>
      if l.frame == t.line off then
        let f (y : L2Line) : L2Line := { y with users := c :: y.users, r := t.r, w := t.w, x := t.x }
        (l2Upd s l f, f l)
      else l2Fill (l2Evict s 16 (off / 128)) c off t whole
    | none => l2Fill s c off t whole
  else l2Fill s c off t whole

/-- The line of an offset made present with the permission needed (R88): a hit is checked against the cached permissions, a miss
translates and fills, and a failed check translates once more, past the page TLB, so that a wider permission takes effect. -/
def l2EnsureFor (s : State) (c off : Nat) (need : Need) (whole : Bool) : Except Miss (State × L2Line) :=
  match l2Find s c off with
  | some l =>
    if need.met l.r l.w l.x then .ok (s, l)
    else
      match translateAnew s c off with
      | .error _ => .error permFault
      | .ok (s, t) =>
        if need.met t.r t.w t.x then
          let f (y : L2Line) : L2Line := { y with r := t.r, w := t.w, x := t.x }
          .ok (l2Upd s l f, f l)
        else .error permFault
  | none =>
    let first := translate s c off
    let again := match first with
      | .ok (u, t) => if need.met t.r t.w t.x then first else translateAnew u c off
      | .error _ => first
    match again with
    | .error e => .error e
    | .ok (s, t) =>
      if !need.met t.r t.w t.x then .error permFault
      else if s.mysko.badFrames.contains (t.line off / 64) then .error ⟨0x08, 2 ^ 8⟩
      else .ok (l2Enter s c off t whole)

/-- The line of an offset made present for an access that does not cover it whole. -/
def l2Ensure (s : State) (c off : Nat) (need : Need) : Except Miss (State × L2Line) := l2EnsureFor s c off need false

/-- A byte of a context's space, read at its home. -/
def loadByte (s : State) (c off : Nat) : Except Miss (State × Byte) :=
  match l2Ensure s c off .read with
  | .ok (s, l) => .ok (s, l.data.getD (off % 128) 0)
  | .error e => .error e

/-- A byte written at its home (R111): the line becomes dirty. A context's line of a page table of the same frame leaves, so that its later
walks read what was written (log entry 85). -/
def storeByte (s : State) (c off : Nat) (b : Byte) : Except Miss State :=
  match l2Ensure s c off .write with
  | .ok (s, l) =>
    let s := l2Upd s l fun y => { y with dirty := true, data := y.data.set (off % 128) b }
    .ok (s.onMemory fun m => { m with l2 := m.l2.filter fun y => !(y.table && y.frame == l.frame && (y.tag == c || l.users.contains y.tag)) })
  | .error e => .error e

/-- `n` bytes from an offset. -/
def loadBytes (s : State) (c : Nat) : Nat → Nat → Except Miss (State × List Byte)
  | _, 0 => .ok (s, [])
  | off, n + 1 =>
    match loadByte s c off with
    | .error e => .error e
    | .ok (s, b) =>
      match loadBytes s c (off + 1) n with
      | .error e => .error e
      | .ok (s, bs) => .ok (s, b :: bs)

/-- Whether every byte of a range is writable at its home, with the lines made present; `whole` lines are covered by the store. -/
def canWrite (s : State) (c : Nat) (whole : Nat → Bool) : Nat → Nat → Except Miss State
  | _, 0 => .ok s
  | off, n + 1 =>
    match l2EnsureFor s c off .write (whole (off / 128)) with
    | .error e => .error e
    | .ok (s, _) => canWrite s c whole (off + 1) n

/-- Bytes written from an offset, each at its home. -/
def storeBytesAux (s : State) (c : Nat) : Nat → List Byte → Except Miss State
  | _, [] => .ok s
  | off, b :: bs =>
    match storeByte s c off b with
    | .error e => .error e
    | .ok s => storeBytesAux s c (off + 1) bs

/-- Bytes written from an offset; nothing is written when one of them is refused. A line that they cover whole is not read (R92). -/
def storeBytes (s : State) (c off : Nat) (bs : List Byte) : Except Miss State :=
  match canWrite s c (fun line => off ≤ 128 * line && 128 * line + 128 ≤ off + bs.length) off bs.length with
  | .error e => .error e
  | .ok s => storeBytesAux s c off bs

/-- The L1 lines of a range invalidated or recalled before a store or atomic at the home (R94). -/
def snoop (s : State) (c off n : Nat) (keep : Option Nat) : State :=
  let one (s : State) (line : Nat) : State := l1Recall (l1Recall s c line keep) 16 line keep
  let s := one s (off / 128)
  if (off + n - 1) / 128 = off / 128 then s else one s ((off + n - 1) / 128)

/-- The lines that `n` bytes from an offset touch. -/
def linesOf (off n : Nat) : List Nat := [off / 128, (off + n - 1) / 128].eraseDups

/-- Bytes of at most two lines written at their home by a party: every L1 copy of their lines goes first (R94, R95). -/
def homeStore (s : State) (c off : Nat) (bs : List Byte) (party : Nat) : Except Miss State :=
  match canWrite s c (fun line => off ≤ 128 * line && 128 * line + 128 ≤ off + bs.length) off bs.length with
  | .error e => .error e
  | .ok s =>
    match storeBytes (snoop s c off bs.length none) c off bs with
    | .error e => .error e
    | .ok s => .ok ((linesOf off bs.length).foldl (fun s line => touchLine s c line party) s)

/-- The party number of the slices' own reads and writes of an ordinal array. -/
def sliceParty : Nat := hostParty + 2

/-! ### Scratchpad and cluster memory (R77 to R82) -/

/-- The swizzle of R79. -/
def swizzle (mode a : Nat) : Nat :=
  let x (lo w hi : Nat) : Nat :=
    let f := bitsNat a lo w
    a - f * 2 ^ lo + (f ^^^ bitsNat a hi w) * 2 ^ lo
  match mode with
  | 1 => x 4 3 8
  | 2 => x 2 5 8
  | 3 => x 2 6 8
  | _ => a

/-- The owner of a pair's allocation. -/
def Pair.owner (p : Pair) : PlaceSrc :=
  match p.cohort with
  | some c => .cohort c
  | none => .pair p.id

/-- The allocation of an owner on a core (R77). -/
def findAlloc (s : State) (core : Nat) (o : PlaceSrc) : Option Alloc :=
  s.exec.allocs.find? fun a => a.core == core && a.owner == o

/-- The size of an owner's allocation on a core; 0 where it has none. -/
def allocSize (s : State) (core : Nat) (o : PlaceSrc) : Nat :=
  match findAlloc s core o with
  | some a => a.size
  | none => 0

/-- A byte of an allocation, by physical offset (R77: undefined until written). -/
def Alloc.read (a : Alloc) (p : Nat) : Byte :=
  match a.cells.find? fun c => c.1 == p with
  | some c => c.2
  | none => Config.scratchByte a.epoch p

/-- A byte put into a list kept by rising address. -/
def cellPut : List Host.Cell → Nat → Byte → List Host.Cell
  | [], a, b => [(a, b)]
  | (k, v) :: t, a, b =>
    if a < k then (a, b) :: (k, v) :: t else if a = k then (a, b) :: t else (k, v) :: cellPut t a b

/-- Whether `n` bytes at a program offset lie inside an allocation (R77). -/
def spadIn (s : State) (core : Nat) (o : PlaceSrc) (a : Int) (n : Nat) : Bool :=
  0 ≤ a && a + n ≤ (allocSize s core o : Int)

/-- Bytes of scratchpad at program offsets `a` to `a + n − 1` under a mode. -/
def spadRead (s : State) (core : Nat) (o : PlaceSrc) (mode a n : Nat) : List Byte :=
  match findAlloc s core o with
  | some al => (List.range n).map fun i => al.read (swizzle mode (a + i))
  | none => List.replicate n 0

/-- Bytes of scratchpad written at program offsets from `a` under a mode. -/
def spadWrite (s : State) (core : Nat) (o : PlaceSrc) (mode a : Nat) (bs : List Byte) : State :=
  let put (cells : List Host.Cell) : List Host.Cell :=
    ((List.range bs.length).zip bs).foldl (fun cs x => cellPut cs (swizzle mode (a + x.1)) x.2) cells
  s.onExec fun e =>
    { e with allocs := e.allocs.map fun al =>
        if al.core == core && al.owner == o then { al with cells := put al.cells } else al }

/-- Bytes of scratchpad that an engine writes, in the image of a saved cohort too (R49, R413). -/
def spadPut (s : State) (k : Nat) (own : PlaceSrc) (mode off : Nat) (bs : List Byte) : State :=
  let t := spadWrite s k own mode off bs
  match (findAlloc s k own).bind (·.away) with
  | some (b + 1) => ((List.range bs.length).zip bs).foldl (fun t x => physWriteByte t (b + 1 + swizzle mode (off + x.1)) x.2) t
  | _ => t

/-- A byte of scratchpad that an engine reads, from the image of a saved cohort. -/
def spadByte (s : State) (k : Nat) (own : PlaceSrc) (mode off : Nat) : Byte :=
  match (findAlloc s k own).bind (·.away) with
  | some (b + 1) => physByte s (b + 1 + swizzle mode off)
  | _ => (spadRead s k own mode off 1).headD 0

/-- The core that a cluster address names for a core (R82). -/
def clusterCore (core a : Nat) : Nat := core / 4 * 4 + bitsNat a 19 2

/-! ### Program counters (R193) -/

/-- The slot that follows a PC. -/
def nextPc (pc : Dword) : Dword := if (pc.extractLsb' 0 3).toNat < 4 then pc + 1 else pc + 60

/-- Whether a PC has a legal form. -/
def pcOk (pc : Dword) : Bool := (pc.extractLsb' 0 3).toNat ≤ 4 && pc.extractLsb' 3 3 == 0

/-- The line address of a PC. -/
def pcLine (pc : Dword) : Dword := pc &&& ~~~63#64

/-- A fetch line of a core for a context (R85): the instruction cache of 2,048 lines (R9), or L2 with execute permission. From a full
cache the line fetched longest ago leaves, the model's choice (log entry 84). -/
def fetchLine (s : State) (core c : Nat) (line : Dword) : Except Miss (State × List Byte) :=
  if !vaLocal s line then .error ⟨0x0F, 0⟩
  else if line.getLsbD 63 then .error addrFault
  else
    match s.memory.icache.find? fun l => l.core == core && l.ctx == c && l.addr == line.toNat with
    | some l => .ok (s, l.data)
    | none =>
      let off := vaOffset line
      match l2Ensure s c off .exec with
      | .error e => .error e
      | .ok (s, l) =>
        let d := (l.data.drop (off % 128)).take 64
        .ok ((homeRead s c (off / 128) core).onMemory fun m =>
          let mine := (m.icache.filter fun x => x.core == core).take 2047
          let rest := m.icache.filter fun x => x.core != core
          { m with icache := ⟨core, c, line.toNat, d⟩ :: (mine ++ rest) }, d)

/-- The line word of a fetch line (R190, R191). -/
def lineWord (d : List Byte) : Nat := leValue (d.drop 60)

/-- Whether a PC's slot is marked as a target (R194). -/
def targetMarked (d : List Byte) (pc : Dword) : Bool := (lineWord d).testBit (27 + (pc.extractLsb' 0 3).toNat)

/-! ### Outstanding counters (R115) -/

def Counters.get (c : Counters) : OcClass → Nat
  | .copy => c.copy
  | .fab => c.fab
  | .atom => c.atom
  | .mx => c.mx
  | .ctl => c.ctl

def Counters.upd (c : Counters) (f : Nat → Nat) : OcClass → Counters
  | .copy => { c with copy := f c.copy }
  | .fab => { c with fab := f c.fab }
  | .atom => { c with atom := f c.atom }
  | .mx => { c with mx := f c.mx }
  | .ctl => { c with ctl := f c.ctl }

/-- The scheduling state of a unit. -/
def schedOf (s : State) (core unit : Nat) : UnitSched :=
  (s.exec.scheds.find? fun u => u.core == core && u.unit == unit).getD ⟨core, unit, 0, 0, 0, none, none, false, 0⟩

def updSched (s : State) (core unit : Nat) (f : UnitSched → UnitSched) : State :=
  s.onExec fun e =>
    { e with scheds := (e.scheds.filter fun u => !(u.core == core && u.unit == unit)) ++ [f (schedOf s core unit)] }

/-- A counter of a group raised at an issue. -/
def ocRaise (s : State) (gid : Nat) (c : OcClass) : State :=
  updGroup s gid fun g => { g with oc := g.oc.upd (· + 1) c }

/-- A counter of a group lowered at a completion. -/
def ocLower (s : State) (gid : Nat) (c : OcClass) : State :=
  updGroup s gid fun g => { g with oc := g.oc.upd (· - 1) c }

/-! ### Leaving circles, ending groups -/

/-- At most `n` phases of a circle that have completed are closed: a phase completes when every member counted in it has gone past
it (R28, R297). A phase in which no member is counted stays open until a member has arrived past it, the model's choice
(log entry 86). -/
def Circle.advance : Nat → Circle → Circle
  | 0, c => c
  | n + 1, c =>
    if c.members.any (fun m => c.phase < m.2.2 && m.2.1 < m.2.2) ∧
       c.members.all (fun m => !(m.2.1 ≤ c.phase) || decide (c.phase < m.2.2)) then
      Circle.advance n { c with phase := c.phase + 1 }
    else c

/-- Every phase of a circle that has completed is closed: no phase completes that no member has gone past. -/
def Circle.settle (c : Circle) : Circle := c.advance ((c.members.map fun m => m.2.2).foldl max 0 - c.phase)

/-- Whether an operation is a member's arrival at a circle that earlier accesses hold back (R121). -/
def Op.arrives (o : Op) (gid : Nat) (key : Word) : Bool :=
  o.gid == gid && o.pieces == [] && match o.kind with
    | .carrive k => k == key
    | _ => false

/-- The number that a member which has left keeps at its circle until the arrival of an operation has been counted. -/
def lateMember (id : Nat) : Nat := 2 ^ 96 + id

/-- The members of a circle that have not left it. -/
def Circle.present (c : Circle) : List (Nat × Nat × Nat) := c.members.filter fun m => m.1 < 2 ^ 96

/-- Members that have left, and whose last arrival has been counted or discarded, are gone; a circle that every member has left
dissolves (R27). -/
def lateGone (s : State) : State :=
  s.onExec fun e =>
    { e with circles := (e.circles.map fun x =>
        let kept := x.members.filter fun m => m.1 < 2 ^ 96 || e.ops.any fun o => o.pieces == [m.1]
        if kept.length = x.members.length then x else Circle.settle { x with members := kept }).filter fun x => x.present != [] }

/-- A member leaves a circle (R27, R28). An arrival that it has made and that earlier accesses hold back stands: until it is counted, the
member stays in the phases up to it under a number of its own. -/
def circleLeave (s : State) (gid c : Nat) (key : Word) : State :=
  let at_ (x : Circle) : Bool := x.ctx == c && x.key == key
  let s := match s.exec.ops.find? fun o => o.arrives gid key with
    | none => s.onExec fun e =>
        { e with circles := e.circles.map fun x =>
            if at_ x then Circle.settle { x with members := x.members.filter fun m => m.1 != gid } else x }
    | some o => s.onExec fun e =>
        let late := lateMember o.id
        { e with
          ops := e.ops.map fun y => if y.arrives gid key then { y with pieces := [late] } else y
          circles := e.circles.map fun x =>
            if at_ x then { x with members := x.members.map fun m => if m.1 == gid then (late, m.2.1, m.2.2) else m } else x }
  updGroup (lateGone s) gid fun g => { g with circles := g.circles.filter fun k => k.1 != key }

/-- A group leaves every circle it belongs to (R28, R235). -/
def leaveCircles (s : State) (gid : Nat) : State :=
  match findGroup s gid with
  | some g => g.circles.foldl (fun s k => circleLeave s gid g.ctx k.1) s
  | none => s

/-- The queue of a pair changed. -/
def updQueue (s : State) (pair q : Nat) (f : Queue → Queue) : State :=
  updPair s pair fun p => { p with queues := p.queues.modify q f, idle := 0 }

/-- The Press stream of a context ends (R50, R53): a Press-orphan record of type 0x02 enters the fault queue. -/
def pressOrphan (s : State) (core num : Nat) : State :=
  match findPress s core num with
  | none => s
  | some p =>
    let s := updPress s core num fun p => { p with st := .ended, cause := none, taken := none }
    match findCohort s p.cohort with
    | some c => faultRecord s c.ctx { type := 0x02, pc := p.pc, d0 := c.number }
    | none => s

/-! ### What an operation touches and whether it is performed (R97 to R107, R115, R126) -/

/-- Whether an operation is a direct access of its group (R115). -/
def OpKind.direct : OpKind → Bool
  | .load .. => true
  | .store _ => true
  | .atomic .. => true
  | .grld .. => true
  | .nmop _ => true
  | .sigdec _ => true
  | .spadLoad .. => true
  | .spadT .. => true
  | .spadStore .. => true
  | .publish => true
  | _ => false

/-- Whether an operation reads (R107: loads and atomics; SIGDEC is an atomic by R298). -/
def OpKind.reads : OpKind → Bool
  | .load .. => true
  | .atomic .. => true
  | .grld .. => true
  | .nmop _ => true
  | .sigdec _ => true
  | .spadLoad .. => true
  | .spadT .. => true
  | _ => false

/-- Whether an operation writes (R107: stores and atomics). -/
def OpKind.writes : OpKind → Bool
  | .store _ => true
  | .atomic .. => true
  | .nmop _ => true
  | .sigdec _ => true
  | .spadStore .. => true
  | .publish => true
  | _ => false

/-- Whether an operation touches scratchpad only. -/
def OpKind.spad : OpKind → Bool
  | .spadLoad .. => true
  | .spadT .. => true
  | .spadStore .. => true
  | .publish => true
  | _ => false

/-- The bytes of a lane of an operation, where one width tells them (R98). -/
def OpKind.laneBytes : OpKind → Option Nat
  | .load w _ _ => some (2 ^ w)
  | .store w => some (2 ^ w)
  | .atomic _ _ w _ => some (2 ^ w)
  | .sigdec _ => some 8
  | _ => none

/-- Whether a fault of the operation is lane-wise (R51): a lane access of a 64-lane instruction. -/
def OpKind.lanewise : OpKind → Bool
  | .load .. => true
  | .store _ => true
  | .atomic .. => true
  | .grld .. => true
  | .rgetQueue _ => true
  | _ => false

/-- A store of STQ that the store unit has not formed yet (R67). -/
def Op.unpaired (o : Op) : Bool :=
  match o.kind, o.dst with
  | .store _, .port _ _ => true
  | _, _ => false

/-- The lanes of an operation that are not performed yet. -/
def Op.pend (o : Op) : Mask := o.todo ||| o.faulted

/-- Whether an operation has been performed: nothing of it is still to come. -/
def opPerformed (s : State) (id : Nat) : Bool :=
  match findOp s id with
  | none => true
  | some o => o.pend == 0

/-- The separate accesses that make up one of `n` bytes: bytes when it is misaligned (R98, R274), words in scratchpad, else one. -/
def unitsOf (spad : Bool) (a : Dword) (n : Nat) : List (Dword × Nat) :=
  if a.toNat % n ≠ 0 then (List.range n).map fun j => (a + BitVec.ofNat 64 j, 1)
  else if spad && n == 8 then [(a, 4), (a + 4, 4)]
  else [(a, n)]

/-- The elements of a lane, each as the separate accesses that it is made of: the row elements of a GRLD (R281), the rows of a
transposed load (R285), and otherwise one. -/
def Op.elems (o : Op) (i : Nat) : List (List (Dword × Nat)) :=
  let a := o.addrs.get i
  match o.kind with
  | .grld fmt pitch n list =>
    (list.take n).map fun e => unitsOf false (a + BitVec.ofNat 64 (e.toNat % 2 ^ 32 * pitch)) ((grldBytes fmt).getD 4)
  | .spadLoad _ _ n _ _ => [unitsOf true a n]
  | .spadStore _ _ n => [unitsOf true a n]
  | .spadT _ n pitch out => (List.range (out / n)).map fun j => unitsOf true (a + BitVec.ofNat 64 (j * pitch)) n
  | .publish => [[(a, 8)]]
  | k =>
    match k.laneBytes with
    | some n => [unitsOf false a n]
    | none => [[(a, 1)]]

/-- The separate accesses of a lane. -/
def Op.units (o : Op) (i : Nat) : List (Dword × Nat) := (o.elems i).flatten

/-- The accesses of a lane that are not performed, with their numbers. -/
def Op.unitsLeft (o : Op) (i : Nat) : List (Nat × Dword × Nat) :=
  ((List.range (o.units i).length).zip (o.units i)).filter fun u => !(o.parts.any fun p => p.1 == i && p.2.1 == u.1)

/-- The address of byte `i` of a copy in global memory (R299). -/
def CopyDesc.globalAt (d : CopyDesc) (i : Nat) : Dword :=
  d.g + BitVec.ofInt 64 (((i / d.rb : Nat) : Int) * d.gp + ((i % d.rb : Nat) : Int))

/-- The bytes of a copy that are refused (R300). -/
def Op.refusedBytes (o : Op) : List Nat := o.parts.filterMap fun p => if p.2.1 == 1 then some p.1 else none

/-- The lines of an operation's faulted accesses: lanes, contributions of a Crucible operation, bytes of a copy. -/
def Op.faultedLines (o : Op) : List Nat :=
  match o.kind with
  | .crux _ _ _ _ cs => (cs.filter fun x => x.st = .refused).map fun x => x.addr.toNat / 128
  | .copy d => if d.kind = 2 then [] else o.refusedBytes.map fun i => (d.globalAt i).toNat / 128
  | k =>
    if !k.direct || k.spad then []
    else ((List.range 64).filter fun i => o.faulted.getLsbD i).flatMap fun i => (o.unitsLeft i).map fun u => u.2.1.toNat / 128

/-- The earlier access of the same group whose fault holds an address's line back at its home (R126). -/
def lineHolder (s : State) (o : Op) (a : Dword) : Option Op :=
  (s.exec.ops.takeWhile fun x => x.id != o.id).find? fun x => x.gid == o.gid && x.faultedLines.contains (a.toNat / 128)

/-- The lanes of an operation that wait at their home behind an earlier faulted access of its group. -/
def heldLanes (s : State) (o : Op) : Mask :=
  if !o.kind.direct || o.kind.spad then 0
  else maskOf fun i => o.todo.getLsbD i && (o.unitsLeft i).any fun u => (lineHolder s o u.2.1).isSome

/-- Lanes of an operation that wait behind a faulted access, or that its owner has rejected, join the replay record of the path whose
access faulted, and raise no cause of their own (R126, R184). -/
def joinReplay (s : State) (id : Nat) (lanes : Mask) (entry : Nat) : State :=
  updOp s id fun o =>
    { o with todo := o.todo &&& ~~~lanes, faulted := o.faulted ||| lanes, told := true, replay := true, entry := entry }

/-- Whether nothing of an operation is still to come. -/
def Op.over (o : Op) : Bool := o.todo == 0 && o.faulted == 0 && o.dst == .none

/-- The operations of a class that are over leave from the front of a group's issue order, and are counted (R115). -/
def settleClass (s : State) (gid : Nat) (c : OcClass) : State :=
  let mine := s.exec.ops.filter fun o => o.gid == gid && o.cls == some c
  (mine.takeWhile Op.over).foldl (fun s o => ocLower (dropOp s o.id) gid c) s

/-- An operation leaves once it is over: at once when nothing counts it, in issue order otherwise. -/
def finishOp (s : State) (id : Nat) : State :=
  match findOp s id with
  | none => s
  | some o =>
    if !o.over then s
    else match o.cls with
      | none => dropOp s id
      | some c => settleClass s o.gid c

/-- Every class of a group settled. -/
def settleAll (s : State) (gid : Nat) : State :=
  [OcClass.copy, .fab, .atom, .mx, .ctl].foldl (fun s c => settleClass s gid c) s

/-- What is left of an operation whose faulted part is discarded (R66, R184): contributions that a Crucible has accepted
stay, and nothing of any other operation with faults does. -/
def Op.withoutFaults (o : Op) : Option Op :=
  if o.faulted = 0 ∨ o.dormant then some o
  else match o.kind with
    | .crux a b c d cs =>
      if cs.any fun x => x.st ≠ .refused ∧ x.st ≠ .done then
        some { o with faulted := 0, told := false, replay := false,
                      kind := .crux a b c d (cs.map fun x => if x.st = .refused then { x with st := .done } else x) }
      else none
    | _ => none

/-- Operations discarded: their counts fall, and they leave the scoreboard (R327). -/
def discardOps (s : State) (gone : List Op) : State :=
  let s := gone.foldl (fun s o => match o.cls with
    | some c => ocLower s o.gid c
    | none => s) s
  s.onExec fun e =>
    { e with ops := e.ops.filter fun o => !(gone.any fun x => x.id == o.id),
             score := e.score.filter fun x => !(gone.any fun o => o.id == x.id) }

/-- The faulted operations of a group that a test picks are discarded, with their counts (R66, R184). -/
def discardFaulted (s : State) (gid : Nat) (p : Op → Bool) : State :=
  let s := discardOps s (s.exec.ops.filter fun o => o.gid == gid && p o && o.withoutFaults.isNone)
  let s := s.onExec fun e =>
    { e with ops := e.ops.filterMap fun o => if o.gid == gid && p o then o.withoutFaults else some o }
  settleAll s gid

/-- The operations of a group that a release or a fence orders behind one of `ids`, directly or through one another: the list of
operations stands in issue order. -/
def releasedBehind (s : State) (gid : Nat) (ids : List Nat) : List Nat :=
  (s.exec.ops.filter fun o => o.gid == gid).foldl (fun acc o => if o.rel.any fun r => acc.contains r.1 then acc ++ [o.id] else acc) ids

/-- What of an operation waits at its home behind an earlier faulted access of its group is refused with it: lanes, contributions of a
Crucible operation, bytes of a copy (R126). -/
def refuseHeld (s : State) (o : Op) : State :=
  match o.kind with
  | .crux a b c d cs =>
    if o.remote == 0 && cs.any fun x => x.st = .sent ∧ (lineHolder s o x.addr).isSome then
      updOp s o.id fun o =>
        { o with kind := .crux a b c d (cs.map fun x => if x.st = .sent ∧ (lineHolder s o x.addr).isSome then { x with st := .refused } else x),
                 faulted := 1, told := true, replay := true }
    else s
  | .copy d =>
    if d.kind = 2 ∨ o.remote ≠ 0 ∨ o.todo = 0 then s
    else
      let held := (List.range (d.rows * d.rb)).filter fun i =>
        !o.pieces.contains i && !(o.parts.any fun p => p.1 == i && (p.2.1 == 1 || d.kind == 0)) && (lineHolder s o (d.globalAt i)).isSome
      updOp s o.id fun o => { o with parts := (o.parts.filter fun p => !held.contains p.1) ++ held.map fun i => (i, 1, 0) }
  | _ =>
    let m := heldLanes s o
    if m == 0 then s else joinReplay s o.id m o.entry

/-- The faulted accesses of a group that has ended are discarded (R50, R184), with the accesses that wait on their lines (R126) and
every release, and every access behind a fence, that they or its poisoned lanes leave unperformed (R110). -/
def discardEnded (s : State) (gid : Nat) (p : Op → Bool) : State :=
  let s := (s.exec.ops.filter fun o => o.gid == gid).foldl refuseHeld s
  let hurt := s.exec.ops.filter fun o => o.gid == gid && o.faulted != 0 && (p o || (o.told && o.replay) || o.dormant)
  let bad := (hurt.filter fun o => !o.dormant).map (·.id)
  let all := releasedBehind s gid (hurt.map (·.id))
  let s := discardOps s (s.exec.ops.filter fun o => o.gid == gid && all.contains o.id && !bad.contains o.id)
  discardFaulted s gid fun o => bad.contains o.id

/-- Whether what is pending for a path is a cause delivered from the Press, which it has not taken (R53). -/
def pressPending (x : Nat × List Cause) : Bool :=
  match x.2 with
  | c :: _ => c.cls == 3
  | [] => false

/-- A group has ended: it leaves its circles, its held lanes are discarded (R66), and with it, where it ends in a handler or for the want
of one, its faulted accesses (R184); its other operations complete into memory (R23), and a Press stream whose cause it took ends
(R53). A group that ends in supervisor stays marked so. -/
def groupEnd (s : State) (gid : Nat) : State :=
  match findGroup s gid with
  | none => s
  | some g =>
    let held (o : Op) : Bool := match o.dst with
      | .port q id => ((findPair s g.pair).map fun p => (p.queues[q]?).any fun x => x.entries.any fun e => e.id == id && e.held).getD false
      | _ => false
    let s := leaveCircles s gid
    let s := lateGone (if g.sup.isSome then discardEnded s gid fun _ => true else discardFaulted s gid held)
    let s := s.onExec fun e =>
      { e with ops := e.ops.map fun o => if o.gid == gid then { o with orphan := true } else o }
    let s := updPair s g.pair fun p =>
      let p : Pair := { p with idle := 0 }
      if g.stream = .access then
        { p with queues := p.queues.map fun q =>
            { q with entries := q.entries.map fun e => if e.held then { e with st := .poisoned, held := false } else e } }
      else p
    let s := match g.pressCause with
      | some (c, k) =>
        if g.pending.any pressPending then updPress s c k fun p => { p with taken := none } else pressOrphan s c k
      | none => s
    updGroup s gid fun g =>
      { g with exited := true, paths := g.paths.map (fun _ => Path.empty), pending := [], pressCause := none,
               poison := none, holdAll := [], fenceAll := [], fenceStores := [], fenceLoads := [] }

/-! ### Taking a trap (R51, R52, R339, R343, R420) -/

/-- TRCAUSE of a cause, of its marks and of the number of further causing instructions (R343). -/
def causeWord (c : Cause) (more : Nat) (further : Bool) : Dword :=
  let marks := c.marks % 2 ^ 15 + (if further then 2 ^ 15 else 0)
  BitVec.ofNat 64 (c.code + c.cls * 2 ^ 8 + min more 63 * 2 ^ 10 + marks * 2 ^ 16 + c.detail % 2 ^ 16 * 2 ^ 32)

/-- The handler entry of a stream (R410, R420), as HVEC returns it. -/
def handlerEntry (s : State) (c : Nat) (st : Stream) : Dword :=
  BitVec.ofNat 64 (physNat s ((getCtx s c).block + (if st = .access then 0x18 else 0x20)) 8)

/-- The trap registers of a list of causes: the first decides cause and class, and TRPC0 to TRPC3 hold the first
four causing PCs of a boundary trap (R51, R343). -/
def trapRegs (causes : List Cause) (saved : Dword) (exec : Mask) (old : TrapRegs) : TrapRegs :=
  let c := causes.headD ⟨0, 0, 0, 0, 0, 0, 0, false⟩
  let pcs := if c.cls = 1 then causes.map (·.pc) else []
  { cause := causeWord c (causes.length - 4) (1 < causes.length), epc := saved, addr := c.addr, lanes := c.lanes,
    pc0 := pcs.getD 0 0, pc1 := pcs.getD 1 0, pc2 := pcs.getD 2 0, pc3 := pcs.getD 3 0, exec := exec, mapst := old.mapst }

/-- The queue and the entry of a pair that a poison record belongs to (R65). -/
def Pair.recorded (p : Pair) (k : Nat) : Option (Nat × Nat) :=
  (List.range p.queues.length).findSome? fun q =>
    (((p.queues[q]?).bind fun x => x.entries.find? fun e => e.record == some k).map fun e => (q, e.id))

/-- Taking a trap: the one operation by which every class of cause enters the supervisor handler.
The saved PC and EXEC go to TREPC and TREXEC, the causes to TRCAUSE and its fellows, EXEC is set by R51, and the path continues at the
handler entry; the entry whose POISON is served is noted for ERET. A cause in supervisor, or a bad entry, ends the group with a
handler-fault record; an entry of 0 ends it with a no-handler record (R339, R420). -/
def takeTrap (s : State) (gid entry : Nat) (causes : List Cause) (saved : Dword) : State :=
  match findGroup s gid, causes with
  | some g, c :: _ =>
    let p := g.path entry
    let rec0 (type : Nat) : FaultRec :=
      { type := type, code := if c.code < 0x10 then c.code else 0, group := some (g, entry), pc := c.pc, addr := c.addr,
        marks := c.marks % 2 ^ 15 + (if 1 < causes.length then 2 ^ 15 else 0) }
    let fail (epc : Dword) (s : State) : State :=
      groupEnd (updGroup (faultRecord s g.ctx { rec0 0x0A with d0 := c.code, d1 := epc.toNat }) gid fun g =>
        { g with sup := some entry }) gid
    if g.sup = some entry then fail g.trap.epc s
    else
      let h := handlerEntry s g.ctx g.stream
      if h = 0 then
        groupEnd (updGroup (faultRecord s g.ctx { rec0 0x0B with d0 := if g.stream = .access then 0 else 1 }) gid fun g =>
          { g with sup := some entry }) gid
      else
        match (if pcOk h then fetchLine s g.core g.ctx (pcLine h) else .error addrFault) with
        | .error _ => fail saved s
        | .ok (s, d) =>
          if !targetMarked d h then fail saved s
          else
            let mine (o : Op) : Bool := o.gid == gid && o.entry == entry && o.told && o.faulted != 0 && !o.dormant && !o.replay
            let lanes := if c.cls = 2 then
                (s.exec.ops.filter fun o => mine o && o.kind.lanewise).foldl (fun m o => m ||| o.faulted) c.lanes
              else c.lanes
            let newExec := if c.lanewise then lanes &&& p.lanes else p.exec
            let s := if c.cls = 2 then
                s.onExec fun e => { e with ops := e.ops.map fun o => if mine o then { o with replay := true } else o }
              else s
            let s := updGroup s gid fun g =>
              { g with sup := some entry, trap := trapRegs causes saved p.exec g.trap,
                       poison := if c.code = 0x07 then (findPair s g.pair).bind fun p => p.recorded c.detail else none }
            updPath s gid entry fun p =>
              { p with pc := h, exec := newExec, st := .ready, entered := true, deadline := none, watch := none,
                       matched := none, cwaitSince := none, grow := none, popSince := none }
  | _, _ => s

/-- A relaxed flit's lane set number before the remainder (R174). -/
def relaxedHash (n : Nat) : Nat := bitsNat n 0 16 ^^^ bitsNat n 16 16 ^^^ bitsNat n 32 14

/-- The flits of a lane set that await acknowledgement. -/
def LaneSet.unacked (l : LaneSet) : Nat := (l.flits.map (·.count)).sum

/-- Flits put on a lane set of the pair to a peer. -/
def flitsOn (s : State) (peer set n : Nat) (relaxed : Bool) : State :=
  s.onFabric fun x =>
    { x with
      links := x.links.map fun y => if y.peer == peer && relaxed then { y with unacked := y.unacked + n } else y
      sets := x.sets.map fun y =>
        if y.out && y.peer == peer && y.set == set then
          { y with sent := y.sent + n, txSeq := y.txSeq + n, flits := y.flits ++ [⟨relaxed, y.gen, y.txSeq, n⟩] }
        else y }

/-- Flits sent to a peer for a context (R166, R174, R434): counted, and awaiting acknowledgement on their lane set. Relaxed flits
(channel 0) wait while the pair's lane sets change, and are counted when they go (R173); number 16 stands for lane set 0 (R183). To a pair
that is down nothing is sent (R447). -/
def linkSend (s : State) (c peer line channel n : Nat) : State :=
  if n = 0 then s
  else
    match s.fabric.links.find? fun l => l.peer == peer && !l.down with
    | none => s
    | some l =>
      let counted := assayAdd s c 44 n
      if channel = 0 then
        if l.pendingSets.isSome then
          s.onFabric fun x =>
            { x with links := x.links.map fun y => if y.peer == peer then { y with held := y.held ++ [(c, line, n)] } else y }
        else flitsOn counted peer (relaxedHash line % max 1 l.sets) n true
      else flitsOn counted peer (if 16 ≤ channel then 0 else (channel + c) % max 1 (l.floorOut / 4)) n false

/-- Whether the pair to a device is down (R447). -/
def pairDown (s : State) (peer : Nat) : Bool := s.fabric.links.any fun l => l.peer == peer && l.down

/-- A message to another device: its kind is the model's own number, its payload the words it carries. 1 lease request,
2 grant, 3 refusal, 4 notice, 5 release, 6 response, 7 fault record or rejection, 8 combined chunk, 9 RGET data, 10 sent-back
chunk, 11 key-switch announcement, 12 refused delivery, 13 decrement of a signal, 14 accepted chunk, 15 request, 16 payload of a
copy, 17 RGET request, 18 probe, 19 answer to a probe, 20 replay asked for, 21 flits replayed. Number 4096 stands for the scale-out ports. -/
def sendOut (s : State) (peer kind : Nat) (words : List Nat) : State :=
  s.onFabric fun x => { x with out := x.out ++ [(peer, kind, words.flatMap (leBytes 8))] }

/-- A lease control flit, on lane set 0 of the pair and counted by nothing (R169, R434). -/
def leaseOut (s : State) (peer kind : Nat) (words : List Nat) : State :=
  sendOut (if pairDown s peer then s else flitsOn s peer 0 1 false) peer kind words

/-- The lines of another device that `n` bytes from an address touch, with how many of the bytes each holds. -/
def lineShares (a n : Nat) : List (Nat × Nat) :=
  if n = 0 then []
  else
    let first := a / 128
    (List.range ((a + n - 1) / 128 + 1 - first)).map fun k =>
      (first + k, min (a + n) (128 * (first + k + 1)) - max a (128 * (first + k)))

/-- The lines of global memory that a copy sends for, with the bytes of each: every line of its rows, or those of refused bytes. -/
def Op.copyShares (o : Op) (d : CopyDesc) : List (Nat × Nat) :=
  if o.faulted == 0 then
    (List.range d.rows).flatMap fun r => lineShares (d.g + BitVec.ofInt 64 ((r : Int) * d.gp)).toNat d.rb
  else
    let at_ := o.refusedBytes.map fun i => (d.globalAt i).toNat / 128
    at_.eraseDups.map fun l => (l, (at_.filter (· == l)).length)

/-- The parts of an operation that go to another device: the lane or part, its address, and its bytes of request data. -/
def Op.sends (o : Op) (lanes : Mask) : List (Nat × Nat × Nat) :=
  let m := lanes &&& o.remote
  let ls := (List.range 64).filter fun i => m.getLsbD i
  let each (data : Nat) : List (Nat × Nat × Nat) :=
    ls.flatMap fun i => ((o.unitsLeft i).filter fun u => u.2.1.toNat / 2 ^ 53 != o.from_).map fun u => (i, u.2.1.toNat, data * u.2.2)
  if m == 0 then []
  else match o.kind with
    | .store _ => each 1
    | .atomic .. => each 1
    | .crux _ _ _ _ cs =>
      ((List.range cs.length).zip cs).filterMap fun c =>
        if c.2.st == .sent then
          some (c.1, c.2.addr.toNat, match c.2.what with
            | .accF32 _ => 128
            | .load => 0
            | .add _ _ _ => 128
            | _ => 33)
        else none
    | .copy d => (o.copyShares d).map fun l => (0, 128 * l.1, if d.kind = 1 then l.2 else 0)
    | .stmr .. => ls.map fun i => (i, (o.addrs.get i).toNat + 128 * i, 128)
    | .nmop _ => [(0, (o.addrs.get 0).toNat, 64)]
    | _ => each 0

/-- The requests of some remote lanes of an operation, one for each line (R176): its owner, its line number and its flits, a header and
data of at most two flits of 64 bytes. -/
def Op.requests (o : Op) (lanes : Mask) : List (Nat × Nat × Nat) :=
  let parts := o.sends lanes
  ((parts.map fun x => x.2.1 / 128).eraseDups).map fun l =>
    let n := ((parts.filter fun x => x.2.1 / 128 == l).map (·.2.2)).sum
    (l / 2 ^ 46, l % 2 ^ 46, 1 + min 2 ((n + 63) / 64))

/-- The number that stands for an operation's kind in a request. -/
def OpKind.tag : OpKind → Nat
  | .load .. => 0
  | .store _ => 1
  | .atomic .. => 2
  | .grld .. => 3
  | .prefetch _ => 4
  | .nmop _ => 5
  | .crux .. => 6
  | .copy _ => 7
  | .stmr .. => 8
  | .mapft => 9
  | _ => 10

/-- The data that a lane or part of an operation sends. -/
def Op.payload (o : Op) (i : Nat) : List Nat :=
  match o.kind with
  | .crux fmt _ _ _ cs =>
    (match cs[i]? with
     | some c =>
       [fmt, match c.ordinal with
         | some n => n + 1
         | none => 0] ++
       (match c.what with
        | .accF32 u => u.map (·.toNat)
        | .accMx fmt scale slot => [fmt, scale] ++ slot.map (·.toNat)
        | .load => []
        | .store scale slot => [scale] ++ slot.map (·.toNat)
        | .add lanes vals _ => [lanes.toNat] ++ vals.map (·.toNat))
     | none => [])
  | .stmr w _ _ => w :: ((o.data.drop (32 * i)).take 32).map (·.toNat)
  | .nmop op => op :: o.data.map (·.toNat)
  | _ => [(o.data.get i).toNat, (o.data2.get i).toNat]

/-- What the request for a line carries: the operation, its group, context, channel, kind and PC, the line, and for each of its lanes
there the lane, the address and the data. -/
def Op.request (o : Op) (lanes : Mask) (line : Nat) : List Nat :=
  [o.id, o.gid % 2 ^ 64, o.ctx, o.channel, o.kind.tag, o.pc.toNat, line] ++
  ((o.sends lanes).filter fun x => x.2.1 / 128 % 2 ^ 46 == line).flatMap fun x => [x.1, x.2.1] ++ o.payload x.1

/-- A valid entry of a context's scale-out peer table (R429): the permitted port mask and the bound context. -/
def peerEntry (s : State) (c k : Nat) : Option (Nat × Nat) :=
  let x := getCtx s c
  let w := physNat s (x.peerBase + 32 * k + 0x18) 8
  if s.mysko.phase = .full ∧ k < x.peerCount ∧ w.testBit 63 ∧ w % 2 ^ 63 < 2 ^ 12 ∧ w % 256 ≠ 0 then
    some (w % 256, bitsNat w 8 4)
  else none

/-- The endpoint of a peer-table entry: the 16-byte address, and above it the 8-byte identifier (R429). -/
def peerEndpoint (s : State) (c k : Nat) : Nat := physNat s ((getCtx s c).peerBase + 32 * k) 24

/-- Whether a port is up (R425, R429). -/
def portUp (s : State) (k : Nat) : Bool := (s.fabric.ports.getD k 0).getLsbD 63

/-- The port that a request takes: number (peer XOR source >> 12) mod p of the permitted ports that are up, in increasing order (R188,
R428; log entry 98); none when every one is down. -/
def rgetPort (s : State) (mask k : Nat) (src : Dword) : Option Nat :=
  let up := (List.range 8).filter fun n => mask.testBit n && portUp s n
  up[(k ^^^ (src.toNat / 4096)) % up.length]?

/-- The pieces of a scratchpad RGET, split at the source's 4 KiB boundaries (R188): offset in the transfer and length. -/
def rgetPieces : Nat → Nat → Nat → Nat → List (Nat × Nat)
  | 0, _, _, _ => []
  | fuel + 1, src, done, n =>
    if n = 0 then []
    else
      let m := min n (4096 - (src + done) % 4096)
      (done, m) :: rgetPieces fuel src (done + m) (n - m)

/-- The peer of an RGET, and the parts of it that a mask names: the lane or piece, its source and its length (R188). -/
def Op.rgetParts (o : Op) (m : Mask) : Option (Nat × List (Nat × Dword × Nat)) :=
  let named {α : Type} (l : List α) : List (Nat × α) := ((List.range l.length).zip l).filter fun x => m.getLsbD x.1
  match o.kind with
  | .rgetQueue k => some (k, (named ((List.range 64).map o.addrs.get)).map fun x => (x.1, x.2, 4))
  | .rgetSpad k _ n _ =>
    let src := o.addrs.get 0
    some (k, (named (rgetPieces 18 src.toNat 0 n)).map fun x => (x.1, src + BitVec.ofNat 64 x.2.1, x.2.2))
  | _ => none

/-- A lane or piece of an RGET for which the transport fails (R189). -/
def Op.transportFails (o : Op) (part : Nat) : Op :=
  let bit : Mask := BitVec.ofNat 64 (2 ^ part)
  { o with todo := o.todo &&& ~~~bit, faulted := o.faulted ||| bit, cause := if o.faulted == 0 then 8 else o.cause,
           marks := o.marks ||| 2 ^ 7 }

/-- The parts of an RGET sent, each on its port with the peer's endpoint, the bound context, the source, the length and what it answers; where
every permitted port is down a part fails with the transport mark (R188, R189, R428). -/
def sendRget (s : State) (o : Op) (m : Mask) : State :=
  match o.rgetParts m with
  | none => s
  | some (k, ps) =>
    let e := (peerEntry s o.ctx k).getD (0, 0)
    ps.foldl (fun s p =>
      match rgetPort s e.1 k p.2.1 with
      | some n =>
        let r := peerEndpoint s o.ctx k
        sendOut s 4096 17 [n, r % 2 ^ 64, r / 2 ^ 64 % 2 ^ 64, r / 2 ^ 128, e.2, p.2.1.toNat, p.2.2, o.id, p.1]
      | none => updOp s o.id fun x => x.transportFails p.1) s

/-- The requests of an operation sent. -/
def sendRequests (s : State) (o : Op) (lanes : Mask) : State :=
  (o.requests lanes).foldl (fun s x => sendOut (linkSend s o.ctx x.1 x.2.1 o.channel x.2.2) x.1 15 (o.request lanes x.2.1)) s

/-- An operation's contributions that were refused, to be sent again (R163). -/
def OpKind.revive : OpKind → OpKind
  | .crux fmt hi f32 ord cs =>
    .crux fmt hi f32 ord (cs.map fun c => if c.st = .refused then { c with st := .sent } else c)
  | k => k

/-- An operation sent again with its faulted lanes (R126, R127). -/
def Op.again (o : Op) : Op :=
  { o with todo := o.todo ||| o.faulted, faulted := 0, told := false, replay := false, cause := 0, marks := 0,
           kind := o.kind.revive,
           parts := match o.kind with
             | .copy _ => o.parts.filter fun p => p.2.1 != 1
             | _ => o.parts }

/-- The requests of an operation that is brought back: of its lanes that faulted and of its contributions that were refused; those
still at their owner are not sent a second time (R126, R163). -/
def sendAgain (s : State) (o : Op) : State :=
  match o.kind with
  | .crux a b c d cs =>
    sendRequests s { o with kind := .crux a b c d (cs.map fun x =>
      if x.st = .refused then { x with st := .sent } else if x.st = .sent then { x with st := .done } else x) } 1
  | _ => sendRequests s o o.faulted

/-- Return from the handler (R344): EXEC and the PC are restored, the path's replay record is sent again in
issue order, and supervisor state ends. -/
def returnFromTrap (s : State) (gid entry : Nat) : State :=
  match findGroup s gid with
  | none => s
  | some g =>
    let s := updPath s gid entry fun p => { p with exec := g.trap.exec &&& p.lanes, pc := g.trap.epc, st := .ready }
    let mine (o : Op) : Bool := o.gid == gid && o.entry == entry && o.replay
    let held := s.exec.ops.filter mine
    let ports := held.filterMap fun o => match o.dst with
      | .port q id => some (q, id)
      | _ => none
    let s := s.onExec fun e => { e with ops := e.ops.map fun o => if mine o then o.again else o }
    let s := updPair s g.pair fun p =>
      { p with queues := ((List.range p.queues.length).zip p.queues).map fun x =>
          { x.2 with entries := x.2.entries.map fun e => if ports.contains (x.1, e.id) then { e with held := false } else e } }
    let s := held.foldl (fun s o => sendRget (sendAgain s o) o o.faulted) s
    let seals := (s.exec.ops.filter fun o => o.gid == gid && o.entry == entry && o.todo != 0 && (match o.kind with
      | .hmseal _ => !s.mysko.seals.contains (.hmseal o.id)
      | _ => false)).map fun o => SealReq.hmseal o.id
    let s := s.onMysko fun m => { m with seals := m.seals ++ seals }
    let press : Bool := g.trap.cause.extractLsb' 8 2 == 3
    let s := match g.pressCause with
      | some (c, k) =>
        if press then updPress s c k fun p =>
          { p with st := if p.st = .debugStopped then .debugStopped else .running, cause := none, taken := none }
        else s
      | none => s
    updGroup s gid fun g =>
      { g with sup := none, pressCause := if press then none else g.pressCause, poison := none }

end Sys2Proof.Machine
end

