-- ==== Sys2Proof/Machine/Operands.lean ====
section
/-!
DEFINITION. Operand forms: the slot that a unit is issuing, the value of each source kind, the write of each
destination kind, queue pops and pushes, and the address forms (R57 to R63, R199, R200, R273, R274).
-/

namespace Sys2Proof.Machine

/-- The slot being issued: the unit's run, its group, pair and path, and the slot's PC. -/
structure Slot where
  run : Run
  g : Group
  pair : Pair
  p : Path
  pc : Dword
  deriving DecidableEq, Repr

/-- The slot that the issuing unit has reached, when a partition or a Ladle issues. -/
def currentSlot (s : State) : Option Slot :=
  match s.issuer with
  | none => none
  | some (c, u) =>
    if 4 < u then none
    else
      match findRun s c u with
      | none => none
      | some r =>
        match findGroup s r.gid with
        | none => none
        | some g =>
          match findPair s g.pair with
          | none => none
          | some pr => some ⟨r, g, pr, g.path r.entry, (r.slots.getD r.idx (r.head, .runFetch 0 0)).1⟩

/-- Whether the slot is the last of its run. -/
def Slot.last (sl : Slot) : Bool := sl.run.slots.length ≤ sl.run.idx + 1

/-- The lane width of the issuing group (R54). -/
def Slot.w (sl : Slot) : Nat := sl.g.laneWidth

def Slot.access (sl : Slot) : Bool := sl.g.stream = .access

/-- The guard predicate, inverted when negated (R58). -/
def Slot.guardMask (sl : Slot) (gd : Guard) : Mask :=
  let m := sl.g.pred gd.pred.toNat
  if gd.neg then ~~~m else m

/-- The effective lanes of R58. -/
def Slot.eff (sl : Slot) (gd : Guard) : Mask := sl.p.exec &&& sl.guardMask gd

/-- A value cut to the lane width. -/
def cutLane (w : Nat) (v : Dword) : Dword := if w = 32 then v &&& 0xFFFFFFFF#64 else v

/-- An integer as a lane of the width. -/
def laneOfInt (w : Nat) (z : Int) : Dword := BitVec.ofNat 64 (wrapInt w z)

/-- The port number of a vector source, if it names one. -/
def portOf : Src → Option Nat
  | .vec n => if 240 ≤ n.toNat then some (n.toNat - 240) else none
  | _ => none

/-- A queue of a pair. -/
def Pair.queue (p : Pair) (q : Nat) : Queue := p.queues.getD q ⟨false, 0, 0, [], []⟩

/-- The lanes of a queue's front entry; zero where there is none. -/
def Pair.front (p : Pair) (q : Nat) : Lanes :=
  match (p.queue q).entries with
  | e :: _ => e.vals
  | [] => Lanes.zero

/-- The lanes of a latch (R54); zero where nothing is captured. -/
def Slot.latch (sl : Slot) (n : Nat) : Lanes :=
  match sl.run.latches.getD n none with
  | some l => l.vals
  | none => Lanes.zero

/-- The value of a 64-lane integer source (R200, R244): `wide` is the format's wide immediate. -/
def Slot.lanes (sl : Slot) (wide : Int) : Src → Lanes
  | .vec n => if 240 ≤ n.toNat then sl.pair.front (n.toNat - 240) else sl.g.vreg n.toNat
  | .uni n =>
    let v : Dword := if sl.access then sl.g.spair n.toNat else (sl.g.sreg n.toNat).zeroExtend 64
    List.replicate 64 v
  | .latch n => sl.latch n.toNat
  | .short i => List.replicate 64 (laneOfInt sl.w (shortVal i))
  | .wide => List.replicate 64 (laneOfInt sl.w wide)

/-- The binary32 encoding of an integer (R200). -/
def f32OfInt (z : Int) : Nat := roundFp (Xr.ofInt z 0) fp32 .rne false

/-- The pattern of a 16-bit element of format 0x09 or 0x0A that holds an integer. -/
def f16OfInt (fmt : BitVec 5) (z : Int) : Nat :=
  roundFp (Xr.ofInt z 0) (if fmt = 9 then fp16 else bf16) .rne false

/-- The value of a float source (R200): a short immediate is the exact integer in each element; the wide
immediate of format A is bits [31:8] of a binary32, or the pattern of both packed elements. -/
def Slot.floats (sl : Slot) (fmt : BitVec 5) (wide : BitVec 24) (src : Src) : Lanes :=
  match src with
  | .short i =>
    let v := if fmt = 8 then f32OfInt (shortVal i) else f16OfInt fmt (shortVal i) * 65537
    List.replicate 64 (BitVec.ofNat 64 v)
  | .wide =>
    let v := if fmt = 8 then wide.toNat * 256 else wide.toNat % 65536 * 65537
    List.replicate 64 (BitVec.ofNat 64 v)
  | src => sl.lanes 0 src

/-- A 32-bit uniform operand or immediate. -/
def Slot.uni32 (sl : Slot) (wide : Int) : Src → Word
  | .uni n => sl.g.sreg n.toNat
  | .short i => BitVec.ofInt 32 (shortVal i)
  | .wide => BitVec.ofInt 32 wide
  | _ => 0

/-- A 64-bit pair operand, or an immediate sign-extended. -/
def Slot.uni64 (sl : Slot) (wide : Int) : Src → Dword
  | .uni n => sl.g.spair n.toNat
  | .short i => BitVec.ofInt 64 (shortVal i)
  | .wide => BitVec.ofInt 64 wide
  | _ => 0

/-- A predicate operand (R200). -/
def Slot.predSrc (sl : Slot) : Src → Mask
  | .vec n => sl.g.pred n.toNat
  | _ => 0

/-- The ports that source fields name. -/
def srcPorts (b : Body) (r : Roles) : List Nat :=
  let one (role : Role) (x : Src) : List Nat :=
    match role with
    | .pred => []
    | .mask => []
    | .tile => []
    | .acc => []
    | .tileOrAcc => []
    | .none => []
    | _ => (portOf x).toList
  one r.a b.head.a ++ one r.b b.srcB ++ one r.c b.srcC

/-- The port that a destination names. -/
def dstPort (d : Dst) (r : Role) : Option Nat :=
  match r with
  | .vec => if 240 ≤ d.reg.toNat then some (d.reg.toNat - 240) else none
  | _ => none

/-- The banks of the registers and of the window that an instruction of a partition uses, bit b for bank b: that of each vector register
or port which a source field names, and that of a port which it pushes (R59, R207). -/
def instrBanks (i : Instr) : Nat :=
  match parts i with
  | none => 0
  | some (M, m, b) =>
    let r := rolesOf M m b
    let vector (role : Role) (x : Src) : List Nat :=
      match role, x with
      | .pred, _ => []
      | .mask, _ => []
      | .none, _ => []
      | _, .vec n => [n.toNat % 4]
      | _, _ => []
    let push := (dstPort b.head.dst r.d).map (· % 4)
    (vector r.a b.head.a ++ vector r.b b.srcB ++ vector r.c b.srcC ++ push.toList).foldl (fun m k => m ||| 2 ^ k) 0

/-- The front entry of a queue popped (R63); its poison record and the operation kept for it go with it. -/
def popQueue (s : State) (pair q : Nat) : State :=
  match findPair s pair with
  | none => s
  | some p =>
    match (p.queue q).entries with
    | [] => s
    | e :: rest =>
      let s := updQueue s pair q fun x => { x with entries := rest }
      match e.record with
      | none => s
      | some k =>
        let s := match p.poison.getD k none with
          | some r => dropOp s r.op
          | none => s
        updPair s pair fun p => { p with poison := p.poison.set k none }

/-- Every port that the sources name popped once. -/
def popPorts (s : State) (sl : Slot) (ports : List Nat) : State :=
  ports.foldl (fun s q => popQueue s sl.g.pair q) s

/-- The scratchpad accesses of a group that are not performed: a control push is a release over them (R114). -/
def spadPending (s : State) (gid : Nat) : List Nat :=
  (s.exec.ops.filter fun o => o.gid == gid && o.kind.spad && o.pend != 0).map (·.id)

/-- An entry pushed whose value is known at issue (R63, R64): lanes that are not effective are zero. A control entry is Ready once
the scratchpad accesses that its push follows are performed (R114). -/
def pushReady (s : State) (gid pair q : Nat) (vals : Lanes) : State :=
  let (id, s) := fresh s
  updQueue s pair q fun x =>
    let after := if x.kind = 2 then spadPending s gid else []
    { x with entries := x.entries ++ [⟨id, if after = [] then .ready else .filling, vals.map (cutLane 32), 0, 0, none, false, after, 0⟩] }

/-- An entry pushed that a load will fill (R64); lanes that are not effective are zero and need no data. -/
def pushFilling (s : State) (pair q : Nat) (wait : Mask) : State × Nat :=
  let (id, s) := fresh s
  (updQueue s pair q fun x =>
    { x with entries := x.entries ++ [⟨id, if wait = 0 then .ready else .filling, Lanes.zero, wait, 0, none, false, [], 0⟩] }, id)

/-- A latch captured in the unit's run (R199, R211). -/
def capture (s : State) (sl : Slot) (cap : BitVec 2) (v : Lanes) : State :=
  if cap = 0 then s
  else updRun s sl.run.core sl.run.unit fun r =>
    { r with latches := r.latches.set (cap.toNat - 1) (some ⟨r.idx, v⟩) }

/-- A 64-lane result written (R58, R63, R199): to a port as a whole entry, to a register in the effective lanes,
and to the latch that a capture names with zero in the other lanes; the latch of a port holds what was pushed (R62). -/
def writeVec (s : State) (sl : Slot) (d : Dst) (eff : Mask) (v : Lanes) : State :=
  let port : Bool := 240 ≤ d.reg.toNat
  let m := Lanes.masked eff v
  let s := capture s sl d.cap (if port then m.map (cutLane 32) else m)
  if port then pushReady s sl.g.gid sl.g.pair (d.reg.toNat - 240) m
  else if d.nwb then s
  else updGroup s sl.g.gid fun g => g.setVreg d.reg.toNat (Lanes.merge eff v (g.vreg d.reg.toNat))

/-- A predicate result written in the effective lanes (R252). -/
def writePredLanes (s : State) (sl : Slot) (d : Dst) (eff : Mask) (v : Mask) : State :=
  if d.nwb then s
  else updGroup s sl.g.gid fun g => g.setPred d.reg.toNat (mergeMask eff v (g.pred d.reg.toNat))

/-- A whole predicate written (R229, R243). -/
def writePred (s : State) (sl : Slot) (d : Dst) (v : Mask) : State :=
  if d.nwb then s else updGroup s sl.g.gid fun g => g.setPred d.reg.toNat v

/-- A 32-bit uniform result written; a capture holds it in every lane, extended by zeros to 64 bits (R199; log entry 113). -/
def writeUni (s : State) (sl : Slot) (d : Dst) (v : Word) : State :=
  let s := capture s sl d.cap (List.replicate 64 (v.zeroExtend 64))
  if d.nwb then s else updGroup s sl.g.gid fun g => g.setSreg d.reg.toNat v

/-- A 64-bit uniform result written to a pair. -/
def writePair (s : State) (sl : Slot) (d : Dst) (v : Dword) : State :=
  let s := capture s sl d.cap (List.replicate 64 v)
  if d.nwb then s else updGroup s sl.g.gid fun g => g.setPair d.reg.toNat v

/-- A signed 18-bit offset. -/
def sextOff (o : BitVec 18) : Int := o.toInt

/-- The index of a lane for a global address (R273). -/
def Slot.index64 (sl : Slot) (src : Src) (i : Nat) : Dword :=
  match src with
  | .vec n => (sl.g.vreg n.toNat).get i
  | .latch n => (sl.latch n.toNat).get i
  | .uni n => sl.g.spair n.toNat
  | .short k => BitVec.ofInt 64 (shortVal k)
  | .wide => 0

/-- The global address of a lane (R273). -/
def Slot.gaddr (sl : Slot) (f : FmtM) (i : Nat) : Dword :=
  sl.uni64 0 f.a + BitVec.ofNat 64 ((sl.index64 f.b i).toNat * 2 ^ f.scale.toNat) + BitVec.ofInt 64 (sextOff f.off)

/-- The index of a lane for a scratchpad address, as a signed integer (R274). -/
def Slot.sindex (sl : Slot) (src : Src) (i : Nat) : Int :=
  match src with
  | .short k => shortVal k
  | .wide => 0
  | .uni n => if sl.access then (sl.g.spair n.toNat).toInt else (sl.g.sreg n.toNat).toInt
  | .vec n => sextNat sl.w ((sl.g.vreg n.toNat).get i).toNat
  | .latch n => sextNat sl.w ((sl.latch n.toNat).get i).toNat

/-- The base S[A] of a scratchpad address: unsigned 32 bits, or 0 (R274). -/
def Slot.sbase (sl : Slot) : Src → Int
  | .uni n => ((sl.g.sreg n.toNat).toNat : Int)
  | _ => 0

/-- The scratchpad or cluster address of a lane (R274). -/
def Slot.saddr (sl : Slot) (f : FmtM) (i : Nat) : Int :=
  sl.sbase f.a + sl.sindex f.b i * (2 ^ f.scale.toNat : Nat) + sextOff f.off

/-- The data of a store or an atomic: V, latch, even pair, short immediate or port (R278, R287). -/
def Slot.sdata (sl : Slot) : Src → Lanes
  | .uni n => List.replicate 64 (sl.g.spair n.toNat)
  | .short i => List.replicate 64 (BitVec.ofInt 64 (shortVal i))
  | src => sl.lanes 0 src

/-- A loaded value extended to the lane width (R275). -/
def extendLoad (bytes : Nat) (sign : Bool) (out : Nat) (v : Nat) : Dword :=
  if sign then BitVec.ofNat 64 (wrapInt out (sextNat (8 * bytes) v)) else BitVec.ofNat 64 (v % 2 ^ (8 * bytes))

end Sys2Proof.Machine
end

