-- ==== Sys2Proof/Machine/RunCheck.lean ====
section
/-!
DEFINITION. Fetching a run and every check made before its head issues (R29 to R34, R55, R61, R62, R85, R190 to R195,
R212, R219), and the conditions under which a head waits (R31, R34).
-/

namespace Sys2Proof.Machine

/-! ### Register uses -/

/-- A register that an instruction reads or writes, as far as R34 and R55 look at it. -/
inductive RegRef where
  | v (n : Nat)
  | s (n : Nat)
  deriving DecidableEq, Repr

/-- The registers that a source field reads. -/
def srcRegs (access : Bool) (r : Role) (x : Src) : List RegRef :=
  let two (n : Nat) : List RegRef := [.s n, .s (n + 1)]
  match r, x with
  | .pred, _ => []
  | .none, _ => []
  | .mask, .uni n => two n.toNat
  | .mask, _ => []
  | .val, .uni n => if access then two n.toNat else [.s n.toNat]
  | .sindex, .uni n => if access then two n.toNat else [.s n.toNat]
  | .pair, .uni n => two n.toNat
  | .pairImm, .uni n => two n.toNat
  | .base, .uni n => two n.toNat
  | .index, .uni n => two n.toNat
  | .data, .uni n => two n.toNat
  | _, .uni n => [.s n.toNat]
  | _, .vec n => if 240 ≤ n.toNat then [] else [.v n.toNat]
  | _, _ => []

/-- Registers that an entry reads beyond its fields: the second register of an eight-byte ACAS (R287) and the
six-register descriptor of a copy (R299). -/
def extraReads (major minor : Nat) (b : Body) : List RegRef :=
  match b with
  | .m f =>
    if major == 0x84 && minor == 0xA && f.width == 3 then [.v (vecNum f.c + 1)]
    else if major == 0x89 then
      match f.a with
      | .uni n => (List.range 6).map fun k => .s (n.toNat + k)
      | _ => []
    else []
  | _ => []

/-- The registers that an instruction reads. -/
def readRegs (access : Bool) (major minor : Nat) (b : Body) : List RegRef :=
  let r := rolesOf major minor b
  srcRegs access r.a b.head.a ++ srcRegs access r.b b.srcB ++ srcRegs access r.c b.srcC ++ extraReads major minor b

/-- The registers that a destination writes. -/
def dstRegs (r : Role) (d : Dst) : List RegRef :=
  let n := d.reg.toNat
  if d.nwb then []
  else match r with
    | .vec => if 240 ≤ n then [] else [.v n]
    | .vreg => [.v n]
    | .optVreg => [.v n]
    | .uni => [.s n]
    | .optUni => [.s n]
    | .pair => [.s n, .s (n + 1)]
    | _ => []

/-- The registers that an instruction writes: its destination, the residue of CVTEF and the count of LOOPS. -/
def writeRegs (major minor : Nat) (b : Body) : List RegRef :=
  let r := rolesOf major minor b
  dstRegs r.d b.head.dst ++
  (if major == 0x26 && minor == 2 then [.v (vecNum b.srcB)] else []) ++
  (if major == 0xC0 && minor == 7 then
    (match b.head.a with
     | .uni n => [.s n.toNat]
     | _ => []) else [])

/-- Whether an instruction writes its destination some time after its run ends (R210). -/
def isLong (major minor : Nat) (b : Body) : Bool :=
  match major with
  | 0x80 => minor ≤ 2 && b.head.dst.reg.toNat < 240
  | 0x82 => (minor == 0 || minor == 2 || minor == 3) && b.head.dst.reg.toNat < 240
  | 0x84 => !b.head.dst.nwb
  | 0x85 => (minor == 0 && !b.head.dst.nwb) || (minor == 4 && b.head.dst.reg.toNat < 240)
  | 0x87 => minor == 0 && !b.head.dst.nwb
  | 0x8B =>
    (minor == 0 && (match b with
      | .m f => !f.off.getLsbD 1
      | _ => false)) || minor == 1 || (minor == 2 && !b.head.dst.nwb)
  | 2 => minor == 0
  | 6 => minor == 0
  | _ => false

/-- The ports that an instruction names, the operand of QSKIP included (R63, R286). -/
def portsNamed (major minor : Nat) (b : Body) : List Nat :=
  let r := rolesOf major minor b
  srcPorts b r ++ (dstPort b.head.dst r.d).toList ++
  (if major == 0x83 && minor == 1 then [(shortOf b.head.a).toNat] else [])

/-! ### The checks of one instruction in its group -/

/-- Whether every register named lies in the allocation (R55, R299, R287). With no-write-back register 0 counts as no name, and any other
register as one, the model's choice (log entry 112). -/
def allocOk (g : Group) (major minor : Nat) (b : Body) : Bool :=
  let r := rolesOf major minor b
  let acc := g.stream = .access
  let named (role : Role) (d : Dst) : List RegRef := dstRegs role { d with nwb := d.nwb && d.reg == 0 }
  (readRegs acc major minor b ++ writeRegs major minor b ++ named r.d b.head.dst).all fun x =>
    match x with
    | .v n => n < 8 * g.g
    | .s n => n < 16 * g.h

/-- Whether a uniform source that an access group reads as 64 bits is an even pair (R57, R244). -/
def pairsOk (access : Bool) (major minor : Nat) (b : Body) : Bool :=
  let r := rolesOf major minor b
  let one (role : Role) (x : Src) : Bool :=
    match role, x with
    | .val, .uni n => !access || n.toNat % 2 == 0
    | .sindex, .uni n => !access || n.toNat % 2 == 0
    | _, _ => true
  one r.a b.head.a && one r.b b.srcB && one r.c b.srcC

/-- Whether a use of a port is one that R61 and R62 allow. -/
def portsOk (g : Group) (pr : Pair) (major minor : Nat) (b : Body) : Bool :=
  let r := rolesOf major minor b
  let acc := g.stream = .access
  let srcs := srcPorts b r
  let decl (q : Nat) : Bool := (pr.queue q).declared
  let kind (q : Nat) : Nat := (pr.queue q).kind
  srcs.Nodup &&
  srcs.all (fun q => decl q && kind q == (if acc then 2 else 0)) &&
  (match dstPort b.head.dst r.d with
   | none => true
   | some q =>
     decl q &&
     (if acc then (if major == 0x81 then kind q == 1 else kind q == 0) else kind q == 1 || kind q == 2)) &&
  (if major == 0x83 then
     decl (shortOf b.head.a).toNat &&
     (minor == 0 || kind (shortOf b.head.a).toNat == (if acc then 2 else 0))
   else true)

/-- Whether the hoop that an instruction names is declared (R295, R320). -/
def hoopsOk (s : State) (launch : Nat) (inCohort : Bool) (major minor : Nat) (b : Body) : Bool :=
  let names := (major == 0x87 && minor ≤ 1) || (major == 0xE2 && minor ≤ 1)
  if names then
    inCohort &&
    (match findLaunch s launch with
     | some l => l.kernel.hoops.getD (shortOf b.head.a).toNat 0 != 0
     | none => false)
  else true

/-- The rules of step 5 of R219 that depend on the stream, the group's allocation, its window and its cohort. -/
def groupFieldsOk (s : State) (g : Group) (pr : Pair) (major minor : Nat) (b : Body) : Bool :=
  let acc := g.stream = .access
  let packed : Bool := match b with
    | .a f => major == 0x20 && isPackedInt f.fmt
    | _ => false
  let capPair : Bool := b.head.dst.cap != 0 && (match rolesOf major minor b with
    | r => r.d == .pair) && (major == 0x30 || major == 0x70 || major == 0x31)
  let eight : Bool := match b with
    | .m f => major == 0x82 && f.width == 3
    | _ => false
  let ring : Bool := major == 0x8A && minor ≤ 3
  allocOk g major minor b && pairsOk acc major minor b && portsOk g pr major minor b &&
  hoopsOk s g.launch pr.cohort.isSome major minor b &&
  !(packed && acc) && !(capPair && !acc) && !(eight && !acc) &&
  (!ring || s.exec.presses.any fun p => p.core == g.core && some p.cohort == pr.cohort) &&
  !(major == 4 && minor ≤ 1 && g.sup.isSome)

/-- The selector of format Y, from the raw word (R206). -/
def rawSelector (w : BitVec 96) : Nat := (w.extractLsb' 19 16).toNat

/-- Whether a word is reserved to the supervisor, before its fields are checked (step 4 of R219). -/
def rawSupervisor (w : BitVec 96) : Bool :=
  let major := (w.extractLsb' 88 8).toNat
  let minor := (w.extractLsb' 82 6).toNat
  major == 3 || (major == 6 && minor == 1) || (major == 2 && 0x100 ≤ rawSelector w && rawSelector w ≤ 0x1FF)

/-- The cause that a word raises in a group's stream at run fetch (R219), if any. -/
def classify (s : State) (g : Group) (pr : Pair) (w : BitVec 96) : Option Nat :=
  let major := (w.extractLsb' 88 8).toNat
  let minor := (w.extractLsb' 82 6).toNat
  if minorMask major = 0 then some 0x01
  else if !(minorMask major).testBit minor then some 0x01
  else if !streamAccepts g.stream major minor then some 0x02
  else if rawSupervisor w && g.sup.isNone then some 0x0C
  else
    match decode w with
    | .error _ => some 0x01
    | .ok i =>
      match parts i with
      | some (M, m, b) => if groupFieldsOk s g pr M m b then none else some 0x01
      | none => some 0x01

/-- The cause that a word raises in the Press stream, if any (R219, R306, R316, R320, R422). -/
def classifyPress (s : State) (launch : Nat) (w : BitVec 96) : Option Nat :=
  let major := (w.extractLsb' 88 8).toNat
  let minor := (w.extractLsb' 82 6).toNat
  if minorMask major = 0 then some 0x01
  else if !(minorMask major).testBit minor then some 0x01
  else if !streamAccepts .press major minor then some 0x02
  else
    match decode w with
    | .error _ => some 0x01
    | .ok i =>
      match i with
      | .mma f =>
        if s.mysko.phase = .reduced && !((f.fa == 9 || f.fa == 10) && (f.fb == 9 || f.fb == 10)) then some 0x01 else none
      | _ =>
        match parts i with
        | some (M, m, b) => if hoopsOk s launch true M m b then none else some 0x01
        | none => some 0x01

/-! ### The fetch -/

/-- A fetched slot: its PC, its word and its line's bytes. -/
structure RawSlot where
  pc : Dword
  word : BitVec 96
  line : List Byte
  deriving DecidableEq, Repr

/-- The word of a slot of a fetch line (R190). -/
def slotWord (d : List Byte) (slot : Nat) : BitVec 96 := wordOfBytes (d.drop (12 * slot))

/-- The slots from a head, at most `n`, to the first boundary flag; whether one was found; and a fetch fault. -/
def gather (s : State) (core c : Nat) : Nat → Dword → State × List RawSlot × Bool × Option (Miss × Dword)
  | 0, _ => (s, [], false, none)
  | n + 1, pc =>
    match fetchLine s core c (pcLine pc) with
    | .error e => (s, [], true, some (e, pc))
    | .ok (s, d) =>
      let w := slotWord d (pc.extractLsb' 0 3).toNat
      let r : RawSlot := ⟨pc, w, d⟩
      if w.getLsbD 81 then (s, [r], true, none)
      else
        let (s, rs, ok, e) := gather s core c n (nextPc pc)
        (s, r :: rs, ok, e)

/-- Even parity of a slot and of the line word (R192). -/
def parityOk (r : RawSlot) : Bool :=
  let lw := lineWord r.line
  let k := (r.pc.extractLsb' 0 3).toNat
  (popNat 96 r.word.toNat + (if lw.testBit (19 + k) then 1 else 0)) % 2 == 0 && popNat 14 (lw >>> 18) % 2 == 0

/-- The pairs (lead, rider) of a template (R195), by lead. -/
def templateLeads (t : Nat) : List Nat :=
  match t with
  | 1 => [0] | 2 => [1] | 3 => [2] | 4 => [3] | 5 => [0, 2] | 6 => [0, 3] | 7 => [1, 3]
  | _ => []

/-- The opcode pair of a word. -/
def wordOp (w : BitVec 96) : Nat × Nat := ((w.extractLsb' 88 8).toNat, (w.extractLsb' 82 6).toNat)

/-- Whether a word's opcode is assigned (steps 1 and 2 of R219). -/
def wordAssigned (w : BitVec 96) : Bool := (minorMask (wordOp w).1).testBit (wordOp w).2

/-- Whether a word is of a 64-lane instruction, by its opcode and, for RGET, the bit of its form (R195, R330). -/
def word64 (w : BitVec 96) : Bool :=
  wordAssigned w && opcode64 (wordOp w).1 (wordOp w).2 (w.getLsbD 0)

/-- Whether the pairs that lie within the run satisfy R195. -/
def pairingOk (press : Bool) (rs : List RawSlot) : Bool :=
  rs.all fun r =>
    let t := bitsNat (lineWord r.line) 24 3
    if press then t == 0
    else
      let k := (r.pc.extractLsb' 0 3).toNat
      if (templateLeads t).contains k then
        match rs.find? fun q => q.pc == r.pc + 1 with
        | none => true
        | some q =>
          let rider := wordOp q.word
          word64 r.word && (wordOp r.word).1 != 0xC0 && !r.word.getLsbD 81 && wordAssigned q.word && classU rider.1 rider.2
      else true

/-- The decoded slots; empty where a word is no instruction. -/
def decodeSlots (rs : List RawSlot) : List (Dword × Instr) :=
  rs.filterMap fun r =>
    match decode r.word with
    | .ok i => some (r.pc, i)
    | .error _ => none

/-- The numbered instructions of a run with their opcodes and bodies. -/
def runParts (sl : List (Dword × Instr)) : List (Nat × Nat × Nat × Body) :=
  ((List.range sl.length).zip sl).filterMap fun x =>
    match parts x.2.2 with
    | some (M, m, b) => some (x.1, M, m, b)
    | none => none

/-- A slot of a run as the structural checks see it: its place, its opcode, its boundary flag, and its body where its fields meet
their entry's rules. -/
structure SlotView where
  k : Nat
  major : Nat
  minor : Nat
  boundary : Bool
  body : Option Body

/-- The slots of a run in their places. -/
def slotViews (rs : List RawSlot) : List SlotView :=
  ((List.range rs.length).zip rs).map fun x =>
    let o := wordOp x.2.word
    ⟨x.1, o.1, o.2, x.2.word.getLsbD 81,
     match decode x.2.word with
     | .ok i => (parts i).map fun p => p.2.2
     | .error _ => none⟩

/-- The latch that a source names. -/
def latchOf : Src → Option Nat
  | .latch n => some n.toNat
  | _ => none

/-- Whether a slot may block its run (R31). -/
def SlotView.blocks (v : SlotView) : Bool :=
  blocksAlways v.major v.minor || (v.major != 0x83 && match v.body with
    | some b => portsNamed v.major v.minor b != []
    | none => false)

/-- Whether every latch that an instruction at place `k` reads has been captured in one of the two slots before it (R33). -/
def latchesOk (vs : List SlotView) (k : Nat) (b : Body) : Bool :=
  ([b.head.a, b.srcB, b.srcC].filterMap latchOf).all fun n =>
    vs.any fun x => (x.k + 1 == k || x.k + 2 == k) && match x.body with
      | some c => c.head.dst.cap.toNat == n + 1
      | none => false

/-- Whether no later slot of the run reads or writes the destination of a long-latency instruction (R34). -/
def longOk (access : Bool) (vs : List SlotView) (v : SlotView) (b : Body) : Bool :=
  !isLong v.major v.minor b ||
  vs.all fun y =>
    !(v.k < y.k) || match y.body with
      | some c =>
        (writeRegs v.major v.minor b).all fun r =>
          !(readRegs access y.major y.minor c).contains r && !(writeRegs y.major y.minor c).contains r
      | none => true

/-- The structural checks of R30 on a run: blocking instructions and transfers in their places, latch lifetimes (R33), and hazards on
long-latency destinations (R34). A slot whose fields, stream or privilege are refused keeps its place, and its opcode
counts, the model's choice (log entry 114). -/
def structureOk (access : Bool) (rs : List RawSlot) : Bool :=
  let vs := slotViews rs
  vs.all fun v =>
    (v.k == 0 || !v.blocks) && (!isTransfer v.major v.minor || v.boundary) &&
    match v.body with
    | some b => latchesOk vs v.k b && longOk access vs v b
    | none => true

/-- The order of R52 among precise causes found at one head; a fetch fault ranks after FETCHREMOTE. -/
def causeRank (code : Nat) : Nat :=
  match code with
  | 0x03 => 0 | 0x0F => 1 | 0x08 => 2 | 0x09 => 2 | 0x01 => 3 | 0x02 => 4 | 0x0C => 5 | 0x04 => 6 | 0x05 => 7
  | 0x07 => 8 | _ => 9

/-- The result of fetching a run: its slots, or the code and marks of the cause taken at the head. -/
inductive FetchResult where
  | ok (slots : List (Dword × Instr))
  | trap (code marks : Nat) (addr : Dword)
  deriving DecidableEq, Repr

/-- The checks of R30 on a gathered run; `classes` are the causes of R219, `qdiv` says that a detached path names a
port. An ILLEGAL carries the mark of each check that found one, and for a slot of bad parity the slot's PC as its address (R192,
R212; log entry 87). -/
def judge (press access qdiv : Bool) (rs : List RawSlot) (ended : Bool) (fault : Option (Miss × Dword))
    (classes : List Nat) : FetchResult :=
  match fault with
  | some (e, a) => .trap e.code e.marks (if e.code = 0x0F then a else pcLine a)
  | none =>
    let illegal (ok : Bool) (marks : Nat) : List (Nat × Nat) := if ok then [] else [(0x01, marks)]
    let found : List (Nat × Nat) :=
      illegal (rs.all parityOk) (2 ^ 8) ++
      illegal (rs.all fun r => lineWord r.line % 2 ^ 18 == 0) (2 ^ 10) ++
      illegal (pairingOk press rs) (2 ^ 9) ++
      classes.map (fun c => (c, 0)) ++
      illegal (structureOk access rs) 0 ++
      (if ended then [] else [(0x04, 0)]) ++
      (if qdiv then [(0x05, 0)] else [])
    match found with
    | [] => .ok (decodeSlots rs)
    | x :: xs =>
      let best := xs.foldl (fun b y => if causeRank y.1 < causeRank b then y.1 else b) x.1
      let marks := (found.filter fun y => y.1 == best).foldl (fun m y => m ||| y.2) 0
      .trap best marks (if best = 0x01 then ((rs.find? fun r => !parityOk r).map (·.pc)).getD 0 else 0)

/-- The slots of a run, with each line of bad parity fetched once more from L2; `tried` are the lines fetched again, which stand first in
the answer. -/
def gatherFix (core c : Nat) (head : Dword) :
    Nat → List Nat → State → List Nat × State × List RawSlot × Bool × Option (Miss × Dword)
  | 0, tried, s => (tried, gather s core c 24 head)
  | n + 1, tried, s =>
    let r := gather s core c 24 head
    let bad := ((r.2.1.filter fun x => !parityOk x).map fun x => (pcLine x.pc).toNat).filter fun a => !tried.contains a
    if bad = [] then (tried, r)
    else
      gatherFix core c head n (tried ++ bad) (r.1.onMemory fun m =>
        { m with icache := m.icache.filter fun l => !(l.core == core && l.ctx == c && bad.contains l.addr) })

/-- The physical address of a fetch line that the L2 holds. -/
def linePhys (s : State) (c : Nat) (off : Nat) : Nat := ((l2Find s c off).map fun l => 128 * l.frame + off % 128).getD 0

/-- A fetch line fetched twice leaves a record in Mysko's error log: a transient error where the second copy passes its checks, a lasting
one where it does not (R192, R446; log entry 104). -/
def noteRefetch (core c : Nat) (rs : List RawSlot) (s : State) (a : Nat) : State :=
  let lasting := rs.any fun x => (pcLine x.pc).toNat == a && !parityOk x
  errorRecord s (if lasting then 3 else 2) 1 core c (BitVec.ofNat 64 (linePhys s c (a % 2 ^ 53))) 6

/-- The slots of a run, which covers at most six lines, each fetched at most twice (R192, R193). -/
def gatherRun (s : State) (core c : Nat) (head : Dword) : State × List RawSlot × Bool × Option (Miss × Dword) :=
  let r := gatherFix core c head 6 [] s
  (r.1.foldl (noteRefetch core c r.2.2.1) r.2.1, r.2.2)

/-- A run of a group fetched and checked (R30). -/
def fetchRun (s : State) (g : Group) (pr : Pair) (entry : Nat) (head : Dword) : State × FetchResult :=
  let (s, rs, ended, fault) := gatherRun s g.core g.ctx head
  let classes := rs.filterMap fun r => classify s g pr r.word
  let ports := (runParts (decodeSlots rs)).any fun x => portsNamed x.2.1 x.2.2.1 x.2.2.2 != []
  (s, judge false (g.stream = .access) (ports && entry != 0) rs ended fault classes)

/-- A run of a Press stream fetched and checked (R306). -/
def fetchPressRun (s : State) (core c launch : Nat) (head : Dword) : State × FetchResult :=
  let (s, rs, ended, fault) := gatherRun s core c head
  let classes := rs.filterMap fun r => classifyPress s launch r.word
  (s, judge true false false rs ended fault classes)

/-! ### Waiting at a head -/

/-- The register destinations of a group's operations that are still pending (R34). -/
def pendingRegs (s : State) (gid : Nat) : List RegRef :=
  (s.exec.ops.filter fun o => o.gid == gid && !o.dormant).flatMap fun o =>
    match o.dst with
    | .vreg n => [.v n]
    | .ureg n => [.s n]
    | .upair n => [.s n, .s (n + 1)]
    | _ => []

/-- Whether a long-latency write is pending to a register that the run reads or writes (R34). -/
def hazardHolds (s : State) (g : Group) (slots : List (Dword × Instr)) : Bool :=
  let pend := pendingRegs s g.gid
  let acc := g.stream = .access
  (runParts slots).any fun x =>
    (readRegs acc x.2.1 x.2.2.1 x.2.2.2 ++ writeRegs x.2.1 x.2.2.1 x.2.2.2).any pend.contains

/-- Whether the queues that an instruction pops and pushes let it issue (R31, R62). -/
def queuesReady (pr : Pair) (major minor : Nat) (b : Body) : Bool :=
  let r := rolesOf major minor b
  (srcPorts b r).all (fun q =>
    match (pr.queue q).entries with
    | e :: _ => e.st != .filling
    | [] => false) &&
  (match dstPort b.head.dst r.d with
   | none => true
   | some q =>
     if major == 0x81 then (pr.queue q).addrs.length < (pr.queue q).depth
     else (pr.queue q).entries.length < (pr.queue q).depth)

/-- Whether an instruction waits for a load to fill the front entry of a queue that it pops. -/
def fillAwaited (pr : Pair) (major minor : Nat) (b : Body) : Bool :=
  (srcPorts b (rolesOf major minor b)).any fun q => (pr.queue q).entries.head?.any fun e => e.st == .filling

/-- The poisoned front entries that a head would pop with a poisoned lane effective (R64 to R66): the queue, the
entry and the lanes. Of two such entries that of the first source field traps, the model's choice (log entry 90). -/
def poisonedPops (g : Group) (p : Path) (pr : Pair) (major minor : Nat) (b : Body) : Option (Nat × Entry × Mask) :=
  let gd := b.head.guard
  let gm := if gd.neg then ~~~(g.pred gd.pred.toNat) else g.pred gd.pred.toNat
  let eff := if is64 major minor b then p.exec &&& gm else p.exec
  (srcPorts b (rolesOf major minor b)).findSome? fun q =>
    match (pr.queue q).entries with
    | e :: _ =>
      if e.st = .poisoned then
        (match e.record with
         | none => some (q, e, eff)
         | some _ => if eff &&& e.faulted != 0 then some (q, e, eff &&& e.faulted) else none)
      else none
    | [] => none

end Sys2Proof.Machine
end

