-- ==== Sys2Proof/Machine/Issue.lean ====
section
/-!
DEFINITION. Issue: starting a run, going from slot to slot, the end of a run and its boundary, taken transfers, and
the counting of issued work (R29 to R34, R42, R51, R58, R194, R434).
-/

namespace Sys2Proof.Machine

/-! ### Boundaries -/

/-- A stop record enters a context's debug ring, with the event bit and its message (R456). Word 0x08 is laid out as
word 0x10 of R421, with the context in bits [47:44] and the stream in bits [49:48]: 0 access, 1 execute (as in record 0x0B), 2 Press
(log entry 76). -/
def stopRecord (s : State) (c group stream : Nat) (pc : Dword) (n : Nat) : State :=
  let x := getCtx s c
  let word := group + c % 16 * 2 ^ 44 + stream * 2 ^ 48
  let s := physWrite s (x.debugBase + 64 * (x.debugIndex % 64))
    (leBytes 8 s.tick ++ leBytes 8 word ++ leBytes 8 pc.toNat ++ leBytes 8 n ++ leBytes 32 0)
  setEvent (updCtx s c fun x => { x with debugIndex := x.debugIndex + 1 }) 4

/-- A path stops at its boundary (R341, R456). -/
def debugStop (s : State) (gid entry n : Nat) (pc : Dword) : State :=
  match findGroup s gid with
  | none => s
  | some g =>
    let s := updPath s gid entry fun p => { p with st := .waiting, stopped := true, stopAsked := false }
    stopRecord s g.ctx (groupWord (some (g, entry))) (if g.stream = .access then 0 else 1) pc n

/-- A path stands at a run boundary (R51, R52, R339): a cause that is pending for it is taken, unless a sibling is
in the handler; a returned cause, or one delivered from the Press, waits while the path itself is in the handler. -/
def atBoundary (s : State) (gid entry : Nat) : State :=
  match findGroup s gid with
  | none => s
  | some g =>
    match g.pending.find? fun x => x.1 == entry with
    | none => s
    | some (_, causes) =>
      let returned := 2 ≤ (causes.headD ⟨0, 0, 0, 0, 0, 0, 0, false⟩).cls
      if g.sup.isNone || (g.sup = some entry && !returned) then
        let s := updGroup s gid fun g => { g with pending := g.pending.eraseP fun x => x.1 == entry }
        takeTrap s gid entry causes (g.path entry).pc
      else if g.sup = some entry then s
      else updPath s gid entry fun p => { p with st := .waiting }

/-- A cause put in front of what is pending for a path, and taken if the boundary allows it. -/
def raiseAt (s : State) (gid entry : Nat) (causes : List Cause) : State :=
  atBoundary (updGroup s gid fun g => { g with pending := (entry, causes) :: g.pending }) gid entry

/-- A unit free to choose its next path. -/
def freeUnit (s : State) (core unit : Nat) : State :=
  let s := dropRun s core unit
  if s.issuer = some (core, unit) then { s with issuer := none } else s

/-- A path that stands at a boundary stops there when that has been asked for (R453, R456). -/
def stopIfAsked (s : State) (gid entry : Nat) : State :=
  match findGroup s gid with
  | none => s
  | some g => if (g.path entry).stopAsked then debugStop s gid entry (2 ^ 32 - 1) (g.path entry).pc else s

/-- The end of a run (R29, R51): the path stands at its next head, boundary causes are taken, and a path that a
breakpoint or the debugger stops, stops. A group of an Ending context ends here (R411). -/
def finishRun (s : State) (sl : Slot) (next : Dword) : State :=
  let run := (findRun s sl.run.core sl.run.unit).getD sl.run
  let gid := run.gid
  let e := run.entry
  let s := freeUnit s sl.run.core sl.run.unit
  let s := updPath s gid e fun p => { p with pc := next, st := .ready, popSince := none }
  if (getCtx s sl.g.ctx).st = .ending then groupEnd s gid
  else
  let s := if run.causes = [] then atBoundary s gid e else raiseAt s gid e run.causes
  match run.brk with
  | some (n, pc) => debugStop s gid e n pc
  | none => stopIfAsked s gid e

/-- The head of a run waits without effect (R31). -/
def headWaits (s : State) (sl : Slot) : State :=
  let s := freeUnit s sl.run.core sl.run.unit
  stopIfAsked (updPath s sl.run.gid sl.run.entry fun p => { p with st := .waiting }) sl.run.gid sl.run.entry

/-- A precise trap at the head: the saved PC is the head, and no slot of the run has executed (R51). -/
def preciseTrap (s : State) (sl : Slot) (c : Cause) : State :=
  let s := freeUnit s sl.run.core sl.run.unit
  let s := updPath s sl.run.gid sl.run.entry fun p => { p with pc := sl.run.head, st := .ready }
  stopIfAsked (raiseAt s sl.run.gid sl.run.entry [c]) sl.run.gid sl.run.entry

/-! ### Counting issued work (R434, R436) -/

/-- The conversion counter of a target code (R434). -/
def cvtCounter (t : Nat) : Nat := if t ≤ 7 then 24 else t + 17

/-- The lane counters that an issued 64-lane instruction adds to (R434). -/
def laneCounts (access : Bool) (major minor : Nat) (b : Body) (n : Nat) : List (Nat × Nat) :=
  let int (fmt : BitVec 5) : List (Nat × Nat) :=
    let two := if major == 0x20 && minor == 4 then 2 else 1
    if access then [(22, two * n)]
    else if isInt32 fmt then [(20, two * n)]
    else [(21, (if fmt.toNat ≤ 1 then 4 else 2) * n)]
  let flt (fmt : BitVec 5) : List (Nat × Nat) :=
    let two := if major == 0x23 && 3 ≤ minor && minor ≤ 5 then 2 else 1
    if fmt = 8 then [(16, two * n)] else if fmt = 9 then [(17, 2 * two * n)] else [(18, 2 * two * n)]
  match b with
  | .a f =>
    if 0x20 ≤ major && major ≤ 0x22 then int f.fmt
    else if major == 0x23 || major == 0x24 then flt f.fmt
    else if major == 0x25 then [(19, n)]
    else if major == 0x26 then
      [(if minor == 3 then (if f.fmt.toNat ≤ 7 then 24 else 25) else cvtCounter f.fmt.toNat, n)]
    else if major == 0x27 then [(if minor == 0 then 35 else 25, n)]
    else if major == 0x28 || major == 0x29 then [(23, n)]
    else []
  | .i f =>
    if 0x60 ≤ major && major ≤ 0x62 then int f.fmt
    else if major == 0x63 || major == 0x64 then flt f.fmt
    else []
  | _ => []

/-- The slot counter of the stream, then the lane counters unless a boundary cause cancelled the instruction. -/
def countIssue (s : State) (sl : Slot) (i : Instr) (cancelled : Bool) : State :=
  let s := assayAdd s sl.g.ctx (if sl.access then 51 else 50) 1
  match parts i with
  | some (M, m, b) =>
    if cancelled || !is64 M m b then s
    else (laneCounts sl.access M m b (popMask (sl.eff b.head.guard))).foldl (fun s x => assayAdd s sl.g.ctx x.1 x.2) s
  | none => s

/-! ### From slot to slot -/

/-- What an instruction does to its run. -/
inductive Act where
  /-- it has its effect, and the next slot follows -/
  | done (s : State)
  /-- its head waits -/
  | wait (s : State)
  /-- it raises a boundary cause; the state holds what it does nevertheless (R51) -/
  | cause (s : State) (c : Cause)
  /-- it is a transfer taken to a target -/
  | goto (s : State) (target : Dword)
  /-- it goes to a PC whose target bit is not checked (R39, R344) -/
  | jump (s : State) (target : Dword)
  /-- its last lanes have ended: the path does not go on -/
  | leave (s : State)
  /-- it parks at its head, which has not issued (R39) -/
  | park (s : State)
  /-- nothing issues in this cycle, and the slot is tried again (R115, R344, R351) -/
  | stall

/-- The unit's run moved to its next slot, or ended behind its last. -/
def advance (s : State) (sl : Slot) : State :=
  if sl.last then finishRun s sl (nextPc sl.pc)
  else updRun s sl.run.core sl.run.unit fun r => { r with idx := r.idx + 1 }

/-- A boundary cause noted in the run (R51). -/
def noteCause (s : State) (sl : Slot) (c : Cause) : State :=
  updRun s sl.run.core sl.run.unit fun r => { r with causes := r.causes ++ [c] }

/-- Whether a taken transfer to a target raises BADTARGET (R32, R193, R194): a bad PC form, or a clear target bit. A
line that cannot be fetched raises its own cause at the target's head. -/
def badTargetAt (s : State) (core c : Nat) (target : Dword) : Bool :=
  if !pcOk target then true
  else
    match fetchLine s core c (pcLine target) with
    | .ok (_, d) => !targetMarked d target
    | .error _ => false

@[inherit_doc badTargetAt] def badTarget (s : State) (g : Group) (target : Dword) : Bool :=
  badTargetAt s g.core g.ctx target

/-- BADTARGET of a transfer: it has no effect, and the saved PC is its own (R32). A run that has raised boundary causes takes those
alone, with the transfer's PC saved, and its BADTARGET after their ERET (log entry 89). A breakpoint of the run stops the path (R341). -/
def badTargetTrap (s : State) (sl : Slot) (target : Dword) : State :=
  let c : Cause := ⟨0x03, 0, sl.pc, target, sl.p.exec, 0, 0, false⟩
  let s := noteCause s sl c
  let run := (findRun s sl.run.core sl.run.unit).getD sl.run
  let s := freeUnit s sl.run.core sl.run.unit
  let s := updPath s sl.run.gid sl.run.entry fun p => { p with pc := sl.pc, st := .ready, popSince := none }
  let s := raiseAt s sl.run.gid sl.run.entry (if run.causes.length ≤ 1 then [c] else run.causes.dropLast)
  match run.brk with
  | some (n, pc) => debugStop s sl.run.gid sl.run.entry n pc
  | none => stopIfAsked s sl.run.gid sl.run.entry

/-- The unit's record of what issued last (R454), with the banks that it uses (R44). -/
def noteIssued (s : State) (sl : Slot) : State :=
  let banks := ((sl.run.slots[sl.run.idx]?).map fun x => instrBanks x.2).getD 0
  s.onExec fun e =>
    { e with scheds := e.scheds.map fun u =>
        if u.core == sl.run.core && u.unit == sl.run.unit then
          { u with issued := some (sl.run.gid, sl.run.entry), banks := u.banks ||| banks }
        else u }

/-- What a head that has not issued leaves: the records of issue stand as they were. -/
def unissued (s t : State) : State := t.onExec fun e => { e with scheds := s.exec.scheds }

/-- The continuation of an instruction's act: counting, the next slot, the boundary or the transfer. The boundary causes of a run whose
EXIT ends its path are dropped with it, the model's choice (R51; log entry 109). -/
def settle (s : State) (sl : Slot) (i : Instr) : Act → State
  | .done t => advance (countIssue t sl i false) sl
  | .wait t => headWaits (unissued s t) sl
  | .cause t c => advance (noteCause (countIssue t sl i true) sl c) sl
  | .goto t target =>
    if badTarget (noteIssued s sl) sl.g target then badTargetTrap (noteIssued s sl) sl target
    else finishRun (countIssue t sl i false) sl target
  | .jump t target => finishRun (countIssue t sl i false) sl target
  | .leave t => freeUnit (countIssue t sl i false) sl.run.core sl.run.unit
  | .park t => stopIfAsked (freeUnit (unissued s t) sl.run.core sl.run.unit) sl.run.gid sl.run.entry
  | .stall => { s with issuer := none }

/-- The POISON trap of a head (R65): the lanes, and the record's index or 0xFFFF. -/
def poisonTrap (s : State) (sl : Slot) (e : Entry) (lanes : Mask) : State :=
  preciseTrap s sl ⟨0x07, 0, sl.pc, 0, lanes, 0, e.record.getD 0xFFFF, true⟩

/-- The bank of a control queue of a pair is in use by the partition in this cycle, and no issue cycle of it is taken (R44). -/
def bankBusy (s : State) (pr : Pair) (q : Nat) : Bool :=
  let u := schedOf s pr.core pr.part
  u.banks.testBit (q % 4) && !u.taken

/-- Whether the pop of a control entry by a head of an access group finds its bank in use (R44). -/
def popDelayed (s : State) (g : Group) (pr : Pair) (major minor : Nat) (b : Body) : Bool :=
  g.stream == .access && (srcPorts b (rolesOf major minor b)).any fun q => (pr.queue q).kind == 2 && bankBusy s pr q

/-- The head whose pop is delayed waits for at most four cycles; in the fifth it takes the partition's next issue cycle (R44). -/
def popWaits (s : State) (sl : Slot) : State :=
  let since := sl.p.popSince.getD s.exec.cycle
  if since + 4 ≤ s.exec.cycle then
    updSched s sl.pair.core sl.pair.part fun u => { u with thefts := u.thefts + 1, taken := true }
  else headWaits (updPath s sl.run.gid sl.run.entry fun p => { p with popSince := some since }) sl

/-- What stands before an instruction's own effect at a head (R31, R34, R44, R62, R64): a pending long-latency write, a
queue or a bank holds it, or a poisoned entry traps. -/
def headGate (s : State) (sl : Slot) (i : Instr) : Option State :=
  if sl.run.idx ≠ 0 then none
  else if hazardHolds s sl.g sl.run.slots then some (headWaits s sl)
  else
    match parts i with
    | none => none
    | some (M, m, b) =>
      if !queuesReady sl.pair M m b then some (headWaits s sl)
      else
        match poisonedPops sl.g sl.p sl.pair M m b with
        | some (_, e, lanes) => some (poisonTrap s sl e lanes)
        | none => if popDelayed s sl.g sl.pair M m b then some (popWaits s sl) else none

/-- The issue of an instruction word by the unit that holds the issuing run. -/
def issueWord (s : State) (i : Instr) (act : State → Slot → Act) : Host.Outcome State Fault Refusal :=
  match currentSlot s with
  | none => .refused .noIssuer
  | some sl =>
    match headGate s sl i with
    | some t => .next t
    | none => .next (settle s sl i (act (noteIssued s sl) sl))

/-! ### Starting a run -/

/-- The slice entry's target bit, checked before the group's first head (R32, R194); none when it is marked. -/
def entryCause (s : State) (g : Group) (p : Path) : Option Cause :=
  if p.entered then none
  else
    match fetchLine s g.core g.ctx (pcLine p.pc) with
    | .error _ => none
    | .ok (_, d) =>
      if pcOk p.pc && targetMarked d p.pc then none else some ⟨0x03, 0, p.pc, p.pc, p.exec, 0, 0, false⟩

/-- A unit starts the run at a path's PC (R30): the run is fetched and checked whole; a failed check is taken at the
head, and otherwise the unit holds the run and issues its first slot. TRLANES of a cause that belongs to no lane is the path's EXEC,
the model's choice (log entry 89). -/
def startRun (s : State) (core unit gid entry : Nat) : State :=
  match findGroup s gid with
  | none => s
  | some g =>
    match findPair s g.pair with
    | none => s
    | some pr =>
      let p := g.path entry
      if g.pending.any (fun x => x.1 == entry) && g.sup != some entry then atBoundary s gid entry
      else
        match entryCause s g p with
        | some c => raiseAt s gid entry [c]
        | none =>
          let s := updPath s gid entry fun p => { p with entered := true }
          match fetchRun s g pr entry p.pc with
          | (s, .trap code marks addr) => raiseAt s gid entry [⟨code, 0, p.pc, addr, p.exec, marks, 0, false⟩]
          | (s, .ok slots) =>
            let run : Run := ⟨core, unit, gid, entry, p.pc, slots, 0, [none, none, none], [], none, none⟩
            let s := s.onExec fun e => { e with runs := e.runs ++ [run] }
            let s := updPath s gid entry fun p => { p with st := .ready }
            { s with issuer := some (core, unit) }

end Sys2Proof.Machine
end

