-- ==== Sys2Proof/Machine/VecInt.lean ====
section
/-!
DEFINITION. Vector integer instructions: majors 0x20 to 0x22 and their immediate forms (R244 to R252).
-/

namespace Sys2Proof.Machine

/-- The ports that an instruction's sources name, each popped once (R62). -/
def wordPorts (i : Instr) : List Nat :=
  match parts i with
  | some (M, m, b) => srcPorts b (rolesOf M m b)
  | none => []

/-- A 64-lane instruction with a vector destination: its result is written in the effective lanes, and its source
ports are popped (R58, R63). -/
def issueVec (i : Instr) (h : Head) (v : Slot → Lanes) (s : State) : Host.Outcome State Fault Refusal :=
  issueWord s i fun s sl => .done (popPorts (writeVec s sl h.dst (sl.eff h.guard) (v sl)) sl (wordPorts i))

/-- A 64-lane instruction with a predicate destination: a masked write (R252). -/
def issuePred (i : Instr) (h : Head) (v : Slot → Mask) (s : State) : Host.Outcome State Fault Refusal :=
  issueWord s i fun s sl => .done (popPorts (writePredLanes s sl h.dst (sl.eff h.guard) (v sl)) sl (wordPorts i))

/-! ### Elements (R244) -/

/-- The element width of a code in a lane of `w` bits, and how many elements a lane holds. -/
def elemWidth (fmt : BitVec 5) (w : Nat) : Nat := if fmt.toNat ≤ 1 then 8 else if fmt.toNat ≤ 3 then 16 else w
def elemCount (fmt : BitVec 5) : Nat := if fmt.toNat ≤ 1 then 4 else if fmt.toNat ≤ 3 then 2 else 1

/-- Whether a code is signed (R244). -/
def codeSigned (fmt : BitVec 5) : Bool := fmt.toNat % 2 == 0

/-- An element's value by signedness. -/
def elemVal (k : Nat) (signed : Bool) (x : Nat) : Int := if signed then sextNat k x else (x % 2 ^ k : Nat)

/-- An exact result narrowed: wrapped modulo 2^k, or clamped to the element's range (R229, R245). -/
def narrowInt (k : Nat) (signed sat : Bool) (z : Int) : Nat :=
  if sat then IntFmt.encode ⟨k, signed⟩ (IntFmt.clamp ⟨k, signed⟩ z) else wrapInt k z

/-- A lane computed element by element. -/
def elemMap (fmt : BitVec 5) (w : Nat) (op : Nat → Nat → Nat → Nat → Nat) (a b c : Dword) : Dword :=
  let k := elemWidth fmt w
  BitVec.ofNat 64 ((List.range (elemCount fmt)).foldl (fun r j =>
    r + op k (bitsNat a.toNat (k * j) k) (bitsNat b.toNat (k * j) k) (bitsNat c.toNat (k * j) k) % 2 ^ k * 2 ^ (k * j)) 0)

/-- Every lane computed element by element from three sources. -/
def lanes3 (fmt : BitVec 5) (w : Nat) (op : Nat → Nat → Nat → Nat → Nat) (a b c : Lanes) : Lanes :=
  Lanes.build fun i => elemMap fmt w op (a.get i) (b.get i) (c.get i)

/-- The wide immediate of format A as an integer, and the immediate of format I as a lane (R200). -/
def immI (sl : Slot) (f : FmtI) : Lanes := List.replicate 64 (laneOfInt sl.w f.imm.toInt)

/-- An arithmetic result by an exact integer function of two elements (R245). -/
def arith (fmt : BitVec 5) (sat : Bool) (g : Int → Int → Int → Int) (k a b c : Nat) : Nat :=
  let sg := codeSigned fmt
  narrowInt k sg sat (g (elemVal k sg a) (elemVal k sg b) (elemVal k sg c))

/-- The high half of the 2W-bit product (R245). -/
def mulHigh (fmt : BitVec 5) (k a b _c : Nat) : Nat :=
  let sg := codeSigned fmt
  wrapInt k (elemVal k sg a * elemVal k sg b / ((2 ^ k : Nat) : Int))

/-- The lesser or the greater by code (R245). -/
def minMax (fmt : BitVec 5) (greater : Bool) (k a b _c : Nat) : Nat :=
  let sg := codeSigned fmt
  if (elemVal k sg a < elemVal k sg b) != greater then a else b

/-! ### Bits (R247 to R249) -/

def shlBits (k a b _c : Nat) : Nat := if k ≤ b then 0 else a * 2 ^ b
def shrBits (k a b _c : Nat) : Nat := if k ≤ b then 0 else a / 2 ^ b
def sarBits (k a b _c : Nat) : Nat := wrapInt k (sextNat k a / ((2 ^ min b k : Nat) : Int))
def rotBits (k a b _c : Nat) : Nat := let n := b % k; a * 2 ^ n % 2 ^ k + a / 2 ^ (k - n)

/-- The bit order reversed. -/
def revBits (k a : Nat) : Nat :=
  (List.range k).foldl (fun r j => if a.testBit j then r + 2 ^ (k - 1 - j) else r) 0

/-- Leading and trailing zeros; the width for 0. -/
def clzBits (k a : Nat) : Nat := ((List.range k).find? fun j => a.testBit (k - 1 - j)).getD k
def ctzBits (k a : Nat) : Nat := ((List.range k).find? fun j => a.testBit j).getD k

/-- pos and len of a control word, cut to the width (R248). -/
def fieldLen (k c : Nat) : Nat × Nat :=
  let pos := c % 64
  let len := bitsNat c 8 7
  (pos, if k ≤ pos then 0 else min len (k - pos))

/-- VBFX (R248). -/
def extractField (fmt : BitVec 5) (k a b _c : Nat) : Nat :=
  let (pos, ln) := fieldLen k b
  if ln = 0 then 0
  else
    let v := bitsNat a pos ln
    if codeSigned fmt then wrapInt k (sextNat ln v) else v

/-- VBFI (R248). -/
def insertField (k a b c : Nat) : Nat :=
  let (pos, ln) := fieldLen k c
  if ln = 0 then a else a - bitsNat a pos ln * 2 ^ pos + b % 2 ^ ln * 2 ^ pos

/-- VPERMB (R249). -/
def permuteBytes (k a b c : Nat) : Nat :=
  let n := k / 8
  let sel (j : Nat) : Nat := if k = 32 then bitsNat c (4 * j) 4 else bitsNat c (8 * j) 5
  (List.range n).foldl (fun r j =>
    let v := sel j
    let byte := if 2 * n ≤ v then 0 else if v < n then bitsNat a (8 * v) 8 else bitsNat b (8 * (v - n)) 8
    r + byte * 2 ^ (8 * j)) 0

/-! ### The instructions -/

/-- The three sources of a word of format A. -/
def Slot.srcA (sl : Slot) (f : FmtA) : Lanes := sl.lanes f.wide.toInt f.a
def Slot.srcB (sl : Slot) (f : FmtA) : Lanes := sl.lanes f.wide.toInt f.b
def Slot.srcC (sl : Slot) (f : FmtA) : Lanes := sl.lanes f.wide.toInt f.c

/-- A word of format A computed element by element. -/
def intA (i : Instr) (f : FmtA) (op : Nat → Nat → Nat → Nat → Nat) : State → Host.Outcome State Fault Refusal :=
  issueVec i f.toHead fun sl => lanes3 f.fmt sl.w op (sl.srcA f) (sl.srcB f) (sl.srcC f)

/-- A word of format I computed element by element: the immediate is source B, or source A for VMOV. -/
def intI (i : Instr) (f : FmtI) (op : Nat → Nat → Nat → Nat → Nat) : State → Host.Outcome State Fault Refusal :=
  issueVec i f.toHead fun sl => lanes3 f.fmt sl.w op (sl.lanes 0 f.a) (immI sl f) Lanes.zero

/-- VADD: a + b, with optional saturation (R245). -/
def execVadd (f : FmtA) (s : State) : Host.Outcome State Fault Refusal :=
  intA (.vadd f) f (arith f.fmt (f.modi.getLsbD 0) fun a b _ => a + b) s

/-- VSUB: a − b (R245). -/
def execVsub (f : FmtA) (s : State) : Host.Outcome State Fault Refusal :=
  intA (.vsub f) f (arith f.fmt (f.modi.getLsbD 0) fun a b _ => a - b) s

/-- VMUL: a × b (R245). -/
def execVmul (f : FmtA) (s : State) : Host.Outcome State Fault Refusal :=
  intA (.vmul f) f (arith f.fmt (f.modi.getLsbD 0) fun a b _ => a * b) s

/-- VMULH: the high half of the product (R245). -/
def execVmulh (f : FmtA) (s : State) : Host.Outcome State Fault Refusal :=
  intA (.vmulh f) f (mulHigh f.fmt) s

/-- VMAD: a × b + c (R245). -/
def execVmad (f : FmtA) (s : State) : Host.Outcome State Fault Refusal :=
  intA (.vmad f) f (arith f.fmt (f.modi.getLsbD 0) fun a b c => a * b + c) s

/-- VMIN: the lesser by code (R245). -/
def execVmin (f : FmtA) (s : State) : Host.Outcome State Fault Refusal :=
  intA (.vmin f) f (minMax f.fmt false) s

/-- VMAX: the greater by code (R245). -/
def execVmax (f : FmtA) (s : State) : Host.Outcome State Fault Refusal :=
  intA (.vmax f) f (minMax f.fmt true) s

/-- VABS: the magnitude (R245). -/
def execVabs (f : FmtA) (s : State) : Host.Outcome State Fault Refusal :=
  intA (.vabs f) f (arith f.fmt (f.modi.getLsbD 0) fun a _ _ => |a|) s

/-- VNEG: −a (R245). -/
def execVneg (f : FmtA) (s : State) : Host.Outcome State Fault Refusal :=
  intA (.vneg f) f (arith f.fmt (f.modi.getLsbD 0) fun a _ _ => -a) s

/-- VAND (R247). -/
def execVand (f : FmtA) (s : State) : Host.Outcome State Fault Refusal :=
  intA (.vand f) f (fun _ a b _ => a &&& b) s

/-- VOR (R247). -/
def execVor (f : FmtA) (s : State) : Host.Outcome State Fault Refusal :=
  intA (.vor f) f (fun _ a b _ => a ||| b) s

/-- VXOR (R247). -/
def execVxor (f : FmtA) (s : State) : Host.Outcome State Fault Refusal :=
  intA (.vxor f) f (fun _ a b _ => a ^^^ b) s

/-- VNOT (R247). -/
def execVnot (f : FmtA) (s : State) : Host.Outcome State Fault Refusal :=
  intA (.vnot f) f (fun k a _ _ => 2 ^ k - 1 - a) s

/-- VSHL: 0 when n ≥ W (R247). -/
def execVshl (f : FmtA) (s : State) : Host.Outcome State Fault Refusal :=
  intA (.vshl f) f shlBits s

/-- VSHR: 0 when n ≥ W (R247). -/
def execVshr (f : FmtA) (s : State) : Host.Outcome State Fault Refusal :=
  intA (.vshr f) f shrBits s

/-- VSAR: W sign bits when n ≥ W (R247). -/
def execVsar (f : FmtA) (s : State) : Host.Outcome State Fault Refusal :=
  intA (.vsar f) f sarBits s

/-- VROT: rotated left by n mod W (R247). -/
def execVrot (f : FmtA) (s : State) : Host.Outcome State Fault Refusal :=
  intA (.vrot f) f rotBits s

/-- VBFX (R248). -/
def execVbfx (f : FmtA) (s : State) : Host.Outcome State Fault Refusal :=
  intA (.vbfx f) f (extractField f.fmt) s

/-- VBFI (R248). -/
def execVbfi (f : FmtA) (s : State) : Host.Outcome State Fault Refusal :=
  intA (.vbfi f) f insertField s

/-- VPOPC (R247). -/
def execVpopc (f : FmtA) (s : State) : Host.Outcome State Fault Refusal :=
  intA (.vpopc f) f (fun k a _ _ => popNat k a) s

/-- VCLZ (R247). -/
def execVclz (f : FmtA) (s : State) : Host.Outcome State Fault Refusal :=
  intA (.vclz f) f (fun k a _ _ => clzBits k a) s

/-- VCTZ (R247). -/
def execVctz (f : FmtA) (s : State) : Host.Outcome State Fault Refusal :=
  intA (.vctz f) f (fun k a _ _ => ctzBits k a) s

/-- VBREV (R247). -/
def execVbrev (f : FmtA) (s : State) : Host.Outcome State Fault Refusal :=
  intA (.vbrev f) f (fun k a _ _ => revBits k a) s

/-- VPERMB (R249). -/
def execVpermb (f : FmtA) (s : State) : Host.Outcome State Fault Refusal :=
  intA (.vpermb f) f permuteBytes s

/-- VMOV (R247). -/
def execVmov (f : FmtA) (s : State) : Host.Outcome State Fault Refusal :=
  intA (.vmov f) f (fun _ a _ _ => a) s

/-- The carry chain of R246: results and carries of every lane. -/
def carryLanes (w : Nat) (op : Nat → Nat → Nat → Nat → Nat × Bool) (cin : Mask) (a b : Lanes) : List (Nat × Bool) :=
  (List.range 64).map fun i => op w (a.get i).toNat (b.get i).toNat (if cin.getLsbD i then 1 else 0)

/-- VADDC and VSUBB: results and carries written in the effective lanes only (R246). -/
def issueCarry (i : Instr) (h : Head) (pc : Nat) (op : Nat → Nat → Nat → Nat → Nat × Bool) (ab : Slot → Lanes × Lanes)
    (s : State) : Host.Outcome State Fault Refusal :=
  issueWord s i fun s sl =>
    let eff := sl.eff h.guard
    let r := carryLanes sl.w op (sl.g.pred pc) (ab sl).1 (ab sl).2
    let s := writeVec s sl h.dst eff (Lanes.build fun k => BitVec.ofNat 64 (r.getD k (0, false)).1)
    let s := updGroup s sl.g.gid fun g =>
      g.setPred pc (mergeMask eff (maskOf fun k => (r.getD k (0, false)).2) (g.pred pc))
    .done (popPorts s sl (wordPorts i))

/-- VADDC: carry in from and out to P[pc] (R246). -/
def execVaddc (f : FmtA) (s : State) : Host.Outcome State Fault Refusal :=
  issueCarry (.vaddc f) f.toHead f.modi.toNat addCarry (fun sl => (sl.srcA f, sl.srcB f)) s

/-- VSUBB: borrow in from and out to P[pc] (R246). -/
def execVsubb (f : FmtA) (s : State) : Host.Outcome State Fault Refusal :=
  issueCarry (.vsubb f) f.toHead f.modi.toNat subBorrow (fun sl => (sl.srcA f, sl.srcB f)) s

/-- VSEL: a where bit i of P[c] is set, b elsewhere (R250). -/
def execVsel (f : FmtA) (s : State) : Host.Outcome State Fault Refusal :=
  issueVec (.vsel f) f.toHead (fun sl => Lanes.merge (sl.predSrc f.c) (sl.srcA f) (sl.srcB f)) s

/-- The relation bits of VCMP (R251). -/
def cmpMask (fmt : BitVec 5) (w code : Nat) (a b : Lanes) : Mask :=
  maskOf fun i => intRel code (codeSigned fmt) w (a.get i).toNat (b.get i).toNat

/-- The bits of VTEST (R251). -/
def testMask (z : Bool) (a b : Lanes) : Mask := maskOf fun i => (a.get i &&& b.get i == 0) == z

/-- VCMP (R251, R253). -/
def execVcmp (f : FmtA) (s : State) : Host.Outcome State Fault Refusal :=
  issuePred (.vcmp f) f.toHead (fun sl => cmpMask f.fmt sl.w f.modi.toNat (sl.srcA f) (sl.srcB f)) s

/-- VTEST (R251). -/
def execVtest (f : FmtA) (s : State) : Host.Outcome State Fault Refusal :=
  issuePred (.vtest f) f.toHead (fun sl => testMask (f.modi.getLsbD 0) (sl.srcA f) (sl.srcB f)) s

/-- VADD with an immediate: a + b, with optional saturation (R245). -/
def execVaddI (f : FmtI) (s : State) : Host.Outcome State Fault Refusal :=
  intI (.vaddI f) f (arith f.fmt (f.modi.getLsbD 0) fun a b _ => a + b) s

/-- VSUB with an immediate: a − b (R245). -/
def execVsubI (f : FmtI) (s : State) : Host.Outcome State Fault Refusal :=
  intI (.vsubI f) f (arith f.fmt (f.modi.getLsbD 0) fun a b _ => a - b) s

/-- VMUL with an immediate: a × b (R245). -/
def execVmulI (f : FmtI) (s : State) : Host.Outcome State Fault Refusal :=
  intI (.vmulI f) f (arith f.fmt (f.modi.getLsbD 0) fun a b _ => a * b) s

/-- VMULH with an immediate: the high half of the product (R245). -/
def execVmulhI (f : FmtI) (s : State) : Host.Outcome State Fault Refusal :=
  intI (.vmulhI f) f (mulHigh f.fmt) s

/-- VMIN with an immediate: the lesser by code (R245). -/
def execVminI (f : FmtI) (s : State) : Host.Outcome State Fault Refusal :=
  intI (.vminI f) f (minMax f.fmt false) s

/-- VMAX with an immediate: the greater by code (R245). -/
def execVmaxI (f : FmtI) (s : State) : Host.Outcome State Fault Refusal :=
  intI (.vmaxI f) f (minMax f.fmt true) s

/-- VAND with an immediate (R247). -/
def execVandI (f : FmtI) (s : State) : Host.Outcome State Fault Refusal :=
  intI (.vandI f) f (fun _ a b _ => a &&& b) s

/-- VOR with an immediate (R247). -/
def execVorI (f : FmtI) (s : State) : Host.Outcome State Fault Refusal :=
  intI (.vorI f) f (fun _ a b _ => a ||| b) s

/-- VXOR with an immediate (R247). -/
def execVxorI (f : FmtI) (s : State) : Host.Outcome State Fault Refusal :=
  intI (.vxorI f) f (fun _ a b _ => a ^^^ b) s

/-- VSHL with an immediate: 0 when n ≥ W (R247). -/
def execVshlI (f : FmtI) (s : State) : Host.Outcome State Fault Refusal :=
  intI (.vshlI f) f shlBits s

/-- VSHR with an immediate: 0 when n ≥ W (R247). -/
def execVshrI (f : FmtI) (s : State) : Host.Outcome State Fault Refusal :=
  intI (.vshrI f) f shrBits s

/-- VSAR with an immediate: W sign bits when n ≥ W (R247). -/
def execVsarI (f : FmtI) (s : State) : Host.Outcome State Fault Refusal :=
  intI (.vsarI f) f sarBits s

/-- VROT with an immediate: rotated left by n mod W (R247). -/
def execVrotI (f : FmtI) (s : State) : Host.Outcome State Fault Refusal :=
  intI (.vrotI f) f rotBits s

/-- VADDC with an immediate (R223, R246). -/
def execVaddcI (f : FmtI) (s : State) : Host.Outcome State Fault Refusal :=
  issueCarry (.vaddcI f) f.toHead (f.modi.toNat % 16) addCarry (fun sl => (sl.lanes 0 f.a, immI sl f)) s

/-- VSUBB with an immediate (R223, R246). -/
def execVsubbI (f : FmtI) (s : State) : Host.Outcome State Fault Refusal :=
  issueCarry (.vsubbI f) f.toHead (f.modi.toNat % 16) subBorrow (fun sl => (sl.lanes 0 f.a, immI sl f)) s

/-- VMOV of an immediate (R223). -/
def execVmovI (f : FmtI) (s : State) : Host.Outcome State Fault Refusal :=
  issueVec (.vmovI f) f.toHead (fun sl => immI sl f) s

/-- VCMP with an immediate (R223, R251). -/
def execVcmpI (f : FmtI) (s : State) : Host.Outcome State Fault Refusal :=
  issuePred (.vcmpI f) f.toHead (fun sl => cmpMask f.fmt sl.w f.modi.toNat (sl.lanes 0 f.a) (immI sl f)) s

/-- VTEST with an immediate (R223, R251). -/
def execVtestI (f : FmtI) (s : State) : Host.Outcome State Fault Refusal :=
  issuePred (.vtestI f) f.toHead (fun sl => testMask (f.modi.getLsbD 0) (sl.lanes 0 f.a) (immI sl f)) s

end Sys2Proof.Machine
end

