-- ==== Sys2Proof/Machine/VecFloat.lean ====
section
/-!
DEFINITION. Vector floating-point instructions: majors 0x23 to 0x25 and their immediate forms (R253 to R260).
-/

namespace Sys2Proof.Machine

/-- The float format of an element of a code: binary32, or a packed binary16 or BF16 (R255). -/
def floatFmt (fmt : BitVec 5) : FpFmt := if fmt = 8 then fp32 else if fmt = 9 then fp16 else bf16

/-- A lane computed element by element (R138, R254). -/
def floatMap (fmt : BitVec 5) (op : Nat → Nat → Nat → Nat) (a b c : Dword) : Dword :=
  if fmt = 8 then BitVec.ofNat 64 (op (a.toNat % 2 ^ 32) (b.toNat % 2 ^ 32) (c.toNat % 2 ^ 32))
  else
    let one (j : Nat) : Nat := op (bitsNat a.toNat (16 * j) 16) (bitsNat b.toNat (16 * j) 16) (bitsNat c.toNat (16 * j) 16)
    BitVec.ofNat 64 (one 0 + one 1 * 2 ^ 16)

/-- Every lane computed from three float sources. -/
def floats3 (fmt : BitVec 5) (op : Nat → Nat → Nat → Nat) (a b c : Lanes) : Lanes :=
  Lanes.build fun i => floatMap fmt op (a.get i) (b.get i) (c.get i)

/-- The sources of a word of format A as floats (R200). -/
def Slot.fltA (sl : Slot) (f : FmtA) : Lanes := sl.floats f.fmt f.wide f.a
def Slot.fltB (sl : Slot) (f : FmtA) : Lanes := sl.floats f.fmt f.wide f.b
def Slot.fltC (sl : Slot) (f : FmtA) : Lanes := sl.floats f.fmt f.wide f.c

/-- The immediate of format I for a float operand: the whole pattern (R257). -/
def immF (f : FmtI) : Lanes := List.replicate 64 (f.imm.zeroExtend 64)

/-- A word of format A computed element by element. -/
def fltOpA (i : Instr) (f : FmtA) (op : Nat → Nat → Nat → Nat) : State → Host.Outcome State Fault Refusal :=
  issueVec i f.toHead fun sl => floats3 f.fmt op (sl.fltA f) (sl.fltB f) (sl.fltC f)

/-- A word of format I computed element by element. -/
def fltOpI (i : Instr) (f : FmtI) (op : Nat → Nat → Nat → Nat) : State → Host.Outcome State Fault Refusal :=
  issueVec i f.toHead fun sl => floats3 f.fmt op (sl.floats f.fmt 0 f.a) (immF f) Lanes.zero

/-! ### Arithmetic (R255) -/

def fAdd (fmt : BitVec 5) (m : BitVec 2) (a b _c : Nat) : Nat := fpAdd (floatFmt fmt) (Rm.ofCode m) a b

/-- a − b: the exact difference rounded once. -/
def fSub (fmt : BitVec 5) (m : BitVec 2) (a b _c : Nat) : Nat :=
  let p := floatFmt fmt
  let md := Rm.ofCode m
  roundFp (Xr.add (md = .rdn) (p.decode a) (p.decode b).neg) p md false

def fMul (fmt : BitVec 5) (m : BitVec 2) (a b _c : Nat) : Nat := fpMul (floatFmt fmt) (Rm.ofCode m) a b

def fFma (negP negC : Bool) (fmt : BitVec 5) (m : BitVec 2) (a b c : Nat) : Nat :=
  fpFma (floatFmt fmt) (Rm.ofCode m) negP negC a b c

/-- VFMIN and VFMAX (R256). -/
def fMinMax (greater : Bool) (fmt : BitVec 5) (a b _c : Nat) : Nat :=
  let p := floatFmt fmt
  match (p.decode a).isNan, (p.decode b).isNan with
  | true, true => p.nanCode
  | true, false => b
  | false, true => a
  | false, false => if decide (totalKey p.width a < totalKey p.width b) != greater then a else b

/-- VFABS, VFNEG and VFCPYS by the new sign of a; a NaN gives the canonical NaN (R256). -/
def fSign (fmt : BitVec 5) (sg : Bool → Nat → Bool) (a b _c : Nat) : Nat :=
  let p := floatFmt fmt
  let k := p.expBits + p.manBits
  if (p.decode a).isNan then p.nanCode else a % 2 ^ k + p.signBit (sg (a.testBit k) b)

def signAbs (_ : Bool) (_ : Nat) : Bool := false
def signNeg (s : Bool) (_ : Nat) : Bool := !s

/-- The sign bit of b's encoding (R256). -/
def signCopy (fmt : BitVec 5) (_ : Bool) (b : Nat) : Bool := b.testBit ((floatFmt fmt).expBits + (floatFmt fmt).manBits)

/-! ### The instructions -/

/-- VFADD: a + b (R255). -/
def execVfadd (f : FmtA) (s : State) : Host.Outcome State Fault Refusal :=
  fltOpA (.vfadd f) f (fAdd f.fmt f.mode) s

/-- VFSUB: a − b (R255). -/
def execVfsub (f : FmtA) (s : State) : Host.Outcome State Fault Refusal :=
  fltOpA (.vfsub f) f (fSub f.fmt f.mode) s

/-- VFMUL: a × b (R255). -/
def execVfmul (f : FmtA) (s : State) : Host.Outcome State Fault Refusal :=
  fltOpA (.vfmul f) f (fMul f.fmt f.mode) s

/-- VFMA: a × b + c (R255). -/
def execVfma (f : FmtA) (s : State) : Host.Outcome State Fault Refusal :=
  fltOpA (.vfma f) f (fFma false false f.fmt f.mode) s

/-- VFMS: a × b − c (R255). -/
def execVfms (f : FmtA) (s : State) : Host.Outcome State Fault Refusal :=
  fltOpA (.vfms f) f (fFma false true f.fmt f.mode) s

/-- VFNMA: c − a × b (R255). -/
def execVfnma (f : FmtA) (s : State) : Host.Outcome State Fault Refusal :=
  fltOpA (.vfnma f) f (fFma true false f.fmt f.mode) s

/-- VFMIN (R256). -/
def execVfmin (f : FmtA) (s : State) : Host.Outcome State Fault Refusal :=
  fltOpA (.vfmin f) f (fMinMax false f.fmt) s

/-- VFMAX (R256). -/
def execVfmax (f : FmtA) (s : State) : Host.Outcome State Fault Refusal :=
  fltOpA (.vfmax f) f (fMinMax true f.fmt) s

/-- VFABS (R256). -/
def execVfabs (f : FmtA) (s : State) : Host.Outcome State Fault Refusal :=
  fltOpA (.vfabs f) f (fSign f.fmt signAbs) s

/-- VFNEG (R256). -/
def execVfneg (f : FmtA) (s : State) : Host.Outcome State Fault Refusal :=
  fltOpA (.vfneg f) f (fSign f.fmt signNeg) s

/-- VFCPYS (R256). -/
def execVfcpys (f : FmtA) (s : State) : Host.Outcome State Fault Refusal :=
  fltOpA (.vfcpys f) f (fSign f.fmt (signCopy f.fmt)) s

/-- The relation bits of VFCMP (R258). -/
def fcmpMask (code : Nat) (a b : Lanes) : Mask :=
  maskOf fun i => floatRel code ((a.get i).toNat % 2 ^ 32) ((b.get i).toNat % 2 ^ 32)

/-- VFCMP (R253, R258). -/
def execVfcmp (f : FmtA) (s : State) : Host.Outcome State Fault Refusal :=
  issuePred (.vfcmp f) f.toHead (fun sl => fcmpMask f.modi.toNat (sl.fltA f) (sl.fltB f)) s

/-- VFCLASS: the bit of each lane's class in the mask (R259). -/
def execVfclass (f : FmtA) (s : State) : Host.Outcome State Fault Refusal :=
  issuePred (.vfclass f) f.toHead (fun sl =>
    let m := (sl.uni32 f.wide.toInt f.b).toNat
    let a := sl.fltA f
    maskOf fun i => m.testBit (floatClass ((a.get i).toNat % 2 ^ 32))) s

/-- VRCP: 1 / a (R260). -/
def execVrcp (f : FmtA) (s : State) : Host.Outcome State Fault Refusal :=
  fltOpA (.vrcp f) f (fun a _ _ => specRcp a) s

/-- VRSQRT: 1 / √a (R260). -/
def execVrsqrt (f : FmtA) (s : State) : Host.Outcome State Fault Refusal :=
  fltOpA (.vrsqrt f) f (fun a _ _ => specRsqrt a) s

/-- VSQRT: √a in the mode (R260). -/
def execVsqrt (f : FmtA) (s : State) : Host.Outcome State Fault Refusal :=
  fltOpA (.vsqrt f) f (fun a _ _ => specSqrt (Rm.ofCode f.mode) a) s

/-- VEXP2: 2^a (R260). -/
def execVexp2 (f : FmtA) (s : State) : Host.Outcome State Fault Refusal :=
  fltOpA (.vexp2 f) f (fun a _ _ => specExp2 a) s

/-- VLOG2: log2 a (R260). -/
def execVlog2 (f : FmtA) (s : State) : Host.Outcome State Fault Refusal :=
  fltOpA (.vlog2 f) f (fun a _ _ => specLog2 a) s

/-- VSIN: sin(π·a) (R260). -/
def execVsin (f : FmtA) (s : State) : Host.Outcome State Fault Refusal :=
  fltOpA (.vsin f) f (fun a _ _ => specSin a) s

/-- VCOS: cos(π·a) (R260). -/
def execVcos (f : FmtA) (s : State) : Host.Outcome State Fault Refusal :=
  fltOpA (.vcos f) f (fun a _ _ => specCos a) s

/-- VTANH: tanh a (R260). -/
def execVtanh (f : FmtA) (s : State) : Host.Outcome State Fault Refusal :=
  fltOpA (.vtanh f) f (fun a _ _ => specTanh a) s

/-- VFADD with an immediate (R255, R257). -/
def execVfaddI (f : FmtI) (s : State) : Host.Outcome State Fault Refusal :=
  fltOpI (.vfaddI f) f (fAdd f.fmt f.mode) s

/-- VFSUB with an immediate (R255, R257). -/
def execVfsubI (f : FmtI) (s : State) : Host.Outcome State Fault Refusal :=
  fltOpI (.vfsubI f) f (fSub f.fmt f.mode) s

/-- VFMUL with an immediate (R255, R257). -/
def execVfmulI (f : FmtI) (s : State) : Host.Outcome State Fault Refusal :=
  fltOpI (.vfmulI f) f (fMul f.fmt f.mode) s

/-- VFMIN with an immediate (R255, R257). -/
def execVfminI (f : FmtI) (s : State) : Host.Outcome State Fault Refusal :=
  fltOpI (.vfminI f) f (fMinMax false f.fmt) s

/-- VFMAX with an immediate (R255, R257). -/
def execVfmaxI (f : FmtI) (s : State) : Host.Outcome State Fault Refusal :=
  fltOpI (.vfmaxI f) f (fMinMax true f.fmt) s

/-- VFCPYS with an immediate (R255, R257). -/
def execVfcpysI (f : FmtI) (s : State) : Host.Outcome State Fault Refusal :=
  fltOpI (.vfcpysI f) f (fSign f.fmt (signCopy f.fmt)) s

/-- VFCMP with an immediate (R257, R258). -/
def execVfcmpI (f : FmtI) (s : State) : Host.Outcome State Fault Refusal :=
  issuePred (.vfcmpI f) f.toHead (fun sl => fcmpMask (f.modi.toNat % 16) (sl.floats f.fmt 0 f.a) (immF f)) s

end Sys2Proof.Machine
end

