-- ==== Sys2Proof/Machine/Convert.lean ====
section
/-!
DEFINITION. Conversions and MX quantisation: majors 0x26 and 0x27 (R261 to R265).
-/

namespace Sys2Proof.Machine

/-- The element format of a code; a reserved code reads as INT32 (run fetch refuses it, R261). -/
def fmtOf (c : BitVec 5) : ElemFmt := (elemFmt c).getD (.int ⟨32, true⟩)

/-- The lanes of a source that holds elements of a code: a binary32 or packed 16-bit operand takes a float
immediate, and every other code an integer one (R200). -/
def Slot.coded (sl : Slot) (c : BitVec 5) (f : FmtA) (src : Src) : Lanes :=
  if isFloat3 c then sl.floats c f.wide src else sl.lanes f.wide.toInt src

/-- The bits that an element's encoding takes in its place (R129). -/
def ElemFmt.codeBits : ElemFmt → Nat
  | .int f => f.width
  | .fp f => f.width
  | .tapered n => n
  | .mx _ => 0
  | .e8m0 => 8

/-- The exact value of element `k` of a lane (R262). -/
def laneElem (t : ElemFmt) (k : Nat) (a : Dword) : Xr := t.decode (bitsNat a.toNat (t.laneWidth * k) t.codeBits)

/-- CVT: element 0 narrowed, with zero above it (R262). -/
def execCvt (f : FmtA) (s : State) : Host.Outcome State Fault Refusal :=
  issueVec (.cvt f) f.toHead (fun sl =>
    let c := BitVec.ofInt 5 (shortOf f.c)
    let a := sl.coded c f f.a
    Lanes.build fun i => BitVec.ofNat 64 (convertTo (laneElem (fmtOf c) 0 (a.get i)) (fmtOf f.fmt) f.mode)) s

/-- CVTN: b with element k replaced (R262). -/
def execCvtn (f : FmtA) (s : State) : Host.Outcome State Fault Refusal :=
  issueVec (.cvtn f) f.toHead (fun sl =>
    let a := sl.floats 8 f.wide f.a
    let b := sl.lanes f.wide.toInt f.b
    let t := fmtOf f.fmt
    let w := t.laneWidth
    let k := f.modi.toNat
    Lanes.build fun i =>
      let old := (b.get i).toNat
      let y := convertTo (fp32.decode (a.get i).toNat) t f.mode
      BitVec.ofNat 64 (old - bitsNat old (w * k) w * 2 ^ (w * k) + y * 2 ^ (w * k))) s

/-- CVTEF: the value narrowed and the residue register rewritten, both in effective lanes (R143, R262). -/
def execCvtef (f : FmtA) (s : State) : Host.Outcome State Fault Refusal :=
  issueWord s (.cvtef f) fun s sl =>
    let eff := sl.eff f.guard
    let a := sl.floats 8 f.wide f.a
    let e := vecNum f.b
    let r := (List.range 64).map fun i =>
      efRound (a.get i).toNat ((sl.g.vreg e).get i).toNat (fmtOf f.fmt)
    let lane (g : Nat × Nat → Nat) : Lanes := Lanes.build fun i => BitVec.ofNat 64 (g (r.getD i (0, 0)))
    let s := writeVec s sl f.dst eff (lane (·.1))
    let s := updGroup s sl.g.gid fun g => g.setVreg e (Lanes.merge eff (lane (·.2)) (g.vreg e))
    .done (popPorts s sl (wordPorts (.cvtef f)))

/-- CVTW: element k widened exactly to binary32, or to INT32 (R262). -/
def execCvtw (f : FmtA) (s : State) : Host.Outcome State Fault Refusal :=
  issueVec (.cvtw f) f.toHead (fun sl =>
    let a := sl.coded f.fmt f f.a
    let t := fmtOf f.fmt
    Lanes.build fun i =>
      let v := bitsNat (a.get i).toNat (t.laneWidth * f.modi.toNat) t.codeBits
      match t with
      | .int q => BitVec.ofNat 64 (wrapInt 32 (q.decode v))
      | t => BitVec.ofNat 64 (roundFp (t.decode v) fp32 .rne false)) s

/-! ### MX images (R263 to R265) -/

/-- The lanes of an image that hold two slots and their scales (R263). -/
def mxImage (code : Nat) (slots : List (List Byte)) (scales : List Nat) : Lanes :=
  let bytes := slots.flatten
  Lanes.build fun i =>
    if i = 62 ∨ i = 63 then BitVec.ofNat 64 (scales.getD (i - 62) 0)
    else if i < 2 * mxSlot code / 4 then BitVec.ofNat 64 (leValue ((bytes.drop (4 * i)).take 4))
    else 0

/-- The slot bytes of a block of an image (R263). -/
def imageSlot (code b : Nat) (v : Lanes) : List Byte :=
  let n := mxSlot code / 4
  (List.range n).flatMap fun j => leBytes 4 (v.get (n * b + j)).toNat

/-- The scale of a block of an image. -/
def imageScale (b : Nat) (v : Lanes) : Nat := (v.get (62 + b)).toNat % 256

/-- MXQ: two blocks of 32 binary32 lanes quantised into an image (R264). -/
def execMxq (f : FmtA) (s : State) : Host.Outcome State Fault Refusal :=
  issueVec (.mxq f) f.toHead (fun sl =>
    let eff := sl.eff f.guard
    let a := sl.floats 8 f.wide f.a
    let block (b : Nat) : Nat × List Nat :=
      mxEncode ((List.range 32).map fun i =>
        if eff.getLsbD (32 * b + i) then fp32.decode (a.get (32 * b + i)).toNat else .fin false 0 0) f.fmt.toNat
    let p := block 0
    let q := block 1
    mxImage f.fmt.toNat [slotBytes f.fmt.toNat p.2, slotBytes f.fmt.toNat q.2] [p.1, q.1]) s

/-- MXDQ: the elements of an image as binary32 (R265). -/
def execMxdq (f : FmtA) (s : State) : Host.Outcome State Fault Refusal :=
  issueVec (.mxdq f) f.toHead (fun sl =>
    let a := sl.lanes f.wide.toInt f.a
    let code := f.fmt.toNat
    Lanes.build fun i =>
      let b := i / 32
      let x := mxValue code (imageScale b a) (slotElem code (imageSlot code b a) (i % 32))
      BitVec.ofNat 64 (roundFp x fp32 (Rm.ofCode f.mode) false)) s

end Sys2Proof.Machine
end

