-- ==== Sys2Proof/Machine/MemIssue.lean ====
section
/-!
DEFINITION. Issuing memory operations: the orders under which an operation enters, the outstanding counters, the operation
itself, and scratchpad places and watches (R77 to R83, R97 to R117, R125, R272 to R276).
-/

namespace Sys2Proof.Machine

/-! ### The orders that an operation takes on at its issue (R101 to R109, R117, R125) -/

/-- The direct accesses of a group that are not performed. -/
def directOps (s : State) (gid : Nat) : List Op :=
  s.exec.ops.filter fun o => o.gid == gid && o.kind.direct && o.pend != 0

/-- The operations of a list that are not performed. -/
def stillPending (s : State) (ids : List Nat) : List Nat := (ids.filter fun i => !opPerformed s i).eraseDups

/-- Whether an operation that is no direct access follows every earlier direct access of its group: the engine operations of R117, and
the releases of R121, R348 and R351. -/
def OpKind.follows : OpKind → Bool
  | .copy _ => true
  | .crux .. => true
  | .stmr .. => true
  | .rgetQueue _ => true
  | .rgetSpad .. => true
  | .harrive _ => true
  | .carrive _ => true
  | .launch _ => true
  | .hmseal _ => true
  | _ => false

/-- Whether such an operation is a release, which is not performed behind a discarded fault (R110, R121, R348). -/
def OpKind.releases : OpKind → Bool
  | .harrive _ => true
  | .carrive _ => true
  | .launch _ => true
  | _ => false

/-- The operations that an operation of a group follows before anything is performed of it: what its path's last BDIV or RECON left
(R103), the acquires of its group (R106), and, where it is no direct access and no release, every earlier direct one and what comes
before the early releases that its group has read (R108, R117). -/
def Op.behind (s : State) (g : Group) (o : Op) : List Nat :=
  let all := if o.kind.direct || o.kind.releases then [] else (directOps s g.gid).map (·.id) ++ g.taints
  stillPending s (o.after ++ (g.path o.entry).holds ++ g.holdAll ++ all)

/-- The scope of an arrival at a circle, and every agent for another release that is no direct access (R121). -/
def Op.arrivalScope (o : Op) : Nat :=
  match o.kind with
  | .carrive _ => o.scope
  | _ => 5

/-- The operations that a release or a fence orders before an operation, with the scope of the order: 5 for every agent, and 6 for one
that matters only while it is faulted (R106 to R110, R121). A release follows what comes before the early releases that its group has
read (R108). -/
def Op.releaseOf (s : State) (g : Group) (o : Op) : List (Nat × Nat) :=
  let direct := (directOps s g.gid).map (·.id)
  let acq := g.fenceAll.map fun i => (i, if (findOp s i).any (·.kind.reads) then 5 else 6)
  let fences := acq ++ (if o.kind.writes then g.fenceStores else []) ++ (if o.kind.reads then g.fenceLoads.map fun i => (i, 5) else [])
  let at_ (scope : Nat) : List (Nat × Nat) := (direct.map fun i => (i, scope)) ++ g.taints.map fun i => (i, 5)
  let own := if o.kind.releases then at_ o.arrivalScope else if o.kind.direct && 2 ≤ o.order then at_ o.scope else []
  ((fences ++ own).filter fun r => !opPerformed s r.1).eraseDups

/-- Whether what a release or a fence orders before an operation lets it be performed. -/
def relMet (s : State) (r : Nat × Nat) : Bool := opPerformed s r.1 || (r.2 == 6 && (findOp s r.1).all fun x => x.faulted == 0)

/-- Whether everything that an operation follows has been performed (R103, R106, R107, R110, R117). -/
def Op.orderMet (s : State) (o : Op) : Bool := o.after.all (opPerformed s) && o.rel.all (relMet s)

/-- An operation with the orders that it takes on at its issue. Its path's earlier accesses of the same space hold back what overlaps
them (R101). -/
def Op.ordered (s : State) (o : Op) : Op :=
  match findGroup s o.gid with
  | none => o
  | some g =>
    if o.kind.direct then
      { o with after := o.behind s g, rel := o.releaseOf s g,
               same := ((directOps s g.gid).filter fun x => x.entry == o.entry && x.kind.spad == o.kind.spad).map (·.id) }
    else if o.kind.follows then { o with after := o.behind s g, rel := o.releaseOf s g }
    else o

/-- What a FENCE.ACQ or .SC leaves for every later access of the group (R107, R110). -/
def fenceAccesses (s : State) (gid : Nat) : State :=
  let ids := (directOps s gid).map (·.id)
  updGroup s gid fun g => { g with fenceAll := stillPending s (g.fenceAll ++ ids) }

/-- What a FENCE.SC leaves for every later access of the group that reads (R109). -/
def fenceReads (s : State) (gid : Nat) : State :=
  let ids := (directOps s gid).map (·.id)
  updGroup s gid fun g => { g with fenceLoads := stillPending s (g.fenceLoads ++ g.taints ++ ids) }

/-- What a FENCE.REL orders before every later store and atomic of the group, at its scope (R107). -/
def fenceReleases (s : State) (gid scope : Nat) : State :=
  let ids := (directOps s gid).map fun o => (o.id, scope)
  updGroup s gid fun g =>
    let all : List (Nat × Nat) := g.fenceStores ++ ids ++ g.taints.map fun i => (i, 5)
    { g with fenceStores := (all.filter fun r => !opPerformed s r.1).eraseDups }

/-- What the accesses of some path entries, and what those paths follow, leave for every later access of a path (R103). -/
def pathOrder (s : State) (gid : Nat) (es : List Nat) : List Nat :=
  match findGroup s gid with
  | none => []
  | some g =>
    stillPending s ((es.flatMap fun e => (g.path e).holds) ++ ((directOps s gid).filter fun o => es.contains o.entry).map (·.id))

/-- Whether an access of a path that takes no operation of its own, and reads, must wait (R103, R106, R107, R109, R110). -/
def accessHeld (s : State) (g : Group) (p : Path) : Bool :=
  ((p.holds ++ g.holdAll ++ g.fenceLoads).any fun i => !opPerformed s i) ||
  g.fenceAll.any fun i => (findOp s i).any fun o => o.pend != 0 && (o.kind.reads || o.faulted != 0)

/-! ### Outstanding counters (R115) -/

/-- Whether a class holds 4,096 operations (R115). -/
def ocFull (g : Group) (c : Option OcClass) : Bool :=
  match c with
  | some c => 4096 ≤ g.oc.get c
  | none => false

/-! ### A new operation -/

/-- An operation of the issuing path with nothing to perform yet; `sendOp` gives it its number and its orders. -/
def baseOp (s : State) (sl : Slot) (k : OpKind) : Op :=
  { id := 0, ctx := sl.g.ctx, gid := sl.g.gid, from_ := s.fabric.index, entry := sl.run.entry, pc := sl.pc, kind := k,
    cls := none, dst := .none, todo := 0, done := 0, remote := 0, faulted := 0, cause := 0, marks := 0, addrs := [],
    data := [], data2 := [], res := [], channel := 0, scope := 0, order := 0, after := [], same := [], rel := [], parts := [],
    told := false, replay := false, orphan := false, dormant := false, pieces := [] }

/-- An operation issued: it takes the next number and its orders, its class and the flits of its request are counted (R115, R434), and
an acquire holds what follows (R106). -/
def sendOp (s : State) (o : Op) : State :=
  let o := { o.ordered s with id := s.exec.seq }
  let s := sendRequests (addOp (fresh s).2 o) o (if o.unpaired then 0 else o.todo)
  let s := match o.cls with
    | some c => ocRaise s o.gid c
    | none => s
  if o.order = 1 ∨ o.order = 3 then updGroup s o.gid fun g => { g with holdAll := stillPending s (g.holdAll ++ [o.id]) } else s

/-- Lanes whose address fails the checks of R83. -/
def badLanes (s : State) (c : Nat) (eff : Mask) (addr : Nat → Dword) : Mask :=
  maskOf fun i => eff.getLsbD i && !vaOk s c (addr i)

/-- Lanes whose address another device owns (R84). -/
def remoteLanes (s : State) (eff : Mask) (addr : Nat → Dword) : Mask :=
  maskOf fun i => eff.getLsbD i && !vaLocal s (addr i)

/-- The address of the lowest lane of a mask; zero for none. -/
def lowestAddr (m : Mask) (addr : Nat → Dword) : Dword :=
  match lowestLane m with
  | some i => addr i
  | none => 0

/-- A boundary ADDRFAULT of lanes found at issue (R52, R83). -/
def addrCause (sl : Slot) (bad : Mask) (addr : Nat → Dword) (marks : Nat) : Cause :=
  ⟨0x08, 1, sl.pc, lowestAddr bad addr, bad, marks, 0, true⟩

/-- A boundary ADDRFAULT of a group instruction. -/
def groupAddrCause (sl : Slot) (addr : Dword) (marks : Nat) : Cause := ⟨0x08, 1, sl.pc, addr, 0, marks, 0, false⟩

/-- SPADRANGE of lanes (R52). -/
def spadCause (sl : Slot) (bad : Mask) (addr : Dword) : Cause := ⟨0x0D, 1, sl.pc, addr, bad, 0, 0, true⟩

/-- A destination as an operation keeps it: a port takes a Filling entry (R64). A capture holds the pushed entry, whose lanes to come
have no stated value yet (R62; log entry 88). -/
def openDst (s : State) (sl : Slot) (d : Dst) (wait : Mask) : State × Dest :=
  if d.nwb then (s, .none)
  else if 240 ≤ d.reg.toNat then
    let (s, e) := pushFilling s sl.g.pair (d.reg.toNat - 240) wait
    (capture s sl d.cap (Lanes.build fun i => if wait.getLsbD i then cutLane 32 (Config.latchValue e i) else 0),
     .port (d.reg.toNat - 240) e)
  else (s, .vreg d.reg.toNat)

/-! ### Scratchpad (R77 to R82, R274) -/

/-- Where a scratchpad or cluster access of `n` bytes lands: its core and program offset; none when it is out of
range (R274, R82). -/
def spadPlace (s : State) (core : Nat) (o : PlaceSrc) (cl : Bool) (a : Int) (n : Nat) : Option (Nat × Nat) :=
  if cl then
    if a < 0 ∨ (2 ^ 21 : Int) < a + n then none
    else
      let k := clusterCore core a.toNat
      let off : Nat := a.toNat % 2 ^ 19
      if spadIn s k o off n then some (k, off) else none
  else if spadIn s core o a n then some (core, a.toNat) else none

/-! ### Early releases (R104 to R108) -/

/-- The number that stands for a byte of a space, 0 for global memory and `k + 1` for the scratchpad of core `k`. -/
def spaceByte (space a : Nat) : Nat := space * 2 ^ 64 + a

/-- Whether a group is within the scope of a release that was performed early (R104, R105). -/
def Veil.reaches (v : Veil) (g : Group) (own : PlaceSrc) : Bool :=
  v.gid == g.gid || (v.ctx == g.ctx && match v.scope with
    | 1 => false
    | 2 => v.owner == own
    | 3 => v.owner == own || v.core / 4 == g.core / 4
    | _ => true)

/-- The early releases that have left a mark on `n` bytes of a space, and that an access before them still keeps open. -/
def veilsOn (s : State) (c space a n : Nat) : List Veil :=
  s.exec.veils.filter fun v => v.ctx == c && rangesMeet v.addr v.bytes (spaceByte space a) n && !opPerformed s v.before

/-- Whether an early release keeps a group from reading `n` bytes of a space, because an access before the release is not performed
yet. -/
def veiled (s : State) (g : Group) (own : PlaceSrc) (space a n : Nat) : Bool :=
  (veilsOn s g.ctx space a n).any fun v => v.reaches g own

/-- Whether `n` bytes of a context's global memory hold an early release. Only a load or an atomic of a group out of its scope reads them
then; the host, the other devices and the engines do not, the model's choice (log entry 92). -/
def veiledOutside (s : State) (c a n : Nat) : Bool := !(veilsOn s c 0 a n).isEmpty

/-- The space whose bytes are the phases of a circle. -/
def circleSpace (key : Word) : Nat := 2 ^ 32 + key.toNat

/-- The watched value of a scratchpad word, or of a sequence slot, in a group's own allocation. -/
def watchedValue (s : State) (g : Group) (a : Nat) : Dword :=
  match findPair s g.pair with
  | some p => BitVec.ofNat 64 (leValue (spadRead s g.core p.owner 0 a 8))
  | none => 0

/-- Whether a value satisfies a scratchpad watch (R294, R303). -/
def Watch.holds (w : Watch) (x : Dword) : Bool :=
  match w with
  | .word _ _ rel v => waitRel rel x v
  | .slot _ _ n => x.extractLsb' 0 32 == n
  | .signal _ rel v => sigRel rel x v

/-- The word that a scratchpad watch observes. -/
def Watch.seen (s : State) (g : Group) (w : Watch) : Option Dword :=
  match w with
  | .word _ a _ _ => some (watchedValue s g a)
  | .slot _ a _ => some (watchedValue s g a)
  | .signal .. => none

/-- An armed watch of a waiting head examines what a write leaves: the first value that meets it releases the head, unless a later write
of the same cycle takes its place (R294, R303, R304). -/
def Path.examined (s : State) (g : Group) (p : Path) : Path :=
  match p.watch with
  | none => p
  | some w =>
    if p.matched.isSome && !(p.matchedAt == s.exec.cycle && p.st == .waiting) then p
    else match w.seen s g with
      | none => p
      | some x => if w.holds x then { p with matched := some x, matchedAt := s.exec.cycle } else { p with matched := none }

/-- A write to scratchpad is examined by every armed watch. -/
def examine (s : State) : State :=
  s.onExec fun e => { e with groups := e.groups.map fun g => { g with paths := g.paths.map (Path.examined s g) } }

/-- The core and the allocation of the group that issued an operation. -/
def Op.owner (s : State) (o : Op) : Option (Nat × PlaceSrc) :=
  match findGroup s o.gid with
  | none => none
  | some g => (findPair s g.pair).map fun p => (g.core, p.owner)

/-- Whether a scratchpad operation names cluster memory, and its swizzle mode. -/
def OpKind.spadForm : OpKind → Bool × Nat
  | .spadLoad cl mode _ _ _ => (cl, mode)
  | .spadT mode _ _ _ => (false, mode)
  | .spadStore cl mode _ => (cl, mode)
  | .publish => (true, 0)
  | _ => (false, 0)

/-- Where an access of a scratchpad operation lies: its core and its program offset there. -/
def Op.spadAt (s : State) (o : Op) (u : Dword × Nat) : Option (Nat × PlaceSrc × Nat) :=
  match o.owner s with
  | none => none
  | some (core, own) => (spadPlace s core own o.kind.spadForm.1 u.1.toInt u.2).map fun x => (x.1, own, x.2)

/-- The bytes that an access touches: its space, 0 for global memory and otherwise a core's scratchpad, its first byte and its length. -/
def Op.span (s : State) (o : Op) (u : Dword × Nat) : Nat × Nat × Nat :=
  if o.kind.spad then
    match o.spadAt s u with
    | some (k, _, off) => (k + 1, swizzle o.kind.spadForm.2 off, u.2)
    | none => (0, 0, 0)
  else (0, u.1.toNat, u.2)

/-- Whether two spans share a byte. -/
def spansMeet (x y : Nat × Nat × Nat) : Bool := x.1 == y.1 && rangesMeet x.2.1 x.2.2 y.2.1 y.2.2

/-- The eight bytes that stand at an offset of a context, or zero where they cannot be read. -/
def peekWord (s : State) (c a : Nat) : Nat :=
  match loadBytes s c (vaOffset (BitVec.ofNat 64 a)) 8 with
  | .ok (_, bs) => leValue bs
  | .error _ => 0

/-- How far a CHASE has come: its hops, and the pointer that it stands at (R177). -/
def Op.chased (o : Op) : Nat × Nat :=
  match o.parts.find? fun p => p.1 == 1 with
  | some p => p.2
  | none => (0, (o.data.get 0).toNat)

/-- Whether a CHASE that stands at a pointer after some hops has another to make: the pointer is not null, is of this device and aligned,
and the limit is not reached. -/
def Op.chaseOn (s : State) (o : Op) (x : Nat × Nat) : Bool :=
  x.1 < (o.data.get 2).toNat && x.2 != 0 && vaLocal s (BitVec.ofNat 64 x.2) && x.2 % 8 == 0

/-- Whether a CHASE has another hop to make. -/
def Op.chasing (s : State) (o : Op) : Bool := o.chaseOn s o.chased

/-- The word that a CHASE at a pointer reads. -/
def Op.chaseLink (o : Op) (p : Nat) : Nat := (p + (o.data.get 1).toNat) % 2 ^ 64

/-- The words that a CHASE has still to read, as the pointers stand. -/
def Op.chaseSpans (s : State) (o : Op) : Nat → Nat × Nat → List (Nat × Nat × Nat)
  | 0, _ => []
  | n + 1, x =>
    if o.chaseOn s x then (0, o.chaseLink x.2, 8) :: o.chaseSpans s n (x.1 + 1, peekWord s o.ctx (o.chaseLink x.2)) else []

/-- The bytes that a home-agent operation touches (R177). A CHASE on another device may read whatever that device owns. -/
def Op.agentSpans (s : State) (o : Op) (op : Nat) : List (Nat × Nat × Nat) :=
  let v (i : Nat) : Nat := (o.data.get i).toNat
  match op with
  | 0 => [(0, v 0, 16)]
  | 1 => [(0, v 0, 32)]
  | 2 => [(0, v 0, 16), (0, v 1, 8)] ++ (let t := peekWord s o.ctx (v 0 + 8); if t = 0 then [] else [(0, t, 8)])
  | 3 => [(0, v 0, 16)] ++ (let h := peekWord s o.ctx (v 0); if h = 0 then [] else [(0, h, 8)])
  | _ => if o.remote != 0 then [(0, v 0 / 2 ^ 53 * 2 ^ 53, 2 ^ 53)] else o.chaseSpans s 16 o.chased

/-- The spans of what is left of an operation. -/
def Op.spansLeft (s : State) (o : Op) : List (Nat × Nat × Nat) :=
  match o.kind with
  | .nmop op => o.agentSpans s op
  | _ => ((List.range 64).filter fun i => o.pend.getLsbD i).flatMap fun i => (o.unitsLeft i).map fun u => o.span s u.2

/-- Whether what is left of an operation touches a span. -/
def Op.meetsSpan (s : State) (o : Op) (x : Nat × Nat × Nat) : Bool := o.pend != 0 && (o.spansLeft s).any fun y => spansMeet x y

end Sys2Proof.Machine
end

