-- ==== Sys2Proof/Machine/GlobalMem.lean ====
section
/-!
DEFINITION. Global loads, stores and prefetch: majors 0x80 and 0x81 (R278 to R282).
-/

namespace Sys2Proof.Machine

/-- The lanes of an address function. -/
def addrLanes (addr : Nat → Dword) : Lanes := Lanes.build addr

/-- The L1 copy of a context's line on a core (R93). -/
def l1Find (s : State) (core c line : Nat) : Option L1Line :=
  s.memory.l1.find? fun l => l.core == core && (l.tag == c || l.tag == 16) && l.line == line

/-- The bytes of a store's lanes: lane, address and value, by rising lane. -/
def Op.storeBytes (o : Op) (lanes : Mask) : List (Nat × Dword × Byte) :=
  match o.kind with
  | .store w =>
    ((List.range 64).filter fun i => lanes.getLsbD i).flatMap fun i =>
      ((List.range (2 ^ w)).zip (leBytes (2 ^ w) (o.data.get i).toNat)).map fun x => (i, o.addrs.get i + BitVec.ofNat 64 x.1, x.2)
  | _ => []

/-- A store to a Shared line updates the copy of its core's L1, where the bytes stay pending until the home has performed the store
(R93, R112). -/
def pendStore (s : State) (core : Nat) (o : Op) : State :=
  (o.storeBytes (o.todo &&& ~~~o.remote)).foldl (fun s x =>
    let off := vaOffset x.2.1
    if (l1Find s core o.ctx (off / 128)).any fun l => !l.owned then
      s.onMemory fun m => { m with pending := ⟨core, o.gid, o.id, off, x.2.2⟩ :: m.pending }
    else s) s

/-- A load issued: lanes that fail R83 raise a boundary ADDRFAULT that names `fault` of the lowest, or poison a port entry (R65, R279).
A lane that has no element, that of a GRLD of none, has its result at once. -/
def loadAct (f : FmtM) (k : OpKind) (eff : Mask) (addr fault : Nat → Dword) (bad remote : Mask) (s : State) (sl : Slot) : Act :=
  let port : Bool := 240 ≤ f.dst.reg.toNat
  if bad != 0 && !port then .cause s (addrCause sl bad fault 0)
  else
    let cls : Option OcClass := if remote != 0 then some .fab else none
    if ocFull sl.g cls then .stall
    else if eff == 0 && !port then .done s
    else
      let (s, dst) := openDst s sl f.dst eff
      if eff == 0 then .done s
      else
        let o : Op := { baseOp s sl k with
          cls := cls, dst := dst, todo := eff &&& ~~~bad, remote := remote &&& ~~~bad, faulted := bad,
          cause := if bad != 0 then 8 else 0, addrs := addrLanes addr, res := Lanes.zero, channel := f.channel.toNat,
          scope := f.scope.toNat, order := f.order.toNat }
        let now := maskOf fun i => o.todo.getLsbD i && (o.units i).isEmpty
        .done (sendOp s { o with
          todo := o.todo &&& ~~~now, done := now, res := Lanes.masked now (List.replicate 64 (BitVec.ofNat 64 f32NegZero)) })

/-- The lane width that a load's value is extended to (R275). -/
def loadOut (f : FmtM) : Nat := if 240 ≤ f.dst.reg.toNat then 32 else 64

/-- LDV (R279). -/
def execLdv (f : FmtM) (s : State) : Host.Outcome State Fault Refusal :=
  issueWord s (.ldv f) fun s sl =>
    let eff := sl.eff f.guard
    let addr := sl.gaddr f
    loadAct f (.load f.width.toNat f.sign (loadOut f)) eff addr addr (badLanes s sl.g.ctx eff addr) (remoteLanes s eff addr) s sl

/-- LDP: lane i at base + offset + i × w (R279). -/
def execLdp (f : FmtM) (s : State) : Host.Outcome State Fault Refusal :=
  issueWord s (.ldp f) fun s sl =>
    let eff := sl.eff f.guard
    let base := sl.uni64 0 f.a + BitVec.ofInt 64 (sextOff f.off)
    let addr (i : Nat) : Dword := base + BitVec.ofNat 64 (i * 2 ^ f.width.toNat)
    loadAct f (.load f.width.toNat f.sign (loadOut f)) eff addr addr (badLanes s sl.g.ctx eff addr) (remoteLanes s eff addr) s sl

/-- The address of row element (p, i) of a GRLD (R281). -/
def grldAddr (base : Dword) (pitch w : Nat) (list : Lanes) (p i : Nat) : Dword :=
  base + BitVec.ofNat 64 (((list.get p).toNat % 2 ^ 32) * pitch + i * w)

/-- GRLD: each lane's weighted rows, one chain per lane (R150, R281). A fault at issue names the lane's first element that fails. -/
def execGrld (f : FmtM) (s : State) : Host.Outcome State Fault Refusal :=
  issueWord s (.grld f) fun s sl =>
    let eff := sl.eff f.guard
    let list := sl.lanes 0 f.b
    let n := min (sl.uni32 0 f.c).toNat 64
    let base := sl.uni64 0 f.a
    let w := 2 ^ f.width.toNat
    let el := grldAddr base (grldPitch f) w list
    let some_ (p : Nat → Nat → Bool) : Mask := maskOf fun i => eff.getLsbD i && (List.range n).any fun q => p q i
    let bad := some_ fun q i => !vaOk s sl.g.ctx (el q i)
    let remote := some_ fun q i => !vaLocal s (el q i)
    let fault (i : Nat) : Dword :=
      (((List.range n).map fun q => el q i).find? fun a => !vaOk s sl.g.ctx a).getD (base + BitVec.ofNat 64 (i * w))
    loadAct f (.grld (grldFmt f).toNat (grldPitch f) n list) eff (fun i => base + BitVec.ofNat 64 (i * w)) fault bad remote s sl

/-- PFETCH: lanes that would fault are dropped, and it orders nothing; the requests of remote lanes are sent, and nothing returns
(R282). -/
def execPfetch (f : FmtM) (s : State) : Host.Outcome State Fault Refusal :=
  issueWord s (.pfetch f) fun s sl =>
    let eff := sl.eff f.guard
    let addr := sl.gaddr f
    let good := eff &&& ~~~(badLanes s sl.g.ctx eff addr)
    let away := remoteLanes s good addr
    let o : Op := { baseOp s sl (.prefetch (f.width == 1)) with
      todo := good, remote := away, addrs := addrLanes addr, channel := f.channel.toNat }
    let s := sendRequests s o away
    if good &&& ~~~away == 0 then .done s
    else .done (sendOp s { o with todo := good &&& ~~~away, remote := 0 })

/-- ST (R280): a lane that fails R83 raises a boundary ADDRFAULT, and the store has no effect. -/
def execSt (f : FmtM) (s : State) : Host.Outcome State Fault Refusal :=
  issueWord s (.st f) fun s sl =>
    let eff := sl.eff f.guard
    let addr := sl.gaddr f
    let bad := badLanes s sl.g.ctx eff addr
    let remote := remoteLanes s eff addr
    let cls : Option OcClass := if remote != 0 then some .fab else none
    if bad != 0 then .cause s (addrCause sl bad addr 0)
    else if ocFull sl.g cls then .stall
    else
      let data := sl.sdata f.c
      let s := popPorts s sl (wordPorts (.st f))
      if eff == 0 then .done s
      else
        let o : Op := { baseOp s sl (.store f.width.toNat) with
          cls := cls, todo := eff, remote := remote, addrs := addrLanes addr, data := data, channel := f.channel.toNat,
          scope := f.scope.toNat, order := f.order.toNat }
        .done (pendStore (sendOp s o) sl.g.core { o with id := s.exec.seq })

/-- The earlier stores of a queue that are not performed: the stores of one queue are performed in pair order (R67). An STQ's operation
keeps its queue as its piece. -/
def queueStores (s : State) (gid q : Nat) : List Nat :=
  (s.exec.ops.filter fun o => o.gid == gid && o.pieces == [q] && o.pend != 0 && (match o.kind with
    | .store _ => true
    | _ => false)).map (·.id)

/-- STQ: one address entry, whose store the store unit forms (R67, R280). A store that has no data yet is marked by
empty data; its destination names the queue. A capture holds the addresses that are pushed (R62). -/
def execStq (f : FmtM) (s : State) : Host.Outcome State Fault Refusal :=
  issueWord s (.stq f) fun s sl =>
    let eff := sl.eff f.guard
    let addr := sl.gaddr f
    let bad := badLanes s sl.g.ctx eff addr
    let lanes := eff &&& ~~~bad
    let remote := remoteLanes s lanes addr
    let q := f.dst.reg.toNat - 240
    let cls : Option OcClass := if remote != 0 then some .fab else none
    if ocFull sl.g cls then .stall
    else
      let before := queueStores s sl.g.gid q
      let id := s.exec.seq
      let s := capture s sl f.dst.cap (Lanes.masked eff (addrLanes addr))
      let s := sendOp s { baseOp s sl (.store f.width.toNat) with
        cls := cls, dst := .port q 0, todo := lanes, remote := remote, addrs := addrLanes addr, channel := f.channel.toNat,
        scope := f.scope.toNat, order := f.order.toNat, after := before, pieces := [q] }
      let e : AddrEntry := ⟨id, eff, addrLanes addr, bad, f.width.toNat, f.scope.toNat, f.channel.toNat, sl.pc,
        sl.run.entry, before⟩
      .done (updQueue s sl.g.pair q fun x => { x with addrs := x.addrs ++ [e] })

end Sys2Proof.Machine
end

