-- ==== Sys2Proof/Machine/Atomics.lean ====
section
/-!
DEFINITION. Atomics and Crucible operations: majors 0x84 and 0x85 (R287 to R292).
-/

namespace Sys2Proof.Machine

/-- An atomic issued (R288): a lane that fails R83, or is not aligned, raises ADDRFAULT, and nothing happens. -/
def atomicAct (i : Instr) (major minor : Nat) (f : FmtM) (s : State) (sl : Slot) : Act :=
  let eff := sl.eff f.guard
  let addr := sl.gaddr f
  let w := f.width.toNat
  let bad := badLanes s sl.g.ctx eff addr
  let mis := maskOf fun i => eff.getLsbD i && (addr i).toNat % 2 ^ w != 0
  let remote := remoteLanes s eff addr
  let ret := !f.dst.nwb
  let cls : Option OcClass := if ret then some .atom else if remote != 0 then some .fab else none
  if bad ||| mis != 0 then .cause s (addrCause sl (bad ||| mis) addr (if mis != 0 then 2 else 0))
  else if ocFull sl.g cls then .stall
  else
    let k := OpKind.atomic major minor w ret
    let cas : Bool := major == 0x84 && minor == 0xA
    let raw := sl.sdata f.c
    let data : Lanes := if cas && w == 2 then raw.map (fun (x : Dword) => x &&& 0xFFFFFFFF#64) else raw
    let data2 : Lanes :=
      if cas then (if w == 2 then raw.map (fun x : Dword => x.ushiftRight 32) else sl.g.vreg (vecNum f.c + 1)) else Lanes.zero
    let s := popPorts s sl (wordPorts i)
    if eff == 0 then .done s
    else
      .done (sendOp s { baseOp s sl k with
        cls := cls, dst := if ret then .vreg f.dst.reg.toNat else .none, todo := eff, remote := remote,
        addrs := addrLanes addr, data := data, data2 := data2, res := Lanes.zero, channel := f.channel.toNat,
        scope := f.scope.toNat, order := f.order.toNat })

/-- AADD: old + x (R287, R288). -/
def execAadd (f : FmtM) (s : State) : Host.Outcome State Fault Refusal :=
  issueWord s (.aadd f) fun s sl => atomicAct (.aadd f) 0x84 0 f s sl

/-- ASUB: old − x (R287, R288). -/
def execAsub (f : FmtM) (s : State) : Host.Outcome State Fault Refusal :=
  issueWord s (.asub f) fun s sl => atomicAct (.asub f) 0x84 1 f s sl

/-- AAND: old and x (R287, R288). -/
def execAand (f : FmtM) (s : State) : Host.Outcome State Fault Refusal :=
  issueWord s (.aand f) fun s sl => atomicAct (.aand f) 0x84 2 f s sl

/-- AOR: old or x (R287, R288). -/
def execAor (f : FmtM) (s : State) : Host.Outcome State Fault Refusal :=
  issueWord s (.aor f) fun s sl => atomicAct (.aor f) 0x84 3 f s sl

/-- AXOR: old xor x (R287, R288). -/
def execAxor (f : FmtM) (s : State) : Host.Outcome State Fault Refusal :=
  issueWord s (.axor f) fun s sl => atomicAct (.axor f) 0x84 4 f s sl

/-- AMIN: the signed minimum (R287, R288). -/
def execAmin (f : FmtM) (s : State) : Host.Outcome State Fault Refusal :=
  issueWord s (.amin f) fun s sl => atomicAct (.amin f) 0x84 5 f s sl

/-- AMAX: the signed maximum (R287, R288). -/
def execAmax (f : FmtM) (s : State) : Host.Outcome State Fault Refusal :=
  issueWord s (.amax f) fun s sl => atomicAct (.amax f) 0x84 6 f s sl

/-- AMINU: the unsigned minimum (R287, R288). -/
def execAminu (f : FmtM) (s : State) : Host.Outcome State Fault Refusal :=
  issueWord s (.aminu f) fun s sl => atomicAct (.aminu f) 0x84 7 f s sl

/-- AMAXU: the unsigned maximum (R287, R288). -/
def execAmaxu (f : FmtM) (s : State) : Host.Outcome State Fault Refusal :=
  issueWord s (.amaxu f) fun s sl => atomicAct (.amaxu f) 0x84 8 f s sl

/-- AXCHG: x (R287, R288). -/
def execAxchg (f : FmtM) (s : State) : Host.Outcome State Fault Refusal :=
  issueWord s (.axchg f) fun s sl => atomicAct (.axchg f) 0x84 9 f s sl

/-- ACAS: new where old equals cmp (R287, R288). -/
def execAcas (f : FmtM) (s : State) : Host.Outcome State Fault Refusal :=
  issueWord s (.acas f) fun s sl => atomicAct (.acas f) 0x84 10 f s sl

/-- FADD: old + x in binary32, RNE (R287, R288). -/
def execFadd (f : FmtM) (s : State) : Host.Outcome State Fault Refusal :=
  issueWord s (.fadd f) fun s sl => atomicAct (.fadd f) 0x85 0 f s sl

/-! ### Crucible operations (R289 to R292) -/

/-- The block address of a Crucible word (R289). -/
def Slot.block (sl : Slot) (f : FmtM) (disp : Int) : Dword := sl.uni64 0 f.a + BitVec.ofInt 64 disp

/-- Crucible contributions sent as one engine operation under OC.MX. Where `none_` holds nothing is sent, and a port destination still
pushes its entry of zeros (R62, R290, R291). The issue checks are MXALIGN (R154, check 1), then those of R83, whose failure poisons
the entry of a port destination (R65). -/
def cruxAct (i : Instr) (f : FmtM) (k : OpKind) (a : Dword) (unit : Nat) (parts_ : List Dword) (none_ : Bool) (dst : Bool)
    (touched : Mask) (s : State) (sl : Slot) : Act :=
  let port : Bool := dst && 240 ≤ f.dst.reg.toNat
  let bad := parts_.find? fun x => !vaOk s sl.g.ctx x
  if none_ then
    let s := popPorts s sl (wordPorts i)
    .done (if port then (openDst s sl f.dst 0).1 else s)
  else if a.toNat % unit ≠ 0 then .cause s ⟨0x0A, 1, sl.pc, a, 0, 0, 0, false⟩
  else if bad.isSome && !port then .cause s (groupAddrCause sl (bad.getD a) 0)
  else if ocFull sl.g (some .mx) then .stall
  else
    let s := popPorts s sl (wordPorts i)
    let (s, d) := if dst then openDst s sl f.dst touched else (s, .none)
    .done (sendOp s { baseOp s sl k with
      cls := some .mx, dst := d, todo := if bad.isSome then 0 else 1, faulted := if bad.isSome then 1 else 0,
      cause := if bad.isSome then 8 else 0, remote := if vaLocal s a || bad.isSome then 0 else 1, addrs := List.replicate 64 a,
      res := Lanes.zero, data2 := List.replicate 64 touched })

/-- The contribution of an MXACC: 32 binary32 values, or block h of an image (R290). -/
def Slot.mxContribution (sl : Slot) (f : FmtM) : Crux :=
  let b := sl.lanes 0 f.b
  let h := if mxHi f then 1 else 0
  let eff := sl.eff f.guard
  if mxF32 f then
    .accF32 ((List.range 32).map fun i =>
      if eff.getLsbD (32 * h + i) then (b.get (32 * h + i)).extractLsb' 0 32 else 0x80000000)
  else .accMx (mxFmt f).toNat (imageScale h b) (imageSlot (mxFmt f).toNat h b)

/-- The ordinal of an ordered form (R289). -/
def Slot.ordinal (sl : Slot) (f : FmtM) : Nat := (sl.uni32 0 f.c).toNat % 2 ^ 16

/-- MXACC: nothing is sent when no lane is effective (R290). -/
def execMxacc (f : FmtM) (s : State) : Host.Outcome State Fault Refusal :=
  issueWord s (.mxacc f) fun s sl =>
    let a := sl.block f (mxDisp f)
    let c : Contrib := ⟨a, sl.mxContribution f, none, .sent⟩
    cruxAct (.mxacc f) f (.crux (mxFmt f).toNat (mxHi f) (mxF32 f) false [c]) a (mxSlot (mxFmt f).toNat) [a]
      (sl.eff f.guard == 0) false 0 s sl

/-- MXACC.ORD: always sent, so that its ordinal is consumed (R290). -/
def execMxaccOrd (f : FmtM) (s : State) : Host.Outcome State Fault Refusal :=
  issueWord s (.mxaccOrd f) fun s sl =>
    let a := sl.block f (mxDisp f)
    let c : Contrib := ⟨a, sl.mxContribution f, some (sl.ordinal f), .sent⟩
    cruxAct (.mxaccOrd f) f (.crux (mxFmt f).toNat (mxHi f) (mxF32 f) true [c]) a (mxSlot (mxFmt f).toNat) [a] false
      false 0 s sl

/-- The lanes of an image that block h occupies, scale lane included (R263, R291). -/
def imageLanes (code h : Nat) : Mask :=
  let n := mxSlot code / 4
  maskOf fun i => (n * h ≤ i && i < n * (h + 1)) || i == 62 + h

/-- MXLD: the block's slot and scale as block h of an image; nothing happens with no effective lane (R291). -/
def execMxld (f : FmtM) (s : State) : Host.Outcome State Fault Refusal :=
  issueWord s (.mxld f) fun s sl =>
    let a := sl.block f (mxDisp f)
    let eff := sl.eff f.guard
    let c : Contrib := ⟨a, .load, none, .sent⟩
    let touched := imageLanes (mxFmt f).toNat (if mxHi f then 1 else 0) &&& eff
    cruxAct (.mxld f) f (.crux (mxFmt f).toNat (mxHi f) false false [c]) a (mxSlot (mxFmt f).toNat) [a] (eff == 0) true
      touched s sl

/-- MXST: block h of an image as one write; nothing happens with no effective lane (R291). -/
def execMxst (f : FmtM) (s : State) : Host.Outcome State Fault Refusal :=
  issueWord s (.mxst f) fun s sl =>
    let a := sl.block f (mxDisp f)
    let b := sl.lanes 0 f.b
    let h := if mxHi f then 1 else 0
    let code := (mxFmt f).toNat
    let c : Contrib := ⟨a, .store (imageScale h b) (imageSlot code h b), none, .sent⟩
    cruxAct (.mxst f) f (.crux code (mxHi f) false false [c]) a (mxSlot code) [a] (sl.eff f.guard == 0) false 0 s sl

/-- FADD.ORD: one contribution for each 128-byte line that the 256 bytes touch (R292). -/
def execFaddOrd (f : FmtM) (s : State) : Host.Outcome State Fault Refusal :=
  issueWord s (.faddOrd f) fun s sl =>
    let a := sl.block f (sextOff f.off)
    let eff := sl.eff f.guard
    let b := sl.lanes 0 f.b
    let line0 := a &&& ~~~127#64
    let count := if a &&& 127 == 0 then 2 else 3
    let lines := (List.range count).map fun k => line0 + BitVec.ofNat 64 (128 * k)
    let cs : List Contrib := lines.map fun l =>
      ⟨l, .add (eff &&& maskOf fun i => (a + BitVec.ofNat 64 (4 * i)) &&& ~~~127#64 == l) b a, some (sl.ordinal f), .sent⟩
    cruxAct (.faddOrd f) f (.crux 8 false false true cs) a 4 lines false false 0 s sl

end Sys2Proof.Machine
end

