-- ==== Sys2Proof/Machine/ScratchMem.lean ====
section
/-!
DEFINITION. Scratchpad, cluster memory and queue control: majors 0x82 and 0x83 (R283 to R286).
-/

namespace Sys2Proof.Machine

/-- The lanes of a scratchpad or cluster access that take SPADRANGE (R274). -/
def spadBad (s : State) (sl : Slot) (cl : Bool) (n : Nat) (eff : Mask) (addr : Nat → Int) : Mask :=
  maskOf fun i => eff.getLsbD i && (spadPlace s sl.g.core sl.pair.owner cl (addr i) n).isNone

/-- Addresses as an operation keeps them. -/
def intLanes (addr : Nat → Int) : Lanes := Lanes.build fun i => BitVec.ofInt 64 (addr i)

/-- The end of a scratchpad access: SPADRANGE for the lanes out of range, whose siblings have taken effect (R51). -/
def spadEnd (s : State) (sl : Slot) (bad : Mask) (addr : Nat → Int) : Act :=
  if bad == 0 then .done s
  else .cause s (spadCause sl bad (BitVec.ofInt 64 (((lowestLane bad).map addr).getD 0)))

/-- A scratchpad load issued: its lanes in range are read at their banks, and the others have zero (R51, R284). -/
def spadLoadAct (f : FmtM) (k : OpKind) (bad : Mask) (addr : Nat → Int) (s : State) (sl : Slot) : Act :=
  let eff := sl.eff f.guard
  let (s, dst) := openDst s sl f.dst eff
  if eff == 0 then .done s
  else
    let s := sendOp s { baseOp s sl k with
      dst := dst, todo := eff &&& ~~~bad, done := eff &&& bad, addrs := intLanes addr, res := Lanes.zero,
      scope := f.scope.toNat, order := f.order.toNat }
    spadEnd s sl bad addr

/-- The lane width of a scratchpad load's destination (R275). -/
def Slot.spadOut (sl : Slot) (f : FmtM) : Nat := if 240 ≤ f.dst.reg.toNat then 32 else sl.w

/-- LDS and LDCL (R284). -/
def issueSpadLoad (i : Instr) (f : FmtM) (cl : Bool) (s : State) : Host.Outcome State Fault Refusal :=
  issueWord s i fun s sl =>
    let n := 2 ^ f.width.toNat
    let addr := sl.saddr f
    let bad := spadBad s sl cl n (sl.eff f.guard) addr
    spadLoadAct f (.spadLoad cl f.swz.toNat n f.sign (sl.spadOut f)) bad addr s sl

/-- STS and STCL (R284). -/
def issueSpadStore (i : Instr) (f : FmtM) (cl : Bool) (s : State) : Host.Outcome State Fault Refusal :=
  issueWord s i fun s sl =>
    let eff := sl.eff f.guard
    let n := 2 ^ f.width.toNat
    let addr := sl.saddr f
    let bad := spadBad s sl cl n eff addr
    let good := eff &&& ~~~bad
    let data := sl.sdata f.c
    let s := popPorts s sl (wordPorts i)
    let s :=
      if good == 0 then s
      else sendOp s { baseOp s sl (.spadStore cl f.swz.toNat n) with
        todo := good, addrs := intLanes addr, data := data, scope := f.scope.toNat, order := f.order.toNat }
    spadEnd s sl bad addr

/-- LDS (R284). -/
def execLds (f : FmtM) (s : State) : Host.Outcome State Fault Refusal := issueSpadLoad (.lds f) f false s

/-- LDCL (R284). -/
def execLdcl (f : FmtM) (s : State) : Host.Outcome State Fault Refusal := issueSpadLoad (.ldcl f) f true s

/-- STS (R284). -/
def execSts (f : FmtM) (s : State) : Host.Outcome State Fault Refusal := issueSpadStore (.sts f) f false s

/-- STCL (R284). -/
def execStcl (f : FmtM) (s : State) : Host.Outcome State Fault Refusal := issueSpadStore (.stcl f) f true s

/-- LDS.T (R285): each lane gathers a column of L / w rows. -/
def execLdsT (f : FmtM) (s : State) : Host.Outcome State Fault Refusal :=
  issueWord s (.ldsT f) fun s sl =>
    let n := 2 ^ f.width.toNat
    let out := sl.w / 8
    let pitch := 16 * (sl.uni32 0 f.b).toNat
    let a0 : Int := sl.sbase f.a + sextOff f.off
    let lane (i : Nat) : Int := a0 + (i * n : Nat)
    let eff := sl.eff f.guard
    let bad := maskOf fun i => eff.getLsbD i && (List.range (out / n)).any fun j =>
      !spadIn s sl.g.core sl.pair.owner (lane i + ((j * pitch : Nat) : Int)) n
    spadLoadAct f (.spadT f.swz.toNat n pitch out) bad lane s sl

/-- The entries of the part of a queue that a group touches, and their number (R286). -/
def Queue.used (q : Queue) (access : Bool) : Nat :=
  if access && q.kind == 1 then q.addrs.length else q.entries.length

/-- QCOUNT (R286). -/
def execQcount (f : FmtM) (s : State) : Host.Outcome State Fault Refusal :=
  issueWord s (.qcount f) fun s sl =>
    let q := sl.pair.queue (shortOf f.a).toNat
    let n := q.used sl.access
    .done (writeUni s sl f.dst (BitVec.ofNat 32 (if shortOf f.b = 0 then n else q.depth - n)))

/-- QSKIP: a Ready or Poisoned front entry is freed with its record (R286). One on which a load lands in this cycle is still Filling
(R304). -/
def execQskip (f : FmtM) (s : State) : Host.Outcome State Fault Refusal :=
  issueWord s (.qskip f) fun s sl =>
    let q := (shortOf f.a).toNat
    match (sl.pair.queue q).entries with
    | e :: _ =>
      if e.st = .filling ∨ e.landed = s.exec.cycle + 1 then .done (writeUni s sl f.dst 0)
      else .done (writeUni (popQueue s sl.g.pair q) sl f.dst 1)
    | [] => .done (writeUni s sl f.dst 0)

end Sys2Proof.Machine
end

