-- ==== Sys2Proof/Machine/Sync.lean ====
section
/-!
DEFINITION. Ordering, waits, hoops, circles and signals: majors 0x86 to 0x88 (R293 to R298).
-/

namespace Sys2Proof.Machine

/-- FENCE: it holds back the later accesses that R107 and R109 order behind it, and never waits (R294). -/
def execFence (f : FmtM) (s : State) : Host.Outcome State Fault Refusal :=
  issueWord s (.fence f) fun s sl =>
    let acq : Bool := f.order == 1 || f.order == 3
    let rel : Bool := f.order == 2 || f.order == 3
    let s := if rel then fenceReleases s sl.g.gid f.scope.toNat else s
    let s := if acq then fenceAccesses s sl.g.gid else s
    .done (if f.sign then fenceReads s sl.g.gid else s)

/-- The class that WAITC names (R293). -/
def waitClass (n : Int) : OcClass := if n = 0 then .copy else if n = 1 then .fab else if n = 2 then .atom else if n = 3 then .mx else .ctl

/-- Whether the head of a WAITC can issue (R116, R294). -/
def waitcReady (sl : Slot) (f : FmtM) : Bool :=
  sl.g.oc.get (waitClass (shortOf f.a)) ≤ min (sl.uni32 0 f.b).toNat 4095

/-- WAITC (R294). -/
def execWaitc (f : FmtM) (s : State) : Host.Outcome State Fault Refusal :=
  issueWord s (.waitc f) fun s sl => if waitcReady sl f then .done s else .wait s

/-- A watch armed by the issuing path, whose head waits (R294). -/
def armWatch (s : State) (sl : Slot) (w : Watch) : Act :=
  .wait (updPath s sl.g.gid sl.run.entry fun p => { p with watch := some w, matched := none })

/-- The issuing path's watch freed. -/
def freeWatch (s : State) (sl : Slot) : State :=
  updPath s sl.g.gid sl.run.entry fun p => { p with watch := none, matched := none }

/-- A wait on eight bytes of the group's own allocation: WAITW and SQGET (R294, R303). -/
def watchAct (a : Int) (w : Nat → Watch) (done : State → Dword → State) (s : State) (sl : Slot) : Act :=
  if a % 8 ≠ 0 ∨ !spadIn s sl.g.core sl.pair.owner a 8 then .cause s ⟨0x0D, 1, sl.pc, BitVec.ofInt 64 a, 0, 0, 0, false⟩
  else
    match sl.p.matched with
    | some v => .done (done (freeWatch s sl) v)
    | none =>
      if accessHeld s sl.g sl.p then .wait s
      else
        let x := watchedValue s sl.g a.toNat
        if (w a.toNat).holds x then .done (done (freeWatch s sl) x) else armWatch s sl (w a.toNat)

/-- The offset that WAITW or SQGET names (R294, R303). -/
def Slot.flagAddr (sl : Slot) (f : FmtM) : Int := sl.sbase f.a + sextOff f.off

/-- WAITW (R294). -/
def execWaitw (f : FmtM) (s : State) : Host.Outcome State Fault Refusal :=
  issueWord s (.waitw f) fun s sl =>
    watchAct (sl.flagAddr f) (fun a => .word sl.g.core a (shortOf f.c).toNat (sl.uni64 0 f.b)) (fun s _ => s) s sl

/-! ### Hoops (R296) -/

/-- The completed-phase number of a hoop of the pair's cohort. -/
def hoopDone (s : State) (p : Pair) (h : Nat) : Word :=
  match p.cohort.bind fun c => findCohort s c with
  | some c => c.hoopDone.getD h 0
  | none => 0

/-- Whether phase `n` of a hoop has completed: (done − n) mod 2^32 lies in 1 to 2^31 (R296). -/
def phaseDone (done n : Word) : Bool := 1 ≤ (done - n).toNat && (done - n).toNat ≤ 2 ^ 31

/-- HARRIVE: a release whose arrival is counted once every earlier direct access is performed (R296). -/
def execHarrive (f : FmtM) (s : State) : Host.Outcome State Fault Refusal :=
  issueWord s (.harrive f) fun s sl =>
    .done (sendOp s { baseOp s sl (.harrive (shortOf f.a).toNat) with
      dst := if f.dst.nwb then .none else .ureg f.dst.reg.toNat, todo := 1 })

/-- Whether the head of an HWAIT can issue (R296). -/
def hwaitReady (s : State) (sl : Slot) (f : FmtM) : Bool :=
  phaseDone (hoopDone s sl.pair (shortOf f.a).toNat) (sl.uni32 0 f.b)

/-- HWAIT (R296). -/
def execHwait (f : FmtM) (s : State) : Host.Outcome State Fault Refusal :=
  issueWord s (.hwait f) fun s sl => if hwaitReady s sl f then .done s else .wait s

/-! ### Circles (R27, R28, R297) -/

/-- The circle of a context and a key. -/
def findCircle (s : State) (c : Nat) (key : Word) : Option Circle :=
  s.exec.circles.find? fun x => x.ctx == c && x.key == key

/-- A circle-limit record (R297, R421). -/
def circleLimit (s : State) (sl : Slot) (key : Word) (limit : Nat) : State :=
  faultRecord s sl.g.ctx { type := 0x05, group := some (sl.g, sl.run.entry), pc := sl.pc, d0 := key.toNat, d1 := limit }

/-- CJOIN: a joiner is counted from the phase after the open one (R27, R28, R297). -/
def execCjoin (f : FmtM) (s : State) : Host.Outcome State Fault Refusal :=
  issueWord s (.cjoin f) fun s sl =>
    let key := sl.uni32 0 f.a
    if sl.g.circles.any fun k => k.1 == key then .done s
    else if 8 ≤ sl.g.circles.length then .done (circleLimit s sl key 8)
    else
      match findCircle s sl.g.ctx key with
      | some x =>
        if 20480 ≤ x.present.length then .done (circleLimit s sl key 20480)
        else
          let q := x.phase + 1
          let s := s.onExec fun e =>
            { e with circles := e.circles.map fun y =>
                if y.ctx == sl.g.ctx && y.key == key then { y with members := y.members ++ [(sl.g.gid, q, q)] } else y }
          .done (updGroup s sl.g.gid fun g => { g with circles := g.circles ++ [(key, q)] })
      | none =>
        if 65536 ≤ (s.exec.circles.filter fun y => y.ctx == sl.g.ctx).length then .done (circleLimit s sl key 65536)
        else
          let s := s.onExec fun e => { e with circles := e.circles ++ [⟨sl.g.ctx, key, 0, [(sl.g.gid, 1, 1)]⟩] }
          .done (updGroup s sl.g.gid fun g => { g with circles := g.circles ++ [(key, 1)] })

/-- CLEAVE (R28, R297). -/
def execCleave (f : FmtM) (s : State) : Host.Outcome State Fault Refusal :=
  issueWord s (.cleave f) fun s sl => .done (circleLeave s sl.g.gid sl.g.ctx (sl.uni32 0 f.a))

/-- An arrival of a member recorded at its circle (R297). -/
def circleArrive (s : State) (gid c : Nat) (key : Word) : State :=
  s.onExec fun e =>
    { e with circles := e.circles.map fun x =>
        if x.ctx == c && x.key == key then
          Circle.settle { x with members := x.members.map fun m => if m.1 == gid then (m.1, m.2.1, m.2.2 + 1) else m }
        else x }

/-- CARRIVE: a release; its arrival is recorded once every earlier direct access is performed. A non-member's has no
effect (R121, R297). -/
def execCarrive (f : FmtM) (s : State) : Host.Outcome State Fault Refusal :=
  issueWord s (.carrive f) fun s sl =>
    let key := sl.uni32 0 f.a
    if !sl.g.circles.any fun k => k.1 == key then .done s
    else
      let s := updGroup s sl.g.gid fun g =>
        { g with circles := g.circles.map fun k => if k.1 == key then (k.1, k.2 + 1) else k }
      if (directOps s sl.g.gid).isEmpty && sl.g.taints.all (opPerformed s) && !s.exec.ops.any (·.arrives sl.g.gid key) then
        .done (circleArrive s sl.g.gid sl.g.ctx key)
      else .done (sendOp s { baseOp s sl (.carrive key) with todo := 1, scope := f.scope.toNat })

/-- Whether a CWAIT of a group on a circle can issue: phase q − 1 has completed, or the group has not arrived since it joined, or
is no member (R297); and no arrival that was recorded early, within whose scope the group is, stands in a phase before q (R104, R121). -/
def circleOpen (s : State) (g : Group) (key : Word) : Bool :=
  match g.circles.find? fun k => k.1 == key, findCircle s g.ctx key with
  | some k, some x =>
    (match x.members.find? fun m => m.1 == g.gid with
     | some m => m.2.1 == k.2 || (k.2 ≤ x.phase && !(findPair s g.pair).any fun p => veiled s g p.owner (circleSpace key) 0 k.2)
     | none => true)
  | _, _ => true

@[inherit_doc circleOpen] def cwaitReady (s : State) (sl : Slot) (key : Word) : Bool := circleOpen s sl.g key

/-- CWAIT (R48, R297). -/
def execCwait (f : FmtM) (s : State) : Host.Outcome State Fault Refusal :=
  issueWord s (.cwait f) fun s sl =>
    if cwaitReady s sl (sl.uni32 0 f.a) then
      .done (updPath s sl.g.gid sl.run.entry fun p => { p with cwaitSince := none })
    else
      .wait (updPath s sl.g.gid sl.run.entry fun p => { p with cwaitSince := some (p.cwaitSince.getD (s.tick, sl.uni32 0 f.a)) })

/-! ### Signals (R298) -/

/-- The address of a signal word. -/
def Slot.signalAddr (sl : Slot) (f : FmtM) : Dword := sl.uni64 0 f.a + BitVec.ofInt 64 (sextOff f.off)

/-- SIGDEC: one atomic decrement without return, a release at its scope (R298). -/
def execSigdec (f : FmtM) (s : State) : Host.Outcome State Fault Refusal :=
  issueWord s (.sigdec f) fun s sl =>
    let a := sl.signalAddr f
    let remote := !vaLocal s a
    let cls : Option OcClass := if remote then some .fab else none
    if a.toNat % 8 ≠ 0 then .cause s (groupAddrCause sl a 2)
    else if !vaOk s sl.g.ctx a then .cause s (groupAddrCause sl a 0)
    else if ocFull sl.g cls then .stall
    else
      let k := OpKind.sigdec (sl.uni32 0 f.c).toNat
      let addrs := List.replicate 64 a
      .done (sendOp s { baseOp s sl k with
        cls := cls, todo := 1, remote := if remote then 1 else 0, addrs := addrs, channel := f.channel.toNat,
        scope := f.scope.toNat, order := 2 })

/-- WAITSIG: the head waits on a watch at the signal's home slice (R298). -/
def execWaitsig (f : FmtM) (s : State) : Host.Outcome State Fault Refusal :=
  issueWord s (.waitsig f) fun s sl =>
    let a := sl.signalAddr f
    if a.toNat % 8 ≠ 0 then .cause s (groupAddrCause sl a 2)
    else if !vaOk s sl.g.ctx a then .cause s (groupAddrCause sl a 0)
    else
      match sl.p.matched with
      | some _ => .done (freeWatch s sl)
      | none => armWatch s sl (.signal a (shortOf f.c).toNat (sl.uni64 0 f.b))

end Sys2Proof.Machine
end

