-- ==== Sys2Proof/Machine/Engines.lean ====
section
/-!
DEFINITION. Copies, work rings and sequence slots: majors 0x89 and 0x8A (R299 to R303).
-/

namespace Sys2Proof.Machine

/-! ### Copies (R299, R300) -/

/-- The register that a copy's descriptor starts at. -/
def Slot.descReg (sl : Slot) (f : FmtM) (k : Nat) : Word :=
  match f.a with
  | .uni n => sl.g.sreg (n.toNat + k)
  | _ => 0

/-- The descriptor of a copy (R299). -/
def Slot.copyDesc (sl : Slot) (f : FmtM) (kind : Nat) : CopyDesc :=
  let w := sl.descReg f
  let shape := (w 3).toNat
  let flag : Option Nat := match f.b with
    | .uni n => some (sl.g.sreg n.toNat).toNat
    | _ => none
  { kind := kind, g := if kind = 2 then (w 0).zeroExtend 64 else w 1 ++ w 0, p := (w 2).toNat, rows := shape / 65536,
    rb := 4 * (shape % 65536), gp := if kind = 2 then ((w 4).toNat : Int) else (w 4).toInt, sp := ((w 5).toNat : Int),
    smode := if kind = 2 then (w 1).toNat % 4 else f.swz.toNat, dmode := f.swz.toNat, flag := flag,
    value := sl.uni64 0 f.c }

/-- Whether a descriptor's values lie in the table of R299: alignment, counts and pitches. -/
def CopyDesc.valid (d : CopyDesc) (high : Bool) : Bool :=
  let row := d.rb
  d.g.toNat % 4 == 0 && d.p % 4 == 0 && 1 ≤ d.rows && d.rows ≤ 65535 && 4 ≤ row && row ≤ 4 * 16384 && high &&
  (d.kind == 2 || d.gp % 4 == 0) &&
  (d.rows ≤ 1 || ((row : Int) ≤ d.sp && (d.kind == 0 || (row : Int) ≤ d.gp)))

/-- The cluster or scratchpad addresses of a side's rows. -/
def rowStarts (d : CopyDesc) (base : Nat) (pitch : Int) : List Int := (List.range d.rows).map fun r : Nat => (base : Int) + (r : Int) * pitch

/-- Whether every row of a side lies in range: a region of the own core, or of cluster memory. -/
def sideOk (s : State) (sl : Slot) (cl : Bool) (d : CopyDesc) (base : Nat) (pitch : Int) : Bool :=
  (rowStarts d base pitch).all fun a => (spadPlace s sl.g.core sl.pair.owner cl a d.rb).isSome

/-- The 256-byte granules of one core's scratchpad that a region's rows touch, counted from the core's byte 0 (R327). -/
def regionGranules (base : Nat) (starts : List Nat) (n : Nat) : List Nat :=
  (starts.flatMap fun a =>
    let lo := (base + a) / 256
    (List.range ((base + a + n - 1) / 256 + 1 - lo)).map (lo + ·)).eraseDups

/-- The scoreboard entry of a copy: its ranges on its own core (R300, R327). -/
def copyRange (s : State) (core : Nat) (o : PlaceSrc) (d : CopyDesc) : List Nat :=
  let base := ((findAlloc s core o).map (·.base)).getD 0
  let own (cl : Bool) (b : Nat) (pitch : Int) : List Nat :=
    (rowStarts d b pitch).filterMap fun a =>
      match spadPlace s core o cl a d.rb with
      | some (k, off) => if k = core then some off else none
      | none => none
  if d.kind = 2 then regionGranules base (own true d.g.toNat d.gp ++ own true d.p d.sp) d.rb
  else regionGranules base (own false d.p d.sp) d.rb

@[inherit_doc copyRange] def copyGranules (s : State) (sl : Slot) (d : CopyDesc) : List Nat := copyRange s sl.g.core sl.pair.owner d

/-- The entries of a core's scoreboard that are granted (R327). -/
def grantedCount (s : State) (core : Nat) : Nat := (s.exec.score.filter fun e => e.core == core && e.granted).length

/-- An entry reaches a core's scoreboard; it is granted at once when one of the 32 is free and none waits. -/
def scoreEnter (s : State) (core id : Nat) (granules : List Nat) (writes : Bool) : State :=
  let waits : Bool := s.exec.score.any fun e => e.core == core && !e.granted
  let ok := !waits && grantedCount s core < 32
  s.onExec fun e => { e with score := e.score ++ [⟨id, core, granules, writes, ok⟩] }

/-- Whether an entry is ordered behind an earlier one that has not finished (R120). -/
def scoreBehind (s : State) (e : ScoreEntry) : Bool :=
  s.exec.score.any fun x =>
    x.core == e.core && x.id < e.id && (x.writes || e.writes) && x.granules.any e.granules.contains

/-- An entry freed. -/
def scoreLeave (s : State) (id : Nat) : State :=
  s.onExec fun e => { e with score := e.score.filter fun x => x.id != id }

/-- A copy issued: the checks of R300 in order, then one engine operation under OC.COPY. -/
def copyAct (i : Instr) (f : FmtM) (kind : Nat) (s : State) (sl : Slot) : Act :=
  let d := sl.copyDesc f kind
  let high : Bool := kind != 2 || ((sl.descReg f 0).toNat < 2 ^ 21 && (sl.descReg f 1).toNat < 4)
  let flagOk : Bool := match d.flag with
    | none => true
    | some a => a % 8 == 0 && (spadPlace s sl.g.core sl.pair.owner true a 8).isSome
  let inRange : Bool :=
    if kind = 2 then sideOk s sl true d d.g.toNat d.gp && sideOk s sl true d d.p d.sp else sideOk s sl false d d.p d.sp
  if !d.valid high then .cause s (groupAddrCause sl d.g 32)
  else if kind ≠ 2 ∧ !vaOk s sl.g.ctx d.g then .cause s (groupAddrCause sl d.g 0)
  else if !inRange || !flagOk then .cause s ⟨0x0D, 1, sl.pc, BitVec.ofNat 64 d.p, 0, 0, 0, false⟩
  else if ocFull sl.g (some .copy) then .stall
  else
    let remote : Bool := kind != 2 && !vaLocal s d.g
    let k := OpKind.copy d
    let id := s.exec.seq
    let granules := copyGranules s sl d
    let s := sendOp s { baseOp s sl k with
      cls := some .copy, todo := 1, remote := if remote then 1 else 0, addrs := List.replicate 64 d.g }
    let s := popPorts s sl (wordPorts i)
    .done (scoreEnter s sl.g.core id granules (kind != 1))

/-- COPY: global memory to scratchpad (R300). -/
def execCopy (f : FmtM) (s : State) : Host.Outcome State Fault Refusal := issueWord s (.copy f) (copyAct (.copy f) f 0)

/-- COPYO: scratchpad to global memory (R300). -/
def execCopyo (f : FmtM) (s : State) : Host.Outcome State Fault Refusal := issueWord s (.copyo f) (copyAct (.copyo f) f 1)

/-- COPYC: cluster memory to cluster memory (R300). -/
def execCopyc (f : FmtM) (s : State) : Host.Outcome State Fault Refusal := issueWord s (.copyc f) (copyAct (.copyc f) f 2)

/-! ### Work rings (R302) -/

/-- Void slots at T are emptied, and T advances. -/
def Ring.settle : Nat → Ring → Ring
  | 0, r => r
  | n + 1, r =>
    let k := r.take.toNat % 16
    if r.slots.getD k .empty = .void then Ring.settle n { r with take := r.take + 1, slots := r.slots.set k .empty } else r

/-- Whether a sequence is open, and whether it is open, claimed and Empty. -/
def Ring.isOpen (r : Ring) (n : Word) : Bool := (n - r.take).toNat < 16
def Ring.accepts (r : Ring) (n : Word) : Bool :=
  r.isOpen n && 1 ≤ (r.claim - n).toNat && (r.claim - n).toNat ≤ 2 ^ 31 && r.slots.getD (n.toNat % 16) .empty == .empty

/-- The Press context of the group's cohort on its core (R301). -/
def Slot.press (s : State) (sl : Slot) : Option PressCtx :=
  s.exec.presses.find? fun p => p.core == sl.g.core && some p.cohort == sl.pair.cohort

/-- A ring of the group's Press context. -/
def Slot.ring (s : State) (sl : Slot) (k : Nat) : Ring := ((sl.press s).map fun p => p.rings.getD k Ring.zero).getD Ring.zero

/-- A ring of the group's Press context changed. -/
def setRing (s : State) (sl : Slot) (k : Nat) (r : Ring) : State :=
  match sl.press s with
  | some p => updPress s p.core p.num fun p => { p with rings := p.rings.set k r }
  | none => s

/-- A ring-misuse record (R302, R421). -/
def ringMisuse (s : State) (sl : Slot) (k : Nat) (n : Word) : State :=
  faultRecord s sl.g.ctx { type := 0x06, group := some (sl.g, sl.run.entry), pc := sl.pc, d0 := k, d1 := n.toNat }

/-- One sequence put into a state, or a misuse recorded. -/
def ringPut (s : State) (sl : Slot) (k : Nat) (n : Word) (v : RingSlot) : State :=
  let r := sl.ring s k
  if r.accepts n then
    setRing s sl k (Ring.settle 16 { r with slots := r.slots.set (n.toNat % 16) v, put := r.put.set (n.toNat % 16) (s.exec.cycle + 1) })
  else ringMisuse s sl k n

/-- The ring that a word names. -/
def ringOf (f : FmtM) : Nat := (shortOf f.a).toNat

/-- Whether a unit later in the order of R302, partitions 0 to 3 and then the Ladle, has claimed from a ring in this cycle. -/
def Ring.claimedLater (r : Ring) (cycle unit : Nat) : Bool := r.last.1 == cycle && unit < r.last.2

/-- GCLAIM (R302). A claim that would stand behind a later unit's of the same cycle issues in the next one. -/
def execGclaim (f : FmtM) (s : State) : Host.Outcome State Fault Refusal :=
  issueWord s (.gclaim f) fun s sl =>
    let r := sl.ring s (ringOf f)
    if r.claimedLater s.exec.cycle sl.run.unit then .stall else
    let k := min (sl.uni32 0 f.b).toNat 16
    let s := setRing s sl (ringOf f) { r with claim := r.claim + BitVec.ofNat 32 k, last := (s.exec.cycle, sl.run.unit) }
    .done (writeUni s sl f.dst r.claim)

/-- GCOMMIT (R302). -/
def execGcommit (f : FmtM) (s : State) : Host.Outcome State Fault Refusal :=
  issueWord s (.gcommit f) fun s sl =>
    .done (ringPut s sl (ringOf f) (sl.uni32 0 f.b) (.committed (sl.uni32 0 f.c)))

/-- Whether the head of a GAWAIT can issue (R302). -/
def gawaitReady (s : State) (sl : Slot) (f : FmtM) : Bool :=
  let r := sl.ring s (ringOf f)
  let n := sl.uni32 0 f.b
  r.isOpen n || 2 ^ 31 ≤ (n - r.take).toNat

/-- GAWAIT (R302). -/
def execGawait (f : FmtM) (s : State) : Host.Outcome State Fault Refusal :=
  issueWord s (.gawait f) fun s sl => if gawaitReady s sl f then .done s else .wait s

/-- GRETIRE: k consecutive sequences become Void (R302). -/
def execGretire (f : FmtM) (s : State) : Host.Outcome State Fault Refusal :=
  issueWord s (.gretire f) fun s sl =>
    let n := sl.uni32 0 f.b
    .done ((List.range (sl.uni32 0 f.c).toNat).foldl (fun s j => ringPut s sl (ringOf f) (n + BitVec.ofNat 32 j) .void) s)

/-! ### Sequence slots (R303) -/

/-- SQPUB: one eight-byte write, a release at .COH that never waits (R303). -/
def execSqpub (f : FmtM) (s : State) : Host.Outcome State Fault Refusal :=
  issueWord s (.sqpub f) fun s sl =>
    let a := sl.flagAddr f
    if a % 8 ≠ 0 ∨ (spadPlace s sl.g.core sl.pair.owner true a 8).isNone then
      .cause s ⟨0x0D, 1, sl.pc, BitVec.ofInt 64 a, 0, 0, 0, false⟩
    else
      let data : Lanes := List.replicate 64 (sl.uni32 0 f.c ++ sl.uni32 0 f.b)
      .done (sendOp s { baseOp s sl .publish with
        todo := 1, addrs := intLanes fun _ => a, data := data, order := 2, scope := 2 })

/-- SQGET: the head waits until the slot's number equals n, and takes its value (R303). -/
def execSqget (f : FmtM) (s : State) : Host.Outcome State Fault Refusal :=
  issueWord s (.sqget f) fun s sl =>
    watchAct (sl.flagAddr f) (fun a => .slot sl.g.core a (sl.uni32 0 f.b))
      (fun s v => writeUni s sl f.dst (v.extractLsb' 32 32)) s sl

end Sys2Proof.Machine
end

