-- ==== Sys2Proof/Machine/Leases.lean ====
section
/-!
DEFINITION. Leases of fabric lanes: the words LEASE, its release form and LEASEQ, and the events of a lease at its
requester and its receiver (R165 to R173, R331 to R333).
-/

namespace Sys2Proof.Machine

/-- An event of the machine: it happens, or its rule's condition does not hold now. -/
def event (o : Option State) : Host.Outcome State Fault Refusal :=
  match o with
  | some s => .next s
  | none => .refused .eventNotEnabled

/-- An event that happens only under a condition. -/
def eventIf (c : Bool) (s : State) : Host.Outcome State Fault Refusal := event (if c then some s else none)

/-! ### The pair and its lanes -/

/-- The floors, links and lane sets of the pair with a peer. -/
def findLink (s : State) (peer : Nat) : Option PeerLink := s.fabric.links.find? fun l => l.peer == peer

def updLink (s : State) (peer : Nat) (f : PeerLink → PeerLink) : State :=
  s.onFabric fun x => { x with links := x.links.map fun l => if l.peer == peer then f l else l }

/-- A lane set that joins a pair. -/
def LaneSet.fresh (peer : Nat) (out : Bool) (set key gen tick : Nat) : LaneSet :=
  { peer := peer, out := out, set := set, key := key, flits := [], gen := gen, sent := 0, txSeq := 0, genSince := tick, switchAt := none,
    rxSeq := 0, rxGen := gen, rxAnnounced := false, rxNewAt := none, rxBad := false }

/-- Leases of this device on the pair to a peer that hold lanes, by the order of their grants (R167). -/
def heldLeases (s : State) (peer : Nat) : List Lease :=
  let all := s.ctxs.flatMap fun x => x.leases.filter fun l => l.peer == peer && (l.st == .granted || l.st == .notice)
  all.foldr (fun x ys => (ys.takeWhile fun y => y.since < x.since) ++ [x] ++ ys.dropWhile fun y => y.since < x.since) []

/-- The lane sets that a pair's numbering names, in order (R167): the floor's, with key 0, then those of each lease. -/
def setGroups (s : State) (peer : Nat) (out : Bool) : List (Nat × Nat) :=
  match findLink s peer with
  | none => []
  | some l =>
    if out then (0, l.floorOut / 4) :: (heldLeases s peer).map fun x => (x.since + 1, x.held / 4)
    else (0, l.floorIn / 4) :: (s.fabric.served.filter fun v => v.peer == peer).map fun v => (v.id + 1, v.lanes / 4)

/-- A pair's lane sets renumbered (R167): those that stay keep their order and their state, and new ones start in the pair's current
generation. A lease that shrinks gives up its last sets. -/
def renumber (s : State) (peer : Nat) (out : Bool) : State :=
  let mine (y : LaneSet) : Bool := y.peer == peer && y.out == out
  let old := s.fabric.sets.filter mine
  let gen := (old.head?.map fun y => if out then y.gen else y.rxGen).getD 0
  let all := (setGroups s peer out).flatMap fun k =>
    let kept := (old.filter fun y => y.key == k.1).take k.2
    kept ++ (List.replicate (k.2 - kept.length) (LaneSet.fresh peer out 0 k.1 gen s.tick))
  let new := ((List.range all.length).zip all).map fun x => { x.2 with set := x.1 }
  s.onFabric fun f => { f with sets := (f.sets.filter fun y => !mine y) ++ new }

/-- The pair's lane sets change by some lanes; the new numbering waits for R173. -/
def changeSets (s : State) (peer : Nat) (lanes : Int) : State :=
  updLink s peer fun l =>
    { l with pendingSets := some (((l.pendingSets.getD l.sets : Nat) : Int) + lanes / 4).toNat }

/-! ### The lease slots of a context (R331) -/

/-- Whether a lease is live (R169). -/
def Lease.live (l : Lease) : Bool := l.st == .pending || l.st == .granted || l.st == .notice

/-- The ticket of a lease (R331). -/
def Lease.ticket (l : Lease) : Nat := l.gen % 2 ^ 16 * 256 + l.slot

/-- The lease that a ticket names on this device in a context; none when it is stale or foreign (R332). -/
def findLease (s : State) (c ticket : Nat) : Option Lease := (getCtx s c).leases.find? fun l => l.ticket == ticket

def leaseAt (s : State) (c slot : Nat) : Option Lease := (getCtx s c).leases.find? fun l => l.slot == slot

def updLease (s : State) (c slot : Nat) (f : Lease → Lease) : State :=
  updCtx s c fun x => { x with leases := x.leases.map fun l => if l.slot == slot then f l else l }

/-- The lanes that a lease counts against its pair's limit (R169). -/
def Lease.counted (l : Lease) : Nat := if l.live then l.held else 0

/-- The lanes of every live lease on the pair to a receiver. -/
def leasedTo (s : State) (b : Nat) : Nat :=
  (s.ctxs.map fun x => ((x.leases.filter fun l => l.peer == b).map Lease.counted).sum).sum

/-- The lowest slot that a new request may take: never used, Refused or Ended (R331). -/
def freeLeaseSlot (x : Ctx) : Option Nat :=
  (List.range 256).find? fun k =>
    match x.leases.find? fun l => l.slot == k with
    | some l => !l.live
    | none => true

/-- A slot filled; its generation count rises by 1. -/
def putLease (s : State) (c : Nat) (l : Lease) : State :=
  updCtx s c fun x => { x with leases := (x.leases.filter fun y => y.slot != l.slot) ++ [l] }

/-- The completed operations of OC.CTL at the front of a group's order leave, and are counted (R115). -/
def settleCtl (s : State) (gid : Nat) : State := settleClass s gid .ctl

/-- Operations of OC.CTL that have resolved. -/
def resolveCtl (s : State) (p : Op → Bool) : State :=
  let gids := ((s.exec.ops.filter fun o => o.cls == some .ctl && p o).map (·.gid)).eraseDups
  let s := s.onExec fun e =>
    { e with ops := e.ops.map fun o => if o.cls == some .ctl && p o then { o with todo := 0 } else o }
  gids.foldl settleCtl s

/-- Whether an operation is a LEASE, or a release, that waits for the answer to a ticket of a context. -/
def Op.onTicket (o : Op) (c ticket : Nat) : Bool :=
  o.ctx == c && match o.kind with
    | .lease (some t) => t == ticket
    | .drop t _ => t == ticket
    | _ => false

/-- A lease Ended (R171): its transmit lanes return, and the pair's lane sets shrink once R173 allows. The answer to a request that is
still on its way then finds no ticket. -/
def endLease (s : State) (c slot : Nat) : State :=
  match leaseAt s c slot with
  | none => s
  | some l =>
    let s := updLease s c slot fun l => { l with st := .ended, held := 0, noticed := 0, term := 0 }
    let s := s.onFabric fun x => { x with txPool := x.txPool + l.held }
    if l.st = .pending then updLink s l.peer fun x => { x with stray := x.stray + 1 } else changeSets s l.peer (-(l.held : Int))

/-- The result of LEASEQ (R333). -/
def leaseWord (s : State) (c ticket : Nat) : Dword :=
  if ticket / 256 = 0x800000 then
    if ticket % 256 ≤ 4 then BitVec.ofNat 64 (2 + ticket % 256 * 2 ^ 3) else 7
  else
    match findLease s c ticket with
    | none => 7
    | some l =>
      let code := match l.st with
        | .pending => 0 | .granted => 1 | .refused => 2 | .notice => 3 | .ended => 4
      let on : Bool := l.st == .granted || l.st == .notice
      BitVec.ofNat 64 (code + (if l.st = .refused then l.reason else 0) * 2 ^ 3 +
        (if on then l.held * 2 ^ 6 + l.noticed * 2 ^ 18 + (l.until_ - s.tick) / 1000 * 2 ^ 30 else 0))

/-! ### The words (R331 to R333) -/

/-- The reason for which LEASE is refused at issue, in the order of R331 and R169; 0 when it passes. -/
def leaseRefusal (s : State) (c b k t : Nat) : Nat :=
  let x := getCtx s c
  if !(b < 1024 && x.members.getLsbD b) || b == s.fabric.index || k % 4 != 0 || k < 4 || 2048 < k || t < 1 || 100000 < t then 4
  else if 2048 < ((findLink s b).map (·.floorOut)).getD 0 + leasedTo s b + k then 1
  else if 256 ≤ (x.leases.filter Lease.live).length then 1
  else if s.fabric.txPool < k then 2
  else 0

/-- LEASE (R169, R331). -/
def execLease (f : FmtM) (s : State) : Host.Outcome State Fault Refusal :=
  issueWord s (.lease f) fun s sl =>
    let c := sl.g.ctx
    let b := (sl.uni32 0 f.a).toNat
    let k := (sl.uni32 0 f.b).toNat
    let t := (sl.uni32 0 f.c).toNat
    if ocFull sl.g (some .ctl) then .stall
    else
      match leaseRefusal s c b k t, freeLeaseSlot (getCtx s c) with
      | 0, some slot =>
        let gen := (((leaseAt s c slot).map (·.gen)).getD 0 + 1) % 2 ^ 16
        let l : Lease := ⟨slot, gen, .pending, 0, b, k, 0, t, 0, 0, false, 0⟩
        let s := putLease s c l
        let s := s.onFabric fun x => { x with txPool := x.txPool - k }
        let s := leaseOut s b 1 [k, t, if f.off.getLsbD 0 then 1 else 0]
        let s := sendOp s { baseOp s sl (.lease (some l.ticket)) with cls := some .ctl, todo := 1 }
        .done (writeUni s sl f.dst (BitVec.ofNat 32 l.ticket))
      | reason, _ =>
        let s := sendOp s { baseOp s sl (.lease none) with cls := some .ctl }
        .done (settleCtl (writeUni s sl f.dst (BitVec.ofNat 32 (2 ^ 31 + reason))) sl.g.gid)

/-- The release form of LEASE (R332). -/
def execLeaseDrop (f : FmtM) (s : State) : Host.Outcome State Fault Refusal :=
  issueWord s (.leaseDrop f) fun s sl =>
    let c := sl.g.ctx
    let ticket := (sl.uni32 0 f.a).toNat
    if ocFull sl.g (some .ctl) then .stall
    else
      let op (s : State) (peer : Nat) (todo : Mask) : State :=
        settleCtl (sendOp s { baseOp s sl (.drop ticket peer) with cls := some .ctl, todo := todo }) sl.g.gid
      match findLease s c ticket with
      | none => .done (op s 0 0)
      | some l =>
        match l.st with
        | .granted => .done (op (endLease (leaseOut s l.peer 5 [l.held]) c l.slot) l.peer 1)
        | .notice => .done (op (endLease (leaseOut s l.peer 5 [l.held]) c l.slot) l.peer 1)
        | .pending => .done (op (updLease s c l.slot fun l => { l with dropAsked := true }) l.peer 1)
        | _ => .done (op s l.peer 0)

/-- LEASEQ: the value is read when its result returns (R333). -/
def execLeaseq (f : FmtM) (s : State) : Host.Outcome State Fault Refusal :=
  issueWord s (.leaseq f) fun s sl =>
    if ocFull sl.g (some .ctl) then .stall
    else
      .done (sendOp s { baseOp s sl (.leaseq (sl.uni32 0 f.a).toNat) with
        cls := some .ctl, todo := 1, dst := if f.dst.nwb then .none else .upair f.dst.reg.toNat })

/-! ### The receiver (R170, R171) -/

/-- A request placed behind the earlier ones of its kind, and among those of its cycle by its requester's index. -/
def queueRequest (q : List LeaseReq) (r : LeaseReq) : List LeaseReq :=
  let passes (x : LeaseReq) : Bool := x.cycle == r.cycle && r.peer < x.peer
  (q.takeWhile fun x => !passes x) ++ [r] ++ q.dropWhile fun x => !passes x

/-- A request in the queue (R170): ahead of every waiting one that was not itself placed ahead, where its requester has been refused
three times; and behind the head `first` for which notices have been put. -/
def placeRequest (first : List LeaseReq) (q : List LeaseReq) (r : LeaseReq) : List LeaseReq :=
  let ahead := q.takeWhile fun x => x.ahead
  let rest := q.dropWhile fun x => x.ahead
  first ++ (if r.ahead then queueRequest ahead r ++ rest else ahead ++ queueRequest rest r)

/-- A lease that this device serves is over: its lanes that are not in notice return to the pool (R171). -/
def endServed (s : State) (id : Nat) : State :=
  match s.fabric.served.find? fun v => v.id == id with
  | none => s
  | some v =>
    renumber (s.onFabric fun x =>
      { x with served := x.served.filter fun y => y.id != id, rxPool := x.rxPool + (v.lanes - v.noticed) }) v.peer false

/-- A lease request reaches the receiver's queue (R170). A message of no lanes is the release of the peer's
`term`-th lease, oldest first. -/
def execLeaseRequestArrival (peer lanes term : Nat) (revoking : Bool) (s : State) : Host.Outcome State Fault Refusal :=
  if lanes = 0 then
    match (s.fabric.served.filter fun v => v.peer == peer)[term]? with
    | some v => .next (endServed s v.id)
    | none => .refused .eventNotEnabled
  else
    match findLink s peer with
    | none => .refused .eventNotEnabled
    | some l =>
      let r : LeaseReq := ⟨peer, lanes, term, revoking, l.refusals == 3, s.exec.cycle, false⟩
      let kept := if (s.fabric.reqs.head?.map (·.decided)).getD false then 1 else 0
      .next (s.onFabric fun x => { x with reqs := placeRequest (x.reqs.take kept) (x.reqs.drop kept) r })

/-- The leases chosen for notice, oldest first, for lanes still needed (R170): lease and lanes. -/
def chooseNotices : Nat → List Served → List (Nat × Nat)
  | _, [] => []
  | need, v :: vs =>
    if need = 0 then []
    else
      let n := min need (v.lanes - v.noticed)
      (v.id, n) :: chooseNotices (need - n) vs

/-- Served leases by grant time, ties to the lower requester. -/
def insertServed (v : Served) : List Served → List Served
  | [] => [v]
  | w :: ws => if v.since < w.since ∨ (v.since = w.since ∧ v.peer < w.peer) then v :: w :: ws else w :: insertServed v ws

/-- The receiver decides the request at the head of its queue (R170); while notices stand, it stays there. -/
def execLeaseDecision (s : State) : Host.Outcome State Fault Refusal :=
  match s.fabric.reqs with
  | [] => .refused .eventNotEnabled
  | r :: rest =>
    let x := s.fabric
    let others := (x.served.filter fun v => v.peer != r.peer && v.noticed == 0).foldr insertServed []
    let revocable := (others.map fun v => v.lanes).sum
    if x.notices ≠ [] then .refused .eventNotEnabled
    else if r.lanes ≤ x.rxPool then
      let (id, s) := fresh s
      let v : Served := ⟨id, r.peer, r.lanes, 0, s.tick, s.tick + 1000 * r.term⟩
      let s := s.onFabric fun x => { x with reqs := rest, rxPool := x.rxPool - r.lanes, served := x.served ++ [v] }
      .next (leaseOut (updLink (renumber s r.peer false) r.peer fun l => { l with refusals := 0 }) r.peer 2 [r.lanes])
    else if r.revoking && r.lanes ≤ x.rxPool + revocable then
      let ns := chooseNotices (r.lanes - x.rxPool) others
      let s := ns.foldl (fun s n =>
        let (id, s) := fresh s
        let peer := ((s.fabric.served.find? fun v => v.id == n.1).map (·.peer)).getD 0
        let s := s.onFabric fun x =>
          { x with notices := x.notices ++ [⟨id, n.1, n.2, s.tick + 20000⟩],
                   served := x.served.map fun v => if v.id == n.1 then { v with noticed := v.noticed + n.2 } else v }
        leaseOut s peer 4 [n.2]) s
      .next (s.onFabric fun x => { x with reqs := { r with decided := true } :: rest })
    else
      let s := s.onFabric fun x => { x with reqs := rest }
      .next (leaseOut (updLink s r.peer fun l => { l with refusals := min 3 (l.refusals + 1) }) r.peer 3 [])

/-! ### The requester (R171) -/

/-- The receiver's message for a lease of this device: a grant or a refusal of a Pending ticket, or a notice of lanes of
one that is held. For `c` = 16 it answers a request to device `slot` whose ticket has ended, and a grant is given back (R171). -/
def execLeaseGrant (c slot : Nat) (granted : Bool) (notice : Nat) (s : State) : Host.Outcome State Fault Refusal :=
  if c = 16 then
    eventIf (((findLink s slot).map (·.stray)).getD 0 != 0 && notice == 0)
      (let s := updLink s slot fun l => { l with stray := l.stray - 1 }
       if granted then leaseOut s slot 5 [0] else s)
  else match leaseAt s c slot with
  | none => .refused .eventNotEnabled
  | some l =>
    if notice ≠ 0 then
      eventIf (l.st == .granted && notice ≤ l.held && notice % 4 == 0)
        (updLease s c slot fun l => { l with st := .notice, noticed := notice, noticeAt := s.tick + 20000 })
    else if l.st ≠ .pending then .refused .eventNotEnabled
    else
      let s :=
        if !granted then
          (updLease s c slot fun l => { l with st := .refused, reason := 3, held := 0 }).onFabric fun x =>
            { x with txPool := x.txPool + l.held }
        else if l.dropAsked then
          updLink (endLease (leaseOut s l.peer 5 [l.held]) c slot) l.peer fun x => { x with stray := x.stray - 1 }
        else
          let (n, s) := fresh s
          changeSets (updLease s c slot fun l => { l with st := .granted, until_ := s.tick + 1000 * l.term, since := n }) l.peer l.held
      .next (resolveCtl s fun o => o.onTicket c l.ticket)

/-- A notice ends (R170, R171): number `k` of the receiver for `c` = 16, else the lease of a slot of context `c`. -/
def execNoticeEnd (c k : Nat) (s : State) : Host.Outcome State Fault Refusal :=
  if c = 16 then
    match s.fabric.notices[k]? with
    | none => .refused .eventNotEnabled
    | some n =>
      if s.tick < n.ends then .refused .eventNotEnabled
      else
        let peer := ((s.fabric.served.find? fun v => v.id == n.lease).map (·.peer)).getD s.fabric.index
        .next (renumber (s.onFabric fun x =>
          { x with notices := x.notices.filter fun y => y.id != n.id, rxPool := x.rxPool + n.lanes,
                   served := (x.served.map fun v =>
                     if v.id == n.lease then { v with lanes := v.lanes - n.lanes, noticed := v.noticed - n.lanes } else v).filter
                       fun v => v.lanes != 0 }) peer false)
  else
    match leaseAt s c k with
    | none => .refused .eventNotEnabled
    | some l =>
      if l.st ≠ .notice ∨ s.tick < l.noticeAt then .refused .eventNotEnabled
      else if l.until_ ≤ s.tick ∨ l.held ≤ l.noticed then .next (endLease s c k)
      else
        let s := s.onFabric fun x => { x with txPool := x.txPool + l.noticed }
        .next (changeSets (updLease s c k fun l =>
          { l with st := .granted, held := l.held - l.noticed, noticed := 0 }) l.peer (-(l.noticed : Int)))

/-- A lease's term expires, without notice (R171): a lease of a slot of context `c`, or for `c` = 16 the served lease
that `slot` numbers. -/
def execLeaseTermExpiry (c slot : Nat) (s : State) : Host.Outcome State Fault Refusal :=
  if c = 16 then
    match s.fabric.served[slot]? with
    | some v => eventIf (v.until_ ≤ s.tick) (endServed s v.id)
    | none => .refused .eventNotEnabled
  else
    match leaseAt s c slot with
    | some l => eventIf ((l.st == .granted || l.st == .notice) && l.until_ ≤ s.tick) (endLease s c slot)
    | none => .refused .eventNotEnabled

/-- The sender uses a pair's new lane-set numbering once its relaxed flits are acknowledged, and sends and counts those that it
held (R167, R173); the releases of leases on the pair complete (R332). -/
def execLaneSetChange (peer : Nat) (s : State) : Host.Outcome State Fault Refusal :=
  match findLink s peer with
  | none => .refused .eventNotEnabled
  | some l =>
    match l.pendingSets with
    | none => .refused .eventNotEnabled
    | some _ =>
      if l.unacked ≠ 0 then .refused .eventNotEnabled
      else
        let n := ((setGroups s peer true).map (·.2)).sum
        let s := renumber (updLink s peer fun l => { l with sets := n, pendingSets := none, held := [] }) peer true
        let s := l.held.foldl (fun s x => flitsOn (assayAdd s x.1 44 x.2.2) peer (relaxedHash x.2.1 % max 1 n) x.2.2 true) s
        .next (resolveCtl s fun o => match o.kind with
          | .drop t p => p == peer && !((findLease s o.ctx t).any Lease.live)
          | _ => false)

/-- Every lease that this device holds on a pair ends, and every lease that it serves there (R171). -/
def dropPeerLeases (s : State) (peer : Nat) : State :=
  let s := (List.range 16).foldl (fun s c =>
    ((getCtx s c).leases.filter fun l => l.live && l.peer == peer).foldl (fun s l =>
      resolveCtl (endLease s c l.slot) fun o => o.onTicket c l.ticket) s) s
  let s := (s.fabric.served.filter fun v => v.peer == peer).foldl (fun s v => endServed s v.id) s
  s.onFabric fun x => { x with reqs := x.reqs.filter fun r => r.peer != peer }

/-- A peer leaves the domain, or its context there ends (R171). -/
def execPeerLeavesDomain (peer : Nat) (s : State) : Host.Outcome State Fault Refusal :=
  eventIf (s.fabric.formed && (findLink s peer).isSome) (dropPeerLeases s peer)

end Sys2Proof.Machine
end

