-- ==== Sys2Proof/Machine/Fabric.lean ====
section
/-!
DEFINITION. Home-agent operations, reduce windows, fabric fences and remote reads: the words NMOP, ST.MR, XFENCE and
both forms of RGET (R174, R175, R177 to R180, R186 to R188, R330, R334 to R337).
-/

namespace Sys2Proof.Machine

/-! ### NMOP (R177, R334) -/

/-- The alignment of R177: the addresses that the operands name. -/
def nmopAligned (op : Nat) (v : Lanes) : Bool :=
  let a := (v.get 0).toNat
  match op with
  | 0 => a % 16 == 0
  | 1 => a % 32 == 0
  | 2 => a % 16 == 0 && (v.get 1).toNat % 8 == 0
  | 3 => a % 16 == 0
  | _ => a % 8 == 0

/-- The limits of CHASE on the link offset and the hop count (R177). -/
def chaseOk (v : Lanes) : Bool :=
  let o := (v.get 1).toNat
  let n := (v.get 2).toNat
  o % 8 == 0 && o ≤ 8184 && 1 ≤ n && n ≤ 16

/-- NMOP (R178, R334). -/
def execNmop (f : FmtM) (s : State) : Host.Outcome State Fault Refusal :=
  issueWord s (.nmop f) fun s sl =>
    let op := f.off.toNat
    let v := sl.lanes 0 f.b
    let a := v.get 0
    if !vaOk s sl.g.ctx a then .cause s (groupAddrCause sl a 0)
    else if !nmopAligned op v then .cause s (groupAddrCause sl a 2)
    else if op == 4 && !chaseOk v then .cause s (groupAddrCause sl a 64)
    else if ocFull sl.g (some .fab) then .stall
    else
      let k := OpKind.nmop op
      let remote : Mask := if vaLocal s a then 0 else 1
      let addrs := List.replicate 64 a
      .done (sendOp s { baseOp s sl k with
        cls := some .fab, dst := if f.dst.nwb then .none else .vreg f.dst.reg.toNat, todo := 1, remote := remote,
        addrs := addrs, data := v, res := Lanes.zero })

/-! ### Reduce windows (R179, R180, R335) -/

/-- A context's window, when it is registered here and this device is a member. -/
def windowOf (s : State) (c w : Nat) : Option Window :=
  match (getCtx s c).windows.getD w none with
  | some x => if x.members.contains s.fabric.index then some x else none
  | none => none

/-- What a lane that is not effective supplies (R180). -/
def mrIdle (fmt : Nat) : Dword :=
  if fmt = 0x08 then 0x80000000 else if fmt = 0x09 ∨ fmt = 0x0A then 0x80008000 else 0

/-- ST.MR (R180, R335): an engine operation of two chunk contributions. -/
def execStMr (f : FmtM) (s : State) : Host.Outcome State Fault Refusal :=
  issueWord s (.stMr f) fun s sl =>
    let w := (sl.uni32 0 f.a).toNat
    let q := (sl.uni32 0 f.b).toNat
    match (if w < 64 then windowOf s sl.g.ctx w else none) with
    | none => .cause s (groupAddrCause sl (BitVec.ofNat 64 q) (2 ^ 11))
    | some x =>
      if q % 256 ≠ 0 ∨ x.len < q + 256 then .cause s (groupAddrCause sl (BitVec.ofNat 64 q) (2 ^ 11))
      else if ocFull sl.g (some .fab) then .stall
      else
        let eff := sl.eff f.guard
        let data : Lanes := Lanes.merge eff (sl.sdata f.c) (List.replicate 64 (mrIdle x.fmt))
        let k := OpKind.stmr w q []
        let s := popPorts s sl (wordPorts (.stMr f))
        .done (sendOp s { baseOp s sl k with
          cls := some .fab, todo := 3, remote := if x.home = s.fabric.index then 0 else 3,
          addrs := List.replicate 64 (BitVec.ofNat 64 (x.home * 2 ^ 53 + x.dst + q)), data := data })

/-! ### XFENCE (R175, R336) -/

/-- Whether part of an operation is a remote direct access, or a remote engine operation, to a device, or to any for none, and is not
performed yet. -/
def Op.goesTo (o : Op) (d : Option Nat) : Bool :=
  let named (a : Dword) : Bool := match d with
    | none => vaOwner a != o.from_
    | some d => vaOwner a == d
  match o.kind with
  | .mapft => false
  | .copy x => o.remote != 0 && o.pend != 0 && named x.g
  | _ => (List.range 64).any fun i => (o.remote &&& o.pend).getLsbD i && (o.unitsLeft i).any fun u => named u.2.1

/-- XFENCE (R175, R336). It waits for faulted accesses too, those of poison records among them, and for no MAPFT (R345). -/
def execXfence (f : FmtM) (s : State) : Host.Outcome State Fault Refusal :=
  issueWord s (.xfence f) fun s sl =>
    if ocFull sl.g (some .ctl) then .stall
    else
      let all := f.off.getLsbD 0
      let d := (sl.uni32 0 f.a).toNat
      let names : Bool := all || (d < 1024 && (getCtx s sl.g.ctx).members.getLsbD d && d != s.fabric.index)
      let target : Option Nat := if all then none else some d
      let ids := (s.exec.ops.filter fun o =>
        o.gid == sl.g.gid && o.cls != some .ctl && o.goesTo target).map (·.id)
      let after := if names then ids else []
      let todo : Mask := if after.isEmpty then 0 else 1
      .done (settleCtl (sendOp s { baseOp s sl (.xfence target all after) with cls := some .ctl, todo := todo }) sl.g.gid)

/-! ### RGET (R187, R188, R337) -/

/-- RGET, queue form: a misaligned lane is poisoned (R65, R188, R337). -/
def execRgetQueue (f : FmtM) (s : State) : Host.Outcome State Fault Refusal :=
  issueWord s (.rgetQueue f) fun s sl =>
    let k := (sl.uni32 0 f.a).toNat
    match peerEntry s sl.g.ctx k with
    | none => .cause s (groupAddrCause sl 0 0)
    | some _ =>
      if ocFull sl.g (some .fab) then .stall
      else
        let eff := sl.eff f.guard
        let addrs := sl.lanes 0 f.b
        let bad := maskOf fun i => eff.getLsbD i && (addrs.get i).toNat % 4 != 0
        let (s, dst) := openDst s sl f.dst eff
        if eff == 0 then .done s
        else
          let o : Op := { baseOp s sl (.rgetQueue k) with
            id := s.exec.seq, cls := some .fab, dst := dst, todo := eff &&& ~~~bad, faulted := bad,
            cause := if bad != 0 then 8 else 0, marks := if bad != 0 then 2 else 0, addrs := addrs, res := Lanes.zero }
          .done (sendRget (sendOp s o) o o.todo)

/-- RGET, scratchpad form (R188, R337). -/
def execRgetSpad (f : FmtM) (s : State) : Host.Outcome State Fault Refusal :=
  issueWord s (.rgetSpad f) fun s sl =>
    let k := (sl.uni32 0 f.a).toNat
    let src := sl.uni64 0 f.b
    let d := sl.uni64 0 f.c
    let off := (d.extractLsb' 0 32).toNat
    let n := (d.extractLsb' 32 32).toNat
    match peerEntry s sl.g.ctx k with
    | none => .cause s (groupAddrCause sl 0 0)
    | some _ =>
      if src.toNat % 4 ≠ 0 ∨ off % 4 ≠ 0 ∨ n % 4 ≠ 0 ∨ n < 4 ∨ 65536 < n then .cause s (groupAddrCause sl src 32)
      else if !spadIn s sl.g.core sl.pair.owner off n then
        .cause s ⟨0x0D, 1, sl.pc, BitVec.ofNat 64 off, 0, 0, 0, false⟩
      else if ocFull sl.g (some .fab) then .stall
      else
        let o : Op := { baseOp s sl (.rgetSpad k off n f.swz.toNat) with
          id := s.exec.seq, cls := some .fab, todo := BitVec.ofNat 64 (2 ^ (rgetPieces 18 src.toNat 0 n).length - 1),
          addrs := List.replicate 64 src }
        .done (sendRget (sendOp s o) o o.todo)

end Sys2Proof.Machine
end

