-- ==== Sys2Proof/Machine/System.lean ====
section
/-!
DEFINITION. The system words of majors 0x01 to 0x06 for execute and access groups: traps, breakpoints, system registers,
the return from the handler, mapping requests, registers, launches, trace and accounting (R338 to R351, R451, R452).
-/

namespace Sys2Proof.Machine

/-! ### TRAP (R340) -/

/-- TRAP: the boundary cause 0x10, with n in the detail field. -/
def execTrap (f : FmtY) (s : State) : Host.Outcome State Fault Refusal :=
  issueWord s (.trap f) fun s sl => .cause s ⟨0x10, 1, sl.pc, 0, 0, 0, f.sel.toNat, false⟩

/-! ### System registers (R342) -/

/-- The value of a system register; MAPST is read when the result returns. -/
def sysReadReg (s : State) (g : Group) (sel : Nat) : Dword :=
  match sel with
  | 0x000 => BitVec.ofNat 64 s.tick
  | 0x001 => BitVec.ofNat 64 (s.mysko.clock % 65536)
  | 0x100 => g.trap.cause
  | 0x101 => g.trap.epc
  | 0x102 => g.trap.addr
  | 0x103 => g.trap.lanes
  | 0x104 => g.trap.pc0
  | 0x105 => g.trap.pc1
  | 0x106 => g.trap.pc2
  | 0x107 => g.trap.pc3
  | 0x108 => g.trap.exec
  | 0x109 => g.trap.mapst
  | 0x110 => handlerEntry s g.ctx g.stream
  | _ => 0

/-- SYSRD: the value at issue, and that of MAPST once every earlier MAPFT of the group has completed (R342). -/
def execSysrd (f : FmtY) (s : State) : Host.Outcome State Fault Refusal :=
  issueWord s (.sysrd f) fun s sl =>
    let maps := (s.exec.ops.filter fun o => o.gid == sl.g.gid && o.kind == .mapft).map (·.id)
    .done (sendOp s { baseOp s sl (.sysrd f.sel.toNat) with
      dst := if f.dst.nwb then .none else .upair f.dst.reg.toNat,
      res := [sysReadReg s sl.g f.sel.toNat], after := if f.sel = 0x109 then maps else [] })

/-- SYSWR of TREPC or TREXEC (R342). -/
def execSyswr (f : FmtY) (s : State) : Host.Outcome State Fault Refusal :=
  issueWord s (.syswr f) fun s sl =>
    let v := sl.uni64 0 f.a
    .done (updGroup s sl.g.gid fun g =>
      { g with trap := if f.sel = 0x101 then { g.trap with epc := v } else { g.trap with exec := v } })

/-! ### The return from the handler (R65, R344) -/

/-- The entry of a queue with a number. -/
def Queue.entry (q : Queue) (id : Nat) : Option Entry := q.entries.find? fun e => e.id == id

/-- An entry of a queue changed. -/
def updEntry (s : State) (pair q id : Nat) (f : Entry → Entry) : State :=
  updPair s pair fun p =>
    { p with queues := p.queues.modify q fun x => { x with entries := x.entries.map fun e => if e.id == id then f e else e } }

/-- The lanes of a re-issued access that fail again at once: an address that fails R83, or is misaligned for RGET. -/
def Op.stillBad (s : State) (o : Op) (lanes : Mask) : Mask :=
  match o.kind with
  | .rgetQueue _ => maskOf fun i => lanes.getLsbD i && (o.addrs.get i).toNat % 4 != 0
  | .crux _ _ _ _ cs => if cs.any fun c => !vaOk s o.ctx c.addr then 1 else 0
  | _ => maskOf fun i => lanes.getLsbD i && (o.units i).any fun u => !vaOk s o.ctx u.1

/-- The lanes of an access some part of which another device owns. -/
def Op.away (s : State) (o : Op) (lanes : Mask) : Mask :=
  match o.kind with
  | .rgetQueue _ => 0
  | _ => maskOf fun i => lanes.getLsbD i && (o.units i).any fun u => !vaLocal s u.1

/-- The poisoned lanes of an entry re-issued (R64, R65): the entry is Filling again and its record is free. -/
def reissuePoison (s : State) (g : Group) (q id : Nat) : State :=
  match findPair s g.pair with
  | none => s
  | some p =>
    match (p.queue q).entry id with
    | none => s
    | some e =>
      match e.record with
      | none => s
      | some k =>
        match p.poison.getD k none with
        | none => s
        | some r =>
          let s := updEntry s g.pair q id fun e => { e with st := .filling, wait := r.lanes, faulted := 0, record := none }
          let s := updPair s g.pair fun p => { p with poison := p.poison.set k none }
          match findOp s r.op with
          | none => s
          | some o =>
            let bad := o.stillBad s r.lanes
            let again : Mask × OpKind := match o.kind with
              | .crux a b c d cs => (1 &&& ~~~bad, .crux a b c d (cs.map fun x => { x with st := .sent }))
              | k => (r.lanes &&& ~~~bad, k)
            let o : Op := { o with
              dormant := false, todo := again.1, faulted := bad, done := 0, kind := again.2, remote := o.away s again.1,
              parts := o.parts.filter fun p => !r.lanes.getLsbD p.1,
              marks := if bad != 0 then o.marks else 0, cause := if bad != 0 then (if o.cause = 0 then 8 else o.cause) else 0 }
            sendRget (sendRequests (updOp s r.op fun _ => o) o o.todo) o o.todo

/-- ERET (R344): it waits for the handler's MAPFTs; a TREPC of a bad form is a cause in supervisor. -/
def execEret (f : FmtY) (s : State) : Host.Outcome State Fault Refusal :=
  issueWord s (.eret f) fun s sl =>
    if s.exec.ops.any fun o => o.gid == sl.g.gid && o.kind == .mapft then .stall
    else if !pcOk sl.g.trap.epc then .cause s ⟨0x03, 0, sl.pc, sl.g.trap.epc, sl.p.exec, 0, 0, false⟩
    else
      let s := match sl.g.poison with
        | some (q, id) => reissuePoison s sl.g q id
        | none => s
      .jump (returnFromTrap s sl.g.gid sl.run.entry) sl.g.trap.epc

/-! ### MAPFT (R345) -/

/-- The mapping requests of a group that have been answered leave in issue order; MAPST holds the latest status. -/
def settleMapft (s : State) (gid : Nat) : State :=
  let mine := s.exec.ops.filter fun o => o.gid == gid && o.kind == .mapft
  (mine.takeWhile fun o => o.todo == 0).foldl (fun s o =>
    updGroup (dropOp s o.id) gid fun g => { g with trap := { g.trap with mapst := BitVec.ofNat 64 (o.cause % 8) } }) s

/-- MAPFT: not counted and unordered, on lane set 0 (R183); an address that fails R83 gives status 4 and is not sent. -/
def execMapft (f : FmtY) (s : State) : Host.Outcome State Fault Refusal :=
  issueWord s (.mapft f) fun s sl =>
    let a := sl.uni64 0 f.a
    let ok := vaOk s sl.g.ctx a
    .done (settleMapft (sendOp s { baseOp s sl .mapft with
      todo := if ok then 1 else 0, cause := 4, addrs := List.replicate 64 a, channel := 16,
      remote := if vaLocal s a then 0 else 1 }) sl.g.gid)

/-! ### GROW and SHRINK (R46, R347) -/

/-- The granules that a group holds: its own, and the released ones to which a write is still pending (R347). -/
def heldGranules (s : State) (g : Group) : Nat :=
  let late := ((s.exec.ops.filter fun o => o.gid == g.gid && !o.dormant).filterMap fun o =>
    match o.dst with
    | .vreg n => if g.g ≤ n / 8 then some (n / 8) else none
    | _ => none).eraseDups
  g.g + late.length

/-- Whether a write to a register of a group is pending. -/
def regPending (s : State) (gid : Nat) : Bool :=
  s.exec.ops.any fun o => o.gid == gid && !o.dormant && (match o.dst with
    | .vreg _ => true
    | .ureg _ => true
    | .upair _ => true
    | _ => false)

/-- Whether a pair holds its slots, granules and window: it is resident, and a twin has not exited, or has not taken its pending
register writes (R23, R235). -/
def pairHolds (s : State) (pair : Nat) : Bool :=
  ((findPair s pair).map (·.resident)).getD false &&
    s.exec.groups.any fun g => g.pair == pair && (!g.exited || regPending s g.gid)

/-- The groups that share a unit's vector granules: an execute group's partition, an access group's Ladle. -/
def unitGroups (s : State) (g : Group) : List Group :=
  s.exec.groups.filter fun x =>
    x.core == g.core && x.stream == g.stream && (g.stream == .access || x.part == g.part) && pairHolds s x.pair

/-- The free vector granules of a group's unit (R54: 128 in each). -/
def freeGranules (s : State) (g : Group) : Nat := 128 - ((unitGroups s g).map (heldGranules s)).sum

/-- The limit of R54 on a group's granules. -/
def granuleLimit (g : Group) : Nat := if g.stream = .access then 8 else 30

/-- Whether a path of a group waits in GROW (R46). -/
def Group.growing (g : Group) : Bool := g.paths.any fun p => p.grow.isSome

/-- Whether an older group of the unit waits in GROW (R46). -/
def olderWaiter (s : State) (g : Group) : Bool :=
  (unitGroups s g).any fun x => x.gid != g.gid && x.growing && (x.age < g.age || (x.age == g.age && x.slot < g.slot))

/-- Whether GROW can issue, and the granules it takes. -/
def growNow (s : State) (g : Group) (n : Nat) : Option Nat :=
  if n = 0 ∨ granuleLimit g < g.g + n then some 0
  else if n ≤ freeGranules s g && !olderWaiter s g then some n
  else none

/-- A group's granule count raised; a granted granule is zero in every lane (R347). A write that is pending to a released granule keeps
a number of its own, which no register has: it frees its granule when it lands. -/
def growGroup (s : State) (gid n : Nat) : State :=
  let s := match findGroup s gid with
    | none => s
    | some g => s.onExec fun e =>
      { e with ops := e.ops.map fun o =>
          match o.dst with
          | .vreg r =>
            if o.gid == gid && 8 * g.g ≤ r && r < 2 ^ 20 && 0 < n then { o with dst := .vreg (r + 2 ^ 20 * (s.exec.seq + 1)) } else o
          | _ => o }
  updGroup s gid fun g => { g with g := g.g + n, vregs := g.vregs ++ List.replicate (8 * n) Lanes.zero }

/-- A path's GROW ends (R46). -/
def growDone (s : State) (gid entry : Nat) : State := updPath s gid entry fun p => { p with grow := none, granted := false }


/-- GROW (R46, R347). -/
def execGrow (f : FmtY) (s : State) : Host.Outcome State Fault Refusal :=
  issueWord s (.grow f) fun s sl =>
    let n := (sl.uni32 0 f.a).toNat
    if sl.p.granted then
      .done (writeUni (growDone s sl.g.gid sl.run.entry) sl f.dst (BitVec.ofNat 32 sl.g.g))
    else match growNow s sl.g n with
    | some k => .done (writeUni (growGroup (growDone s sl.g.gid sl.run.entry) sl.g.gid k) sl f.dst (BitVec.ofNat 32 (sl.g.g + k)))
    | none =>
      .wait (updPath s sl.g.gid sl.run.entry fun p => { p with grow := some (n, ((p.grow.map (·.2)).getD s.tick)) })

/-- SHRINK (R347). -/
def execShrink (f : FmtY) (s : State) : Host.Outcome State Fault Refusal :=
  issueWord s (.shrink f) fun s sl =>
    let k := sl.g.g - min (sl.uni32 0 f.a).toNat sl.g.g
    let s := updGroup s sl.g.gid fun g => { g with g := k, vregs := g.vregs.take (8 * k) }
    .done (writeUni s sl f.dst (BitVec.ofNat 32 k))

/-! ### LAUNCH (R348) -/

/-- LAUNCH: a release at .DEV, performed when its packet has been enqueued. -/
def execLaunch (f : FmtY) (s : State) : Host.Outcome State Fault Refusal :=
  issueWord s (.launch f) fun s sl =>
    let a := sl.uni64 0 f.a
    if a.toNat % 8 ≠ 0 then .cause s (groupAddrCause sl a 2)
    else if !vaOk s sl.g.ctx a || !vaLocal s a then .cause s (groupAddrCause sl a 0)
    else
      .done (sendOp s { baseOp s sl (.launch (sl.uni32 0 f.b).toNat) with
        todo := 1, addrs := List.replicate 64 a })

/-! ### Trace (R349, R451, R452) -/

/-- The place of a record among those of one tick: its unit, a sample before a TEMIT (R451). -/
def TraceRec.rank (r : TraceRec) : Nat := 2 * bitsNat r.word0.toNat 37 3 + (if bitsNat r.word0.toNat 60 4 = 1 then 1 else 0)

/-- A record of the tick of the newest record, put in its place among the records of that tick; the list is newest first, and the record
that opens the tick carries the delta. -/
def traceInsert (r : TraceRec) : List TraceRec → List TraceRec
  | [] => [r]
  | x :: xs =>
    let t := bitsNat x.word0.toNat 60 4
    if (t = 1 ∨ t = 4) ∧ r.rank < x.rank then
      let d := x.word0 &&& 0x0FFFF00000000000#64
      if d = 0 then x :: traceInsert r xs else { x with word0 := x.word0 - d } :: { r with word0 := r.word0 + d } :: xs
    else r :: x :: xs

/-- A record offered to a core's trace FIFO: `w0` is its word 0 without the delta. A full-tick record, and after drops a
drop record before it, enter first when R452 asks for them; a record that finds no room is dropped. -/
def traceEnter (s : State) (core w0 : Nat) (w1 w2 w3 : Dword) : State :=
  updCore s core fun k =>
    let delta := s.tick - k.lastTick
    let full : Bool := k.needFull || k.drops != 0 || 65535 < delta
    let drop : List TraceRec := if k.drops ≠ 0 then [⟨BitVec.ofNat 64 (3 * 2 ^ 60), BitVec.ofNat 64 k.drops, 0, 0⟩] else []
    let tick : List TraceRec := if full then [⟨BitVec.ofNat 64 (2 * 2 ^ 60), BitVec.ofNat 64 s.tick, 0, 0⟩] else []
    let r : TraceRec := ⟨BitVec.ofNat 64 (w0 + (if full then 0 else delta) * 2 ^ 44), w1, w2, w3⟩
    let rs := drop ++ tick ++ [r]
    if 4096 < k.fifo.length + rs.length then { k with drops := k.drops + 1 }
    else if !full && delta == 0 then { k with fifo := (traceInsert r k.fifo.reverse).reverse }
    else { k with fifo := k.fifo ++ rs, drops := 0, needFull := false, lastTick := s.tick }

/-- TEMIT (R349). -/
def execTemit (f : FmtY) (s : State) : Host.Outcome State Fault Refusal :=
  issueWord s (.temit f) fun s sl =>
    let unit := if sl.access then 4 else sl.g.part
    .done (traceEnter s sl.g.core (2 ^ 60 + sl.run.entry % 16 * 2 ^ 40 + unit % 8 * 2 ^ 37) (f.sel.zeroExtend 64)
      (sl.uni64 0 f.a) (BitVec.ofNat 64 (sl.g.index % 2 ^ 32)))

/-- TSTAMP (R349). -/
def execTstamp (f : FmtY) (s : State) : Host.Outcome State Fault Refusal :=
  issueWord s (.tstamp f) fun s sl => .done (writePair s sl f.dst (BitVec.ofNat 64 s.tick))

/-! ### Accounting (R350, R351) -/

/-- HMREAD: the counter is read when its result returns (R350). -/
def execHmread (f : FmtY) (s : State) : Host.Outcome State Fault Refusal :=
  issueWord s (.hmread f) fun s sl =>
    .done (sendOp s { baseOp s sl (.hmread f.sel.toNat) with dst := if f.dst.nwb then .none else .upair f.dst.reg.toNat })

/-- HMSEAL: a request to Mysko's queue of 64 (R351). -/
def execHmseal (f : FmtY) (s : State) : Host.Outcome State Fault Refusal :=
  issueWord s (.hmseal f) fun s sl =>
    let a := sl.uni64 0 f.a
    let b := sl.uni64 0 f.b
    let bad (x : Dword) : Bool := x.toNat % 8 != 0 || !vaOk s sl.g.ctx x || !vaLocal s x
    if bad a then .cause s (groupAddrCause sl a (if a.toNat % 8 ≠ 0 then 2 else 0))
    else if bad b then .cause s (groupAddrCause sl b (if b.toNat % 8 ≠ 0 then 2 else 0))
    else if 64 ≤ s.mysko.seals.length then .stall
    else
      let id := s.exec.seq
      let s := sendOp s { baseOp s sl (.hmseal b) with
        todo := 1, addrs := List.replicate 64 a }
      .done (s.onMysko fun m => { m with seals := m.seals ++ [.hmseal id] })

end Sys2Proof.Machine
end

