-- ==== Sys2Proof/Machine/Poison.lean ====
section
/-!
DEFINITION. Poison records: their place in a pair's save area, their bytes, and the area that a pair holds while it has one (R65, R70,
R413).
-/

namespace Sys2Proof.Machine

/-- Bytes at offsets from a base. -/
def writeChunks (s : State) (base : Nat) (cs : List (Nat × List Byte)) : State :=
  cs.foldl (fun s c => physWrite s (base + c.1) c.2) s

def le8 (n : Nat) : List Byte := leBytes 8 n

/-- The first window slot of a queue (R60). -/
def slotBase (p : Pair) (q : Nat) : Nat :=
  ((p.queues.take q).map fun x => if x.declared then (if x.kind = 1 then 3 * x.depth else x.depth) else 0).sum

/-- The width code of a GRLD's elements, log2 of their bytes (R278). -/
def grldWidth (fmt : Nat) : Nat :=
  match grldBytes fmt with
  | some 4 => 2
  | some 2 => 1
  | _ => 0

/-- The load word of a poison record (R70). -/
def loadWord (o : Op) (slot : Nat) : Nat :=
  let acq : Bool := o.order == 1
  let transport : Bool := o.marks.testBit 7
  let tail := match o.kind with
    | .load w sign _ => (if sign then 2 ^ 19 else 0) + w * 2 ^ 16
    | .grld fmt pitch n _ => n * 2 ^ 42 + pitch / 16 * 2 ^ 29 + fmt * 2 ^ 24 + 2 ^ 20 + grldWidth fmt * 2 ^ 16
    | .crux fmt hi _ _ _ => (if hi then 2 ^ 50 else 0) + fmt * 2 ^ 24 + 2 * 2 ^ 20
    | _ => (if transport then 2 ^ 49 else 0) + 3 * 2 ^ 20
  (if acq then o.scope % 8 * 2 ^ 56 + 2 ^ 55 else 0) + o.channel % 16 * 2 ^ 51 + tail + slot % 256 * 2 ^ 8 +
    (if transport then 0 else o.cause % 256)

/-- The window slot of the entry that a poison record serves. -/
def recordSlot (p : Pair) (k : Nat) : Nat :=
  ((List.range 16).findSome? fun q =>
    ((p.queue q).entries.findIdx? fun e => e.record == some k).map fun i => slotBase p q + i).getD 0

/-- A poison record's bytes. -/
def poisonChunk (s : State) (p : Pair) (k : Nat) : List (Nat × List Byte) :=
  match p.poison.getD k none with
  | none => []
  | some r =>
    match findOp s r.op with
    | none => []
    | some o =>
      let addr (i : Nat) : Nat := match o.kind with
        | .grld _ _ _ list => (list.get i).toNat
        | _ => (o.addrs.get i).toNat
      let base := match o.kind with
        | .grld .. => (o.addrs.get 0).toNat
        | .rgetQueue peer => peer % 2 ^ 12
        | _ => 0
      [(0x19100 + 576 * k, ((List.range 64).flatMap fun i => le8 (addr i)) ++ le8 r.lanes.toNat ++ le8 o.pc.toNat ++
        le8 (loadWord o (recordSlot p k)) ++ le8 base)]

/-- The lowest pair area, or cohort unit, that is not in use (R413). -/
def freeIndex (used : List Nat) (n : Nat) : Option Nat := (List.range n).find? fun k => !used.contains k

/-- The address of a pair area and of a cohort unit (R413). -/
def areaBase (x : Ctx) (k : Nat) : Nat := x.saveBase + 176 * 1024 * k
@[inherit_doc areaBase] def unitBase (x : Ctx) (j : Nat) : Nat := x.saveBase + 176 * 1024 * x.np + 712 * 1024 * j

/-- A poison record of a resident pair written into memory (R65, R70). A pair takes the lowest free area for its first record, and holds
it until it has been restored without records or has retired; without a free area the record stands in the pair alone (log entry 30). -/
def writeRecord (s : State) (pair k : Nat) : State :=
  match findPair s pair with
  | none => s
  | some p =>
    let x := getCtx s p.ctx
    match p.area.orElse fun _ => freeIndex x.areas x.np with
    | none => s
    | some a =>
      let s := if p.area.isSome then s else updCtx (updPair s pair fun p => { p with area := some a }) p.ctx fun x => { x with areas := x.areas ++ [a] }
      writeChunks s (areaBase x a) (poisonChunk s p k)

end Sys2Proof.Machine
end

