-- ==== Sys2Proof/Machine/Perform.lean ====
section
/-!
DEFINITION. Performing accesses at their home slice or their bank, and what returns to the issuing group: data, acknowledgements and
faults (R64 to R66, R88 to R99, R101, R104 to R112, R123 to R126, R183, R184, R210, R279 to R285, R288, R298, R408).
-/

namespace Sys2Proof.Machine

/-! ### L1 copies, the directory and the contention predictor (R93 to R96) -/

/-- Whether a line lies in the element or scale range of a registered MX region (R96); a binary32 region is none (R152). -/
def inRegion (s : State) (c off : Nat) : Bool :=
  let a := off / 128 * 128
  ((getCtx s c).regions.filterMap id).any fun r => r.fmt != 8 && (rangesMeet a 128 r.e r.elen || rangesMeet a 128 r.s r.slen)

/-- Room in the directory of a line's slice, 4,096 entries in 16 ways (R94): a full set evicts the line that the L1s have held
longest. The set, and which line leaves, are the model's choice (log entry 84). -/
def directoryRoom (s : State) (tag line : Nat) : State :=
  let set := s.memory.l1.filter fun l => lineSlice s l.tag l.line == lineSlice s tag line && l.line / 256 % 256 == line / 256 % 256
  let held := (set.map fun l => (l.tag, l.line)).eraseDups
  if held.contains (tag, line) || held.length < 16 then s
  else match held.getLast? with
    | some x => l1Recall s x.1 x.2 none
    | none => s

/-- A line enters an L1 of 2,048 lines in 8 ways (R93), and its slice's directory (R94). The set, and that the oldest line of a full set
leaves, are the model's choice (log entry 84). -/
def l1Put (s : State) (core c line : Nat) (owned : Bool) : State :=
  let tag := lineTag s c line
  (directoryRoom s tag line).onMemory fun m =>
    let others := m.l1.filter fun l => !(l.core == core && l.tag == tag && l.line == line)
    let same (l : L1Line) : Bool := l.core == core && l.line % 256 == line % 256
    let mine := (others.filter same).take 7
    let rest := others.filter fun l => !same l
    { m with l1 := ⟨core, tag, line, owned, if owned then 1 else 0⟩ :: (mine ++ rest) }

/-- The core of the group that issued an operation on this device. -/
def Op.core (s : State) (o : Op) : Option Nat :=
  if o.from_ = s.fabric.index then (findGroup s o.gid).map (·.core) else none

/-- Who accesses a line, for R95: a core of this device, or another device. -/
def Op.party (s : State) (o : Op) : Nat :=
  match o.core s with
  | some k => k
  | none => 160 + o.from_

/-- Whether no other party has accessed a line in the preceding 1,024 cycles (R95). -/
def lineQuiet (s : State) (c line party : Nat) : Bool :=
  !s.memory.homeTouch.any fun t => t.1 == lineTag s c line && t.2.1 == line && t.2.2.1 != party && s.exec.cycle < t.2.2.2 + 1024

/-- A load of a group's Ladle, which its own L1 serves where it owns the line (R93, R94). -/
def ladleRead (s : State) (o : Op) (line : Nat) : State :=
  touchLine (recallForLoad s o.ctx line (o.core s)) o.ctx line (o.party s)

/-- A load by an access group leaves the line Shared in its L1 (R93). -/
def l1Load (s : State) (o : Op) (line : Nat) : State :=
  let s := ladleRead s o line
  match o.core s with
  | some k => if (l1Find s k o.ctx line).isSome then s else l1Put s k o.ctx line false
  | none => s

/-- What an atomic at the home leaves of its line for R95: its core's counter falls when no other party has come near the line. -/
def homeTouched (s : State) (o : Op) (line : Nat) : State :=
  let quiet := lineQuiet s o.ctx line (o.party s)
  let s := touchLine s o.ctx line (o.party s)
  match o.core s with
  | some k => if quiet then updCore s k fun x => { x with predictor := x.predictor.modify (sliceHash line) (· - 1) } else s
  | none => s

/-- An atomic performed at the home, with no copy left in an L1 (R94, R95). -/
def homeAtomic (s : State) (o : Op) (off : Nat) : State := homeTouched (snoop s o.ctx off 1 none) o (off / 128)

/-- An ordinary atomic placed by R95 and R96: in the L1 of its core, or at the home. -/
def placeAtomic (s : State) (o : Op) (off : Nat) : State :=
  let c := o.ctx
  let line := off / 128
  match o.core s with
  | none => homeAtomic s o off
  | some k =>
    if inRegion s c off then homeAtomic s o off
    else
      let owned : Bool := ((l1Find s k c line).map (·.owned)).getD false
      if owned then
        touchLine (s.onMemory fun m =>
          { m with l1 := m.l1.map fun l =>
              if l.core == k && (l.tag == c || l.tag == 16) && l.line == line then { l with atomics := l.atomics + 1 } else l })
          c line k
      else if 2 ≤ (getCore s k).predictor.getD (sliceHash line) 0 then homeAtomic s o off
      else l1Put (touchLine (snoop s c off 1 none) c line k) k c line true

/-! ### The value of an atomic (R287, R408) -/

/-- The new value of an atomic of 2^w bytes on `old` with data `x` and, for ACAS, the new value `new`. -/
def atomicNew (major minor w old x new : Nat) : Nat :=
  let b := 8 * 2 ^ w
  let so := sextNat b old
  let sx := sextNat b x
  if major = 0x85 then f32Add old x
  else
    match minor with
    | 0 => (old + x) % 2 ^ b
    | 1 => (old + (2 ^ b - x)) % 2 ^ b
    | 2 => old &&& x
    | 3 => old ||| x
    | 4 => old ^^^ x
    | 5 => if so ≤ sx then old else x
    | 6 => if so ≤ sx then x else old
    | 7 => min old x
    | 8 => max old x
    | 9 => x
    | _ => if old = x then new else old

/-- Bytes read where only a write permission is needed: the line's own bytes at its home. -/
def lineBytes (s : State) (c off n : Nat) (need : Need) : Except Miss (State × List Byte) :=
  match l2Ensure s c off need with
  | .error e => .error e
  | .ok (s, l) => .ok (s, (l.data.drop (off % 128)).take n)

/-- One atomic at its line (R123, R415: an atomic needs write permission). -/
def atomicAt (s : State) (o : Op) (major minor w off x new : Nat) : Except Miss (State × Nat) :=
  match lineBytes s o.ctx off (2 ^ w) .write with
  | .error e => .error e
  | .ok (s, bs) =>
    let old := leValue bs
    match storeBytes (placeAtomic s o off) o.ctx off (leBytes (2 ^ w) (atomicNew major minor w old x new)) with
    | .error e => .error e
    | .ok s => .ok (s, old)

/-- Whether a notify word enables a message (R407, R408). -/
def notifyOn (w : Nat) : Bool := w.testBit 63 && bitsNat w 11 51 == 0 && 32 ≤ w % 2 ^ 11

/-- A decrement of a signal by `n` at its home (R408): the value word, and for a full object the crossing of its threshold,
with the count, the one-shot form and the message. -/
def signalLower (s : State) (c : Nat) (a : Dword) (n : Nat) : Except Miss State :=
  let off := vaOffset a
  match lineBytes s c off 8 .both with
  | .error e => .error e
  | .ok (s, bs) =>
    let s := snoop s c off 8 none
    let old := leValue bs
    let v := (old + (2 ^ 64 - n % 2 ^ 64)) % 2 ^ 64
    match storeBytes s c off (leBytes 8 v) with
    | .error e => .error e
    | .ok s =>
      if off % 64 ≠ 0 then .ok s
      else
        match lineBytes s c off 64 .both with
        | .error e => .error e
        | .ok (s, obj) =>
          let word (k : Nat) : Nat := leValue ((obj.drop k).take 8)
          let t := sextNat 64 (word 8)
          let w := word 16
          if t < sextNat 64 old ∧ sextNat 64 v ≤ t ∧ notifyOn w then
            match storeBytes s c (off + 16) (leBytes 8 (if w.testBit 62 then w - 2 ^ 63 else w)) with
            | .error e => .error e
            | .ok s =>
              match storeBytes s c (off + 24) (leBytes 8 ((word 24 + 1) % 2 ^ 64)) with
              | .error e => .error e
              | .ok s => .ok (sendMsix s (w % 2 ^ 11))
          else .ok s

/-! ### One access at its home or its bank (R88, R98, R111, R112, R279 to R285, R288) -/

/-- The byte of an address that stands pending in the L1 of the operation's core: its group's newest earlier store, and the value
(R111, R112). -/
def pendingByte (s : State) (o : Op) (a : Dword) : Option (Nat × Byte) :=
  match o.core s with
  | none => none
  | some k =>
    (s.memory.pending.filter fun b =>
        b.core == k && b.gid == o.gid && b.op < o.id && b.addr == vaOffset a && (findOp s b.op).isSome).foldl (fun best b =>
      match best with
      | some x => if x.1 < b.op then some (b.op, b.value) else best
      | none => some (b.op, b.value)) none

/-- Whether a byte of an access stands pending from an earlier store of the same group: what the L1 holds goes to the home in the order
of its writes, so that no path of the group sees an older write after a newer one (R112, R113). -/
def pendingBefore (s : State) (o : Op) (u : Dword × Nat) : Bool :=
  s.memory.pending.any fun b => b.gid == o.gid && b.op < o.id && rangesMeet b.addr 1 (vaOffset u.1) u.2 && (findOp s b.op).isSome

/-- A load of `n` bytes by an operation. Its group's own pending bytes come before those of the home. -/
def readAt (s : State) (o : Op) (a : Dword) (n : Nat) : Except Miss (State × Nat) :=
  let off := vaOffset a
  match loadBytes s o.ctx off n with
  | .error e => .error e
  | .ok (t, bs) =>
    let own := ((List.range n).zip bs).map fun x => ((pendingByte s o (a + BitVec.ofNat 64 x.1)).map (·.2)).getD x.2
    .ok ((linesOf off n).foldl (fun s line => l1Load s o line) t, leValue own)

/-- The lanes of an operation that perform, have performed or have faulted. -/
def Op.lanes (o : Op) : Mask := o.todo ||| o.done ||| o.faulted

/-- Whether lanes of a store cover a whole line of an owner (R92). -/
def Op.coversLine (o : Op) (n owner line : Nat) : Bool :=
  (List.range 128).all fun b => (List.range 64).any fun i =>
    let a := o.addrs.get i
    o.lanes.getLsbD i && vaOwner a == owner && vaOffset a ≤ 128 * line + b && 128 * line + b < vaOffset a + n

/-- The bytes of a lane of `n` bytes that an access of it writes: those that a higher lane of the instruction writes too are left to it
(R99). -/
def Op.keptBytes (o : Op) (n i : Nat) (u : Dword × Nat) : List (Nat × Byte) :=
  let bs := (leBytes n (o.data.get i).toNat).drop (u.1 - o.addrs.get i).toNat
  (((List.range u.2).zip bs).filter fun x =>
    let b := u.1 + BitVec.ofNat 64 x.1
    !(List.range 64).any fun j => i < j && o.lanes.getLsbD j && (b - o.addrs.get j).toNat < n)

/-- Some bytes written at their home, by offset. -/
def storeSome (s : State) (c : Nat) : List (Nat × Byte) → Except Miss State
  | [] => .ok s
  | x :: xs =>
    match storeByte s c x.1 x.2 with
    | .error e => .error e
    | .ok s => storeSome s c xs

/-- One access of a store: the other L1 copies go first (R94), the bytes become visible at once (R111), and they are pending in their
own L1 no longer (R112). -/
def storeUnit (s : State) (o : Op) (n i : Nat) (u : Dword × Nat) : Except Miss State :=
  let c := o.ctx
  let off := vaOffset u.1
  match canWrite s c (o.coversLine n (vaOwner u.1)) off u.2 with
  | .error e => .error e
  | .ok s =>
    match storeSome (snoop s c off u.2 (o.core s)) c ((o.keptBytes n i u).map fun x => (off + x.1, x.2)) with
    | .error e => .error e
    | .ok s =>
      let s := (linesOf off u.2).foldl (fun s line => touchLine s c line (o.party s)) s
      .ok (s.onMemory fun m => { m with pending := m.pending.filter fun b => !(b.op == o.id && rangesMeet b.addr 1 off u.2) })

/-- One access of a scratchpad operation at its bank, and the value that a load reads (R79, R98, R99, R284, R285). -/
def spadUnit (s : State) (o : Op) (i : Nat) (u : Dword × Nat) : State × Nat :=
  match o.spadAt s u with
  | none => (s, 0)
  | some (k, own, off) =>
    let mode := o.kind.spadForm.2
    if !o.kind.writes then (s, leValue (spadRead s k own mode off u.2))
    else
      let n := match o.kind with
        | .spadStore _ _ n => n
        | _ => 8
      (examine ((o.keptBytes n i u).foldl (fun s x => spadWrite s k own mode (off + x.1) [x.2]) s), 0)

/-- What one access of an operation does at its home, and the value that it returns. A byte beyond the end of its lane's owner has no
mapping. -/
def performUnit (s : State) (o : Op) (i : Nat) (u : Dword × Nat) : Except Miss (State × Nat) :=
  let c := o.ctx
  let off := vaOffset u.1
  if o.kind.spad then .ok (spadUnit s o i u)
  else if !vaOk s c u.1 || !vaLocal s u.1 then .error addrFault
  else
    match o.kind with
    | .load .. => readAt s o u.1 u.2
    | .grld .. => readAt s o u.1 u.2
    | .store w =>
      (match storeUnit s o (2 ^ w) i u with
       | .error e => .error e
       | .ok s => .ok (s, 0))
    | .atomic major minor w _ =>
      atomicAt s o major minor w off ((o.data.get i).toNat % 2 ^ (8 * 2 ^ w)) ((o.data2.get i).toNat % 2 ^ (8 * 2 ^ w))
    | .prefetch l1 =>
      (match loadByte s c off with
       | .error _ => .ok (s, 0)
       | .ok (s, _) => .ok (if l1 then l1Load s o (off / 128) else ladleRead s o (off / 128), 0))
    | .sigdec n =>
      (match signalLower s c u.1 n with
       | .error e => .error e
       | .ok s => .ok (homeTouched s o (off / 128), 0))
    | _ => .ok (s, 0)

/-! ### When an access may be performed (R99, R101, R104 to R110, R126) -/

/-- The operations whose accesses a home slice or a bank performs one by one. -/
def OpKind.laneAtHome : OpKind → Bool
  | .load .. => true
  | .store _ => true
  | .atomic .. => true
  | .grld .. => true
  | .prefetch _ => true
  | .sigdec _ => true
  | k => k.spad

/-- Whether an access of a lane is performed on this device. -/
def Op.isHere (s : State) (o : Op) (i : Nat) (u : Dword × Nat) : Bool :=
  match o.kind with
  | .grld .. => vaLocal s u.1
  | k => k.spad || !o.remote.getLsbD i

/-- Whether a lower lane of a mask writes bytes that lane `i` of an atomic touches (R99). -/
def lowerMeets (o : Op) (m : Mask) (i : Nat) : Bool :=
  match o.kind with
  | .atomic _ _ w _ =>
    (List.range i).any fun j => m.getLsbD j && rangesMeet (o.addrs.get j).toNat (2 ^ w) (o.addrs.get i).toNat (2 ^ w)
  | _ => false

/-- Whether every byte of an access that an earlier store of the path still has to perform stands pending in the L1, from it or from a
later store (R111, R112). -/
def forwards (s : State) (o x : Op) (u : Dword × Nat) : Bool :=
  (match o.kind, x.kind with
   | .load .., .store _ => true
   | .grld .., .store _ => true
   | _, _ => false) &&
  (List.range u.2).all fun j =>
    let a := u.1 + BitVec.ofNat 64 j
    !x.meetsSpan s (0, a.toNat, 1) || (match pendingByte s o a with
      | some b => x.id ≤ b.1
      | none => false)

/-- Whether an earlier access of the path to the same bytes holds an access back (R101). -/
def sameHolds (s : State) (o : Op) (u : Dword × Nat) : Bool :=
  o.same.any fun id =>
    match findOp s id with
    | none => false
    | some x => x.meetsSpan s (o.span s u) && !forwards s o x u

/-- The group of an operation, and its pair's allocation. -/
def Op.agent (s : State) (o : Op) : Option (Group × PlaceSrc) :=
  match findGroup s o.gid with
  | none => none
  | some g => (findPair s g.pair).map fun p => (g, p.owner)

/-- Whether an early release keeps an operation from reading an access's bytes (R104, R106). -/
def Op.isVeiled (s : State) (o : Op) (u : Dword × Nat) : Bool :=
  o.kind.reads && !o.kind.spad && match o.agent s with
    | some (g, own) => veiled s g own 0 u.1.toNat u.2
    | none => veiledOutside s o.ctx u.1.toNat u.2

/-- Whether every access that is left of an operation could be performed on this device without a fault. -/
def Op.wouldPerform (s : State) (o : Op) : Bool :=
  let need : Need := if o.kind.writes then .write else .read
  o.remote == 0 && o.faulted == 0 && !o.dormant && !o.unpaired && o.kind.laneAtHome &&
  ((List.range 64).filter fun i => o.todo.getLsbD i).all fun i => (o.unitsLeft i).all fun u =>
    o.kind.spad || (vaOk s o.ctx u.2.1 && vaLocal s u.2.1 &&
      match l2Ensure s o.ctx (vaOffset u.2.1) need with
      | .ok _ => true
      | .error _ => false)

/-- Whether a release may be performed before the accesses that it follows: each of them is local and sure to be performed, so that none
of them faults behind it (R110), and the agents within its scope, .CLU at the widest, do not read its bytes until then (R104, R106,
R108; log entry 92). -/
def Op.early (s : State) (o : Op) : Bool :=
  ((o.kind.writes && o.kind.direct && !o.kind.spad) || o.kind.releases) && (o.agent s).isSome && o.rel.all fun r =>
    relMet s r || (r.2 < 4 && (findOp s r.1).any fun x => x.wouldPerform s)

/-- Whether an access of a lane may have reached its home: it is sent, and nothing that it follows is left (R103, R106, R107, R125). -/
def unitSent (s : State) (o : Op) (i : Nat) (u : Dword × Nat) : Bool :=
  i < 64 && o.kind.laneAtHome && !o.dormant && !o.unpaired && o.todo.getLsbD i && o.isHere s i u &&
  o.after.all (opPerformed s) && (o.rel.all (relMet s) || o.early s)

/-- Whether an access of a lane may be performed now: no lower lane, and no earlier access, to its bytes is left (R99, R101), no early
release hides them, and a store follows what its group has left pending there (R113). -/
def unitReady (s : State) (o : Op) (i : Nat) (u : Dword × Nat) : Bool :=
  unitSent s o i u && !lowerMeets o (o.todo &&& ~~~o.remote) i && !sameHolds s o u && !o.isVeiled s u &&
  !(o.kind.writes && !o.kind.spad && pendingBefore s o u)

/-! ### An access performed -/

/-- The value of an access's parts, in order of address. -/
def joinParts : List (Dword × Nat) → List Nat → Nat
  | u :: us, v :: vs => v % 2 ^ (8 * u.2) + 2 ^ (8 * u.2) * joinParts us vs
  | _, _ => 0

/-- The values of the elements of a lane, from the values of its accesses. -/
def joinElems : List (List (Dword × Nat)) → List Nat → List Nat
  | [], _ => []
  | e :: es, vs => joinParts e (vs.take e.length) :: joinElems es (vs.drop e.length)

/-- A lane's chain over the row elements of a GRLD (R150, R281). -/
def grldChain (fmt : Nat) : List (Dword × Nat) → Nat → Nat
  | [], acc => acc
  | (e, x) :: es, acc =>
    let v := match elemFmt (BitVec.ofNat 5 fmt) with
      | some f => f.decode x
      | none => .nan
    grldChain fmt es (roundFp (Xr.add false ((fp32.decode (e.toNat / 2 ^ 32)).mul v) (fp32.decode acc)) fp32 .rne false)

/-- The result of a lane all of whose accesses have been performed. -/
def Op.laneValue (o : Op) (i : Nat) : Dword :=
  let vs := (List.range (o.units i).length).map fun k => ((o.parts.find? fun p => p.1 == i && p.2.1 == k).map (·.2.2)).getD 0
  let es := joinElems (o.elems i) vs
  match o.kind with
  | .load w sign out => extendLoad (2 ^ w) sign out (es.headD 0)
  | .spadLoad _ _ n sign out => extendLoad n sign out (es.headD 0)
  | .spadT _ n _ _ => BitVec.ofNat 64 (joinParts (es.map fun _ => (0, n)) es)
  | .grld fmt _ n list => BitVec.ofNat 64 (grldChain fmt ((list.take n).zip es) f32NegZero)
  | _ => BitVec.ofNat 64 (es.headD 0)

/-- A lane whose last access has been performed has its result. -/
def Op.laneOver (o : Op) (i : Nat) : Op :=
  if o.todo.getLsbD i && (o.unitsLeft i).isEmpty then
    let bit : Mask := BitVec.ofNat 64 (2 ^ i)
    { o with todo := o.todo &&& ~~~bit, done := o.done ||| bit, parts := o.parts.filter fun p => p.1 != i,
             res := if o.res.isEmpty then o.res else o.res.set i (o.laneValue i) }
  else o

/-- The veils of a release that is performed early on `n` bytes of a space, for each access that it follows and that is left. -/
def addVeils (s : State) (o : Op) (space a n : Nat) : State :=
  match o.agent s with
  | none => s
  | some (g, own) =>
    let new := (o.rel.filter fun r => !relMet s r).map fun r => (⟨o.gid, o.ctx, own, g.core, r.2, spaceByte space a, n, r.1⟩ : Veil)
    s.onExec fun e => { e with veils := (e.veils.filter fun v => !opPerformed s v.before) ++ new }

/-- A group out of the scope of an early release has read its bytes: what comes before the release now comes before every release of the
group too (R108). -/
def addTaints (s : State) (o : Op) (u : Dword × Nat) : State :=
  if !o.kind.reads || o.kind.spad then s
  else
    let ids := ((veilsOn s o.ctx 0 u.1.toNat u.2).filter fun v => v.gid != o.gid).map (·.before)
    if ids.isEmpty then s else updGroup s o.gid fun g => { g with taints := stillPending s (g.taints ++ ids) }

/-- Access `k` of a lane performed, or failed: its lane then keeps its place, and the first cause is the operation's. A lane of an atomic
whose bytes a failed lower lane writes fails with it (R99, R126). -/
def unitDone (s : State) (id i k : Nat) (u : Dword × Nat) : State :=
  match findOp s id with
  | none => s
  | some o =>
    let bit : Mask := BitVec.ofNat 64 (2 ^ i)
    let fail (e : Miss) (s : State) : State :=
      updOp s id fun o =>
        { o with todo := o.todo &&& ~~~bit, faulted := o.faulted ||| bit, cause := if o.faulted == 0 then e.code else o.cause,
                 marks := o.marks ||| e.marks }
    if lowerMeets o o.faulted i then fail ⟨o.cause, o.marks⟩ s
    else
      match performUnit (if o.kind.spad then s else addVeils (addTaints s o u) o 0 u.1.toNat u.2) o i u with
      | .error e => fail e (refusedWalk s o.ctx u.1)
      | .ok (t, v) => updOp t id fun o => { o with parts := o.parts ++ [(i, k, v)] }.laneOver i

/-- The accesses that are left of an operation: lane, number, address and length. -/
def Op.allLeft (o : Op) : List (Nat × Nat × Dword × Nat) :=
  ((List.range 64).filter fun i => o.todo.getLsbD i).flatMap fun i => (o.unitsLeft i).map fun u => (i, u)

/-- Accesses of an operation performed together, if each of them may be. -/
def unitsTogether (s : State) (o : Op) (us : List (Nat × Nat × Dword × Nat)) : Option State :=
  if us.all fun x => unitReady s o x.1 x.2.2 then some (us.foldl (fun s x => unitDone s o.id x.1 x.2.1 x.2.2) s) else none

/-- The accesses that are performed as one with an access: those of a plain load to one line of a registered MX region (R124), and those of
a scratchpad load to one word of a bank, which one read serves (R80). -/
def Op.withUnit (s : State) (o : Op) (i k : Nat) (u : Dword × Nat) : List (Nat × Nat × Dword × Nat) :=
  let line : List (Nat × Nat × Dword × Nat) :=
    if inRegion s o.ctx (vaOffset u.1) then
      o.allLeft.filter fun x => x.2.2.1.toNat / 128 == u.1.toNat / 128 && o.isHere s x.1 x.2.2
    else [(i, k, u)]
  let word : List (Nat × Nat × Dword × Nat) :=
    let at_ (x : Dword × Nat) : Nat × Nat := let y := o.span s x; (y.1, y.2.1 / 4)
    o.allLeft.filter fun x => at_ x.2.2 == at_ u
  match o.kind with
  | .load .. => line
  | .grld .. => line
  | .spadLoad .. => word
  | .spadT .. => word
  | _ => [(i, k, u)]

/-! ### What the group is told (R51, R64 to R66, R183) -/

/-- The lanes that another device, or the transport, answers. -/
def Op.awaited (o : Op) : Mask :=
  match o.kind with
  | .rgetQueue _ => o.todo
  | .rgetSpad .. => o.todo
  | .grld .. => maskOf fun i => o.todo.getLsbD i && (o.unitsLeft i).any fun u => vaOwner u.2.1 != o.from_
  | _ => o.todo &&& o.remote

/-- The lanes of a result that has not landed: the image lanes of an MXLD (R291), the words of an NMOP (R334). -/
def Op.landing (o : Op) : Mask :=
  match o.kind with
  | .crux .. => if o.done == 0 then 0 else o.data2.get 0
  | .nmop op => if o.done == 0 then 0 else if op = 1 then 15 else if op = 0 ∨ op = 4 then 3 else 1
  | _ => o.done

/-- The lanes of a destination entry that an operation's faults poison. -/
def Op.poisons (o : Op) : Mask :=
  match o.kind with
  | .crux .. => if o.faulted == 0 then 0 else o.data2.get 0
  | _ => o.faulted

/-- Whether reading an address's byte on this device is refused. -/
def refusedAt (s : State) (c : Nat) (a : Dword) : Bool :=
  !vaOk s c a || (vaLocal s a && match loadByte s c (vaOffset a) with
    | .error _ => true
    | .ok _ => false)

/-- The address that a returned cause names: that of the lowest faulted lane, and for GRLD its first element that fails. -/
def Op.faultAddr (s : State) (o : Op) : Dword :=
  let a := lowestAddr o.faulted o.addrs.get
  match o.kind with
  | .grld .. =>
    let els := ((lowestLane o.faulted).map fun i => (o.unitsLeft i).map (·.2.1)).getD []
    ((els.find? (refusedAt s o.ctx)).orElse fun _ => els.find? fun x => !vaLocal s x).getD (els.headD a)
  | .crux _ _ _ _ cs => ((cs.find? fun c => c.st = .refused).map (·.addr)).getD a
  | _ => a

/-- The returned cause of an operation's faults. -/
def Op.returned (s : State) (o : Op) : Cause :=
  ⟨if o.cause = 0 then 8 else o.cause, 2, o.pc, o.faultAddr s, if o.kind.lanewise then o.faulted else 0, o.marks, 0, o.kind.lanewise⟩

/-- A returned cause reaches a path (R51): it is taken at once when the path stands at a boundary, and otherwise at its next
one. Causes returned to one path before it takes them form one record. -/
def raiseReturned (s : State) (gid entry : Nat) (c : Cause) : State :=
  match findGroup s gid with
  | none => s
  | some g =>
    if g.exited || (g.path entry).st == .free then s
    else
      let mine (x : Nat × List Cause) : Bool := x.1 == entry && (match x.2 with
        | d :: _ => d.cls == 2
        | [] => false)
      let s := updGroup s gid fun g =>
        if g.pending.any mine then
          { g with pending := g.pending.map fun x => if mine x then (x.1, x.2 ++ [c]) else x }
        else { g with pending := g.pending ++ [(entry, [c])] }
      let busy : Bool := s.exec.runs.any (fun r => r.gid == gid && r.entry == entry) || (g.path entry).stopped ||
        !(((findPair s g.pair).map (·.resident)).getD false)
      if busy then s else atBoundary s gid entry

/-- An operation's faults are told to the path that issued it. Those of a group that a handler, the want of one, or CTX_END has ended are
discarded with what waits behind them (R110, R184); those of a group or a path that has left by EXIT are told to nobody, and the
operation stays counted (R50, R115, R122; log entry 33). -/
def tellGroup (s : State) (o : Op) : State :=
  let g := findGroup s o.gid
  let live : Bool := g.any fun g => !g.exited && (g.path o.entry).st != .free
  if live && !o.orphan then raiseReturned (updOp s o.id fun o => { o with told := true }) o.gid o.entry (o.returned s)
  else if (getCtx s o.ctx).st = .ending then discardEnded s o.gid fun x => x.id == o.id
  else if g.any fun g => g.exited && g.sup.isNone then updOp s o.id fun o => { o with told := true }
  else if g.any fun g => !g.exited then updOp s o.id fun o => { o with told := true }
  else discardEnded s o.gid fun x => x.id == o.id

/-- The poisoned lanes of an entry take a record (R65, R70). The operation is kept for the record, and leaves its class. -/
def poisonEntry (s : State) (pair q id k : Nat) (o : Op) : State :=
  let (stub, s) := fresh s
  let kept : Op := { o with cls := none, dormant := true, told := false, replay := false }
  let left : Op := { o with id := stub, todo := 0, done := 0, faulted := 0, dst := .none }
  let s := s.onExec fun e =>
    { e with ops := e.ops.flatMap fun x => if x.id == o.id then (if o.cls.isSome then [left, kept] else [kept]) else [x] }
  let s := updEntry s pair q id fun e => { e with st := .poisoned, record := some k, held := false }
  let s := updPair s pair fun p => { p with poison := p.poison.set k (some ⟨o.poisons, o.id, o.cause⟩) }
  finishOp (writeRecord s pair k) stub

/-- A Filling entry all of whose lanes have returned: Ready; or Poisoned with the lowest free record; or with its faulted lanes
held for the access group (R64 to R66). -/
def entryComplete (s : State) (pair q id opId : Nat) : State :=
  match findPair s pair, findOp s opId with
  | some p, some o =>
    let last : Bool := o.todo == 0 && o.done == 0 && !(s.exec.winAcc.any fun w => w.op == opId)
    match (p.queue q).entry id with
    | none => if last && o.faulted == 0 then finishOp (updOp s opId fun o => { o with dst := .none }) opId else s
    | some e =>
      if e.wait != 0 || !last then s
      else if o.faulted == 0 then
        finishOp (updOp (updEntry s pair q id fun e => { e with st := .ready, faulted := 0, held := false }) opId fun o =>
          { o with dst := .none }) opId
      else
        match (List.range 8).find? fun k => (p.poison.getD k none).isNone with
        | some k => poisonEntry s pair q id k o
        | none =>
          let live : Bool := match findGroup s o.gid with
            | some g => !g.exited
            | none => false
          if live then tellGroup (updEntry s pair q id fun e => { e with held := true }) o
          else
            discardFaulted (updEntry s pair q id fun e => { e with st := .poisoned, held := false }) o.gid fun x => x.id == opId
  | _, _ => s

/-- An operation whose lanes have all returned, some with a fault. -/
def faultsIn (s : State) (o : Op) : State :=
  match o.kind, o.dst with
  | .store _, _ => tellGroup s o
  | _, .port q id =>
    (match findGroup s o.gid with
     | none => s
     | some g =>
       let l := o.poisons
       entryComplete (updEntry s g.pair q id fun e => { e with wait := e.wait &&& ~~~l, faulted := e.faulted ||| l })
         g.pair q id o.id)
  | _, _ => tellGroup s o

/-- The accesses of an operation that stand in a replay record (R420): refused contributions, or lanes; a copy is one. -/
def Op.replayed (o : Op) : Nat :=
  match o.kind with
  | .crux _ _ _ _ cs => (cs.filter fun x => x.st = .refused).length
  | _ => popMask o.faulted

/-- Whether the replay buffer of the context has an entry for each of `n` more accesses; a returned fault for which none is free is
held at its owner (R420). The faulted lanes of a port load have a poison record instead where one is free or the access group has gone
(R65, R66). -/
def replayRoom (s : State) (o : Op) (n : Nat) : Bool :=
  let poisons : Bool := !(o.kind matches .store _) && match o.dst, findGroup s o.gid with
    | .port .., some g => g.exited || (findPair s g.pair).any fun p => (List.range 8).any fun k => (p.poison.getD k none).isNone
    | .port .., none => true
    | _, _ => false
  poisons ||
    (((s.exec.ops.filter fun x => x.ctx == o.ctx && x.told && !x.dormant && x.faulted != 0).map Op.replayed).sum + n) ≤
      (getCtx s o.ctx).replayCount

/-! ### Answers to another device (R176, R183, R184) -/

/-- The flits of a message: one header, and data of 64 bytes each (R176). -/
def flitsOf (bytes : Nat) : Nat := 1 + (bytes + 63) / 64

/-- The line by whose number a response's lane set is chosen (R174): that of the lowest lane of the request. -/
def Op.line (o : Op) : Nat := vaOffset (lowestAddr o.lanes o.addrs.get) / 128

/-- The later accesses of the group of an access that has faulted here, on its ordered channel, are rejected to the device that sent
them: none of them has been performed (R126, R184). -/
def rejectTail (s : State) (o : Op) : State :=
  let tail := (s.exec.ops.dropWhile fun x => x.id != o.id).filter fun x =>
    x.id != o.id && x.gid == o.gid && x.from_ == o.from_ && x.channel == o.channel && !x.told
  if o.channel = 0 then s
  else tail.foldl (fun s x =>
    dropOp (sendOut (linkSend s x.ctx x.from_ x.line 0 1) x.from_ 7
      [x.gid % 2 ^ 64, x.channel, x.lanes.toNat, 0, 0, (lowestAddr x.lanes x.addrs.get).toNat, x.pc.toNat]) x.id) s

/-- An operation that arrived from another device answers once nothing of it is to come: its data or acknowledgement, or a fault
record. A refused one stays, so that later accesses are held back, until it returns; one that waits on the line of an earlier refused
access is rejected, and goes (R126, R184). -/
def answerRemote (s : State) (id : Nat) : State :=
  match findOp s id with
  | none => s
  | some o =>
    if o.from_ = s.fabric.index ∨ o.todo ≠ 0 ∨ o.told then s
    else
      let vals := (List.range 64).filterMap fun i => if o.landing.getLsbD i then some (o.res.get i).toNat else none
      let s := if o.landing != 0 || o.faulted == 0 then
          sendOut (linkSend s o.ctx o.from_ o.line 0 (flitsOf (8 * vals.length))) o.from_ 6
            ([o.gid % 2 ^ 64, o.channel, o.landing.toNat] ++ vals)
        else s
      if o.faulted == 0 then dropOp s id
      else
        let s := sendOut (linkSend s o.ctx o.from_ o.line 0 1) o.from_ 7
          [o.gid % 2 ^ 64, o.channel, o.faulted.toNat, o.cause, o.marks, (o.faultAddr s).toNat, o.pc.toNat]
        if o.replay && o.cause == 0 then dropOp s id
        else rejectTail (updOp s id fun o => { o with told := true, replay := false, done := 0 }) o

/-! ### HOME_SLICE_ACCESS -/

/-- The control entries of queues that earlier scratchpad accesses hold back are Ready once those are performed (R114). -/
def releaseEntries (s : State) : State :=
  let one (e : Entry) : Entry :=
    if e.after.isEmpty then e
    else
      let left := e.after.filter fun i => !opPerformed s i
      { e with after := left, st := if left.isEmpty then .ready else e.st }
  s.onExec fun x =>
    { x with pairs := x.pairs.map fun p => { p with queues := p.queues.map fun q => { q with entries := q.entries.map one } } }

/-- A lane of an operation waits at its home on the line of an earlier access of its group that has faulted (R126): once that is told,
the lane joins its replay record, or is rejected to the device that sent it (R184). -/
def joinHolder (s : State) (o h : Op) (i : Nat) : Option State :=
  let bit : Mask := BitVec.ofNat 64 (2 ^ i)
  if !h.told || h.dormant then none
  else if o.from_ = s.fabric.index then
    if replayRoom s o 1 then some (joinReplay s o.id bit h.entry) else none
  else some (answerRemote (updOp s o.id fun o => { o with todo := o.todo &&& ~~~bit, faulted := o.faulted ||| bit, replay := true }) o.id)

/-- Access `k` of a lane at its home slice or its bank: performed, refused there, or held with the line of a faulted access (R84, R88,
R94, R98, R99, R111, R126). -/
def homeAccess (s : State) (o : Op) (i k : Nat) : Option State :=
  match (o.unitsLeft i).find? fun u => u.1 == k with
  | none => none
  | some u =>
    if !unitSent s o i u.2 then none
    else
      match (if o.kind.spad then none else lineHolder s o u.2.1) with
      | some h => joinHolder s o h i
      | none => (unitsTogether s o (o.withUnit s i k u.2)).map fun s => releaseEntries (answerRemote (finishOp s o.id) o.id)

/-! ### LOAD_DATA_RETURN (R64, R210) -/

/-- Whether an operation returns data to a destination. -/
def OpKind.returnsData : OpKind → Bool
  | .load .. => true
  | .atomic _ _ _ r => r
  | .grld .. => true
  | .nmop _ => true
  | .crux _ _ _ _ cs => cs.any fun c => c.what == .load
  | .rgetQueue _ => true
  | .leaseq _ => true
  | .sysrd _ => true
  | .hmread _ => true
  | .harrive _ => true
  | .spadLoad .. => true
  | .spadT .. => true
  | _ => false

/-- A lane's value as an owner sends it, in its destination's form (R279, R281, R288). -/
def OpKind.fromOwner (k : OpKind) (v : Dword) : Dword :=
  match k with
  | .load w sign out => extendLoad (2 ^ w) sign out (v.toNat % 2 ^ (8 * 2 ^ w))
  | .atomic _ _ w _ => BitVec.ofNat 64 (v.toNat % 2 ^ (8 * 2 ^ w))
  | .grld .. => v &&& 0xFFFFFFFF
  | .rgetQueue _ => v &&& 0xFFFFFFFF
  | _ => v

/-- Whether the pair to the device that performs an access is down: the access then returns ADDRFAULT (R447). -/
def Op.cutOff (s : State) (o : Op) (a : Dword) : Bool :=
  match o.kind with
  | .rgetQueue _ => false
  | .rgetSpad .. => false
  | _ => pairDown s (vaOwner a)

/-- Whether an earlier direct access of the group on the operation's ordered channel is left for the same owner (R125). -/
def channelHolds (s : State) (o : Op) (owner : Nat) : Bool :=
  o.channel != 0 && o.kind.direct && (s.exec.ops.takeWhile fun x => x.id != o.id).any fun x =>
    x.gid == o.gid && x.kind.direct && x.channel == o.channel && (List.range 64).any fun i =>
      (x.remote &&& x.pend).getLsbD i && (x.unitsLeft i).any fun u => vaOwner u.2.1 == owner

/-- Whether the lanes that another device performs may have been performed: what the operation follows is (R101, R106, R125), and the
pair to it is up (R447). -/
def awaitedReady (s : State) (o : Op) (lanes : Mask) : Bool :=
  o.orderMet s &&
  ((List.range 64).filter fun i => lanes.getLsbD i).all fun i =>
    (o.unitsLeft i).all fun u => !sameHolds s o u.2 &&
      !(vaOwner u.2.1 != o.from_ && (o.cutOff s u.2.1 || channelHolds s o (vaOwner u.2.1)))

/-- An operation with the data that has arrived: what was read here, what another device has sent, or what is read as its result
returns (R333, R342, R350). None while something of it is still to come. -/
def Op.withData (s : State) (o : Op) (data : Lanes) : Option Op :=
  let sent : Option Op :=
    if o.todo &&& ~~~o.awaited != 0 || !awaitedReady s o o.awaited then none
    else some { o with todo := 0, done := o.done ||| o.todo,
                       res := if o.todo == 0 then o.res else Lanes.merge o.todo (data.map o.kind.fromOwner) o.res }
  let now (v : Dword) : Option Op := if o.after.all (opPerformed s) then some { o with todo := 0, done := 1, res := [v] } else none
  let whole (res : Lanes) : Option Op :=
    if o.todo == 0 then some o
    else if o.remote == 0 || !awaitedReady s o o.awaited then none
    else some { o with todo := 0, done := 1, res := res }
  match o.kind with
  | .sysrd sel =>
    now (if sel = 0x109 then (match findGroup s o.gid with
      | some g => g.trap.mapst
      | none => 0) else o.res.get 0)
  | .hmread n =>
    now (if n = 64 then (getCtx s o.ctx).satMask else BitVec.ofNat 64 ((getCtx s o.ctx).counters.getD n 0))
  | .leaseq t => now (leaseWord s o.ctx t)
  | .harrive _ => if o.todo == 0 then some o else none
  | .crux .. => whole (Lanes.masked (o.data2.get 0) data)
  | .nmop _ => whole data
  | _ => sent

/-- The lowest row element of a lane of a GRLD that another device owns, with its value (R281). -/
def Op.remoteRow (o : Op) (i : Nat) (v : Dword) : Op :=
  match (o.unitsLeft i).find? fun u => vaOwner u.2.1 != o.from_ with
  | some u => { o with parts := o.parts ++ [(i, u.1, v.toNat % 2 ^ (8 * u.2.2))] }.laneOver i
  | none => o

/-- What is to be performed before a result returns: the accesses to scratchpad that are left, or the row elements that another device
sends, one of each lane. None where it cannot be yet; false says that more of the operation is to come. -/
def beforeReturn (s : State) (o : Op) (data : Lanes) : Option (State × Bool) :=
  let rest (t : State) : State × Bool := (t, (findOp t o.id).any fun x => x.todo == 0)
  if o.todo == 0 then some (s, true)
  else if o.kind.spad then (unitsTogether s o o.allLeft).map fun t => (releaseEntries t, true)
  else match o.kind with
    | .grld .. =>
      let lanes := o.awaited
      if lanes == 0 || !awaitedReady s o lanes then none
      else
        some (rest (updOp s o.id fun o =>
          ((List.range 64).filter fun i => lanes.getLsbD i).foldl (fun o i => o.remoteRow i (data.get i)) o))
    | _ => some (s, true)

/-- A result lands in its register (R210); the destination is free once all of it has landed. -/
def landRegister (s : State) (o : Op) : State :=
  let m := o.landing
  let s := updGroup s o.gid fun g => match o.dst with
    | .vreg n => if n < g.vregs.length then g.setVreg n (Lanes.merge m o.res (g.vreg n)) else g
    | .ureg n => if m == 0 then g else g.setSreg n ((o.res.get 0).extractLsb' 0 32)
    | .upair n => if m == 0 then g else g.setPair n (o.res.get 0)
    | _ => g
  finishOp (updOp s o.id fun o => { o with done := 0, dst := if o.todo == 0 && o.faulted == 0 then .none else o.dst }) o.id

/-- An operation's result returns: to its register, or to the bank of its queue entry (R44, R64, R210). -/
def returnData (s : State) (o : Op) (data : Lanes) : Host.Outcome State Fault Refusal :=
  match o.withData s data with
  | none => .refused .eventNotEnabled
  | some o' =>
    if o'.done == 0 && o'.faulted != 0 then .refused .eventNotEnabled
    else
      let s := updOp s o.id fun _ => o'
      let s := match o.kind with
        | .rgetQueue _ => assayAdd s o.ctx 47 (4 * popMask o.todo)
        | _ => s
      match o'.dst, findGroup s o.gid with
      | .port q id, some g =>
        if s.exec.winAcc.any fun w => w.op == o.id then .refused .eventNotEnabled
        else
          let w : WindowAccess := ⟨g.core, g.pair, q, id, o'.landing, 0, o'.res, 0, o.id⟩
          .next ((updOp s o.id fun o => { o with done := 0 }).onExec fun e => { e with winAcc := e.winAcc ++ [w] })
      | _, _ => .next (landRegister s o')

/-- Returned data goes to its register, or asks for the bank of its queue entry (R44, R64, R210); an owner's answer to a mapping
request is its status, and a pair that is down answers none: status 4 (R345, R447; log entry 103). -/
def execLoadDataReturn (op : Nat) (data : Lanes) (s : State) : Host.Outcome State Fault Refusal :=
  match findOp s op with
  | none => .refused .eventNotEnabled
  | some o =>
    if o.kind == .mapft && o.remote != 0 && o.todo != 0 then
      let status := if pairDown s (vaOwner (o.addrs.get 0)) then 4 else (data.get 0).toNat % 8
      .next (settleMapft (updOp s op fun o => { o with todo := 0, cause := status }) o.gid)
    else if o.dormant || !o.kind.returnsData || o.from_ != s.fabric.index then .refused .eventNotEnabled
    else
      match beforeReturn s o data with
      | none => .refused .eventNotEnabled
      | some (t, false) => .next t
      | some (t, true) =>
        match findOp t op with
        | none => .next t
        | some o => returnData t o data

/-- The data of a window access lands in its entry (R44, R64). -/
def landWindow (s : State) (w : WindowAccess) : State :=
  let s := s.onExec fun e => { e with winAcc := e.winAcc.filter fun x => x.op != w.op }
  let s := updEntry s w.pair w.queue w.entry fun e =>
    { e with vals := Lanes.merge w.lanes (w.vals.map (cutLane 32)) e.vals, wait := e.wait &&& ~~~w.lanes,
             faulted := e.faulted &&& ~~~w.lanes }
  entryComplete s w.pair w.queue w.entry w.op

/-! ### ACKNOWLEDGEMENT_RETURN (R115) -/

/-- Whether an operation completes by an acknowledgement. -/
def OpKind.acknowledged : OpKind → Bool
  | .store _ => true
  | .atomic _ _ _ r => !r
  | .sigdec _ => true
  | .prefetch _ => true
  | .stmr _ _ back => back.isEmpty
  | .crux _ _ _ _ cs => cs.all fun c => c.what != .load
  | .spadStore .. => true
  | .publish => true
  | .carrive _ => true
  | _ => false

/-- The phase that a member of a circle arrives for next (R297). -/
def nextArrival (s : State) (c : Nat) (key : Word) (member : Nat) : Nat :=
  (((findCircle s c key).bind fun x => x.members.find? fun m => m.1 == member).map (·.2.2)).getD 0

/-- A completion that this core itself makes: the accesses that are left of a scratchpad store, or the arrival of a CARRIVE once the
accesses before it are performed, or early with its phase closed to the agents within its scope (R104, R106, R121, R284, R297). -/
def completeHere (s : State) (o : Op) : Option State :=
  match o.kind with
  | .carrive key =>
    let who := o.pieces.headD o.gid
    if o.orderMet s then some (circleArrive s who o.ctx key)
    else if o.after.all (opPerformed s) && o.early s then
      some (circleArrive (addVeils s o (circleSpace key) (nextArrival s o.ctx key who) 1) who o.ctx key)
    else none
  | _ => unitsTogether s o o.allLeft

/-- Whether every earlier arrival of the group at the circle has been recorded. -/
def firstArrival (s : State) (o : Op) : Bool :=
  !(s.exec.ops.takeWhile fun x => x.id != o.id).any fun x => x.gid == o.gid && x.kind == o.kind

/-- An operation's kind once it has been acknowledged: every contribution that was not refused is done. -/
def OpKind.accepted : OpKind → OpKind
  | .crux a b c d cs => .crux a b c d (cs.map fun x => if x.st = .refused then x else { x with st := .done })
  | .stmr w q _ => .stmr w q []
  | k => k

/-- An acknowledgement returns, and the operation completes (R115). -/
def execAcknowledgementReturn (op : Nat) (s : State) : Host.Outcome State Fault Refusal :=
  match findOp s op with
  | none => .refused .eventNotEnabled
  | some o =>
    let carrive : Bool := match o.kind with
      | .carrive _ => true
      | _ => false
    let end_ (s : State) : State :=
      releaseEntries (lateGone (finishOp (updOp s op fun o => { o with todo := 0, kind := o.kind.accepted }) op))
    if o.todo == 0 || o.dormant || o.from_ != s.fabric.index || !o.kind.acknowledged || o.unpaired then .refused .eventNotEnabled
    else if o.kind.spad || carrive then
      if carrive && !firstArrival s o then .refused .eventNotEnabled
      else match completeHere s o with
        | some s => .next (end_ s)
        | none => .refused .eventNotEnabled
    else eventIf (o.todo &&& ~~~o.remote == 0 && awaitedReady s o o.todo) (end_ s)

end Sys2Proof.Machine
end

