-- ==== Sys2Proof/Machine/Slices.lean ====
section
/-!
DEFINITION. The L2 slices on their own: recalls, evictions, walks, scrubbing, and the registration and removal of MX
regions (R87, R91 to R95, R152, R153, R161, R417, R419, R445).
-/

namespace Sys2Proof.Machine

/-! ### Recalls and evictions -/

/-- The copy of one L1 recalled or invalidated (R93 to R95): an Owned line on which the core has performed fewer than four
atomics raises its counter. Bytes pending in it stay with their stores (R112). -/
def recallCopy (s : State) (core tag line : Nat) : State :=
  match s.memory.l1.find? fun l => l.core == core && l.tag == tag && l.line == line with
  | none => s
  | some l =>
    let s := if l.owned ∧ l.atomics < 4 then
        updCore s core fun k => { k with predictor := k.predictor.modify (sliceHash line) fun v => min 3 (v + 1) }
      else s
    s.onMemory fun m => { m with l1 := m.l1.filter fun x => !(x.core == core && x.tag == tag && x.line == line) }

/-- L1_RECALL (R93, R95). -/
def execL1Recall (core tag line : Nat) (s : State) : Host.Outcome State Fault Refusal :=
  eventIf (s.memory.l1.any fun l => l.core == core && l.tag == tag && l.line == line) (recallCopy s core tag line)

/-- DIRECTORY_EVICTION: every L1 copy of the line goes (R94). -/
def execDirectoryEviction (tag line : Nat) (s : State) : Host.Outcome State Fault Refusal :=
  eventIf (s.memory.l1.any fun l => l.tag == tag && l.line == line) (l1Recall s tag line none)

/-- L2_EVICTION (R92): of a line of that number, or of a page table's line of that physical number. -/
def execL2Eviction (tag line : Nat) (s : State) : Host.Outcome State Fault Refusal :=
  if s.memory.l2.any fun l => !l.table && l.tag == tag && l.line == line then .next (l2Evict s tag line)
  else event ((s.memory.l2.find? fun l => l.table && l.tag == tag && l.line == line).map (l2Leave s))

/-- PAGE_WALK: where neither TLB hits, the walker reads the table lines through L2 and fills the page TLB; a walk that finds no entry
fills no entry (R87, R89). -/
def execPageWalk (ctx off : Nat) (s : State) : Host.Outcome State Fault Refusal :=
  if 16 ≤ ctx ∨ (rangeHit s ctx off).isSome ∨ (tlbHit s (homeSlice s ctx off) ctx off).isSome then .refused .eventNotEnabled
  else
    match translate s ctx off with
    | .ok (s, _) => .next s
    | .error _ => .next (walkLines s ctx off)

/-- Whether the memory side is running (R422). -/
def memoryRuns (s : State) : Bool := s.mysko.phase == .reduced || s.mysko.phase == .full

/-- L2_SCRUB: a pass that finds no error changes nothing; a failed check is an ERROR_REPORT (R445). -/
def execL2Scrub (s : State) : Host.Outcome State Fault Refusal := eventIf (memoryRuns s) s

/-- HBM_SCRUB (R445). -/
def execHbmScrub (s : State) : Host.Outcome State Fault Refusal := eventIf (memoryRuns s) s

/-! ### Writing back and invalidating a range (R153, R417) -/

/-- Every line of a tag in `[o, o + n)` written back and invalidated, its L1 copies first. -/
def evictRange (s : State) (tag o n : Nat) : State :=
  let hit := s.memory.l2.filter fun l => !l.table && l.tag == tag && rangesMeet (128 * l.line) 128 o n
  hit.foldl (fun s l => l2Evict s l.tag l.line) s

/-- The lines of a context's range, those of globally mapped pages included. -/
def evictContext (s : State) (c o n : Nat) : State := evictRange (evictRange s c o n) 16 o n

/-! ### Where a contribution lies (R145, R152, R159) -/

/-- The order granules of a region: its blocks, or the aligned lines that a binary32 region touches (R159). -/
def Region.granules (r : Region) : Nat :=
  if r.fmt = 8 then (r.e + r.elen + 127) / 128 - r.e / 128 else r.elen / mxSlot r.fmt

/-- The first and the last offset that a contribution names. -/
def Contrib.first (c : Contrib) : Nat :=
  match c.what with
  | .add _ _ base => max (vaOffset base) (vaOffset c.addr)
  | _ => vaOffset c.addr
@[inherit_doc Contrib.first] def Contrib.final (c : Contrib) : Nat :=
  match c.what with
  | .add _ _ base => min (vaOffset base + 255) (vaOffset c.addr + 127)
  | _ => vaOffset c.addr

/-- The region of a context that holds a contribution, with its index. -/
def cruxRegion (s : State) (c : Nat) (k : Contrib) : Option (Nat × Region) :=
  (List.range 64).findSome? fun i =>
    match (getCtx s c).regions.getD i none with
    | some r => if r.hasElem k.first && r.hasElem k.final then some (i, r) else none
    | none => none

/-- The order granule of a contribution in a region (R145, R159). An address off the region's slot grid counts for the slot that it lies
in, the model's choice (log entry 93). -/
def granuleOf (r : Region) (k : Contrib) : Nat :=
  if r.fmt = 8 then vaOffset k.addr / 128 - r.e / 128 else (vaOffset k.addr - r.e) / mxSlot r.fmt

/-- The home slice of a granule (R91). -/
def granuleSlice (s : State) (c : Nat) (r : Region) (g : Nat) : Nat :=
  homeSlice s c (if r.fmt = 8 then (r.e / 128 + g) * 128 else r.e + g * mxSlot r.fmt)

/-! ### The state of a contribution -/

/-- A contribution's state set; the operation is over for its class when nothing of it is to come (R115, R160). -/
def setContrib (s : State) (op k : Nat) (st : CruxState) : State :=
  updOp s op fun o =>
    match o.kind with
    | .crux a b c d cs =>
      let cs := cs.modify k fun x => { x with st := st }
      let left : Bool := cs.any fun x => x.st ≠ .done ∧ x.st ≠ .refused
      { o with kind := .crux a b c d cs, todo := if left then 1 else 0,
               faulted := if cs.any fun x => x.st = .refused then 1 else 0 }
    | _ => o

/-- What follows a contribution's end: the operation leaves its class, or answers its device. -/
def cruxSettle (s : State) (op : Nat) : State := answerRemote (finishOp s op) op

/-- A contribution refused by checks 2 to 4: replayed by ERET (R154, R163). -/
def cruxRefuse (s : State) (op k : Nat) (m : Miss) : State :=
  let s := updOp s op fun o =>
    { o with cause := if o.faulted == 0 then m.code else o.cause, marks := (if o.faulted == 0 then 0 else o.marks) ||| m.marks }
  cruxSettle (setContrib s op k .refused) op

/-- A contribution refused by checks 5 to 7: it has completed and is final, and the group is told (R51, R154, R160). An MXLD's
destination receives zero (R291). -/
def cruxFinal (s : State) (op k : Nat) (m : Miss) : State :=
  match findOp s op with
  | none => s
  | some o =>
    let a := match o.kind with
      | .crux _ _ _ _ cs => ((cs[k]?).map (·.addr)).getD 0
      | _ => 0
    let s := setContrib s op k .done
    let s := if o.kind.returnsData then updOp s op fun o => { o with done := 1, res := Lanes.zero } else s
    if o.from_ = s.fabric.index then
      cruxSettle (raiseReturned s o.gid o.entry ⟨m.code, 2, o.pc, a, 0, m.marks, 0, false⟩) op
    else
      let s := sendOut (linkSend s o.ctx o.from_ (vaOffset a / 128) 0 1) o.from_ 7 [o.gid % 2 ^ 64, o.channel, 1, m.code, m.marks, a.toNat, o.pc.toNat]
      dropOp s op

/-! ### Registration and removal of regions (R152, R153) -/

/-- The limits of R152 on one region. -/
def Region.valid (r : Region) : Bool :=
  if r.fmt = 8 then r.elen != 0 && r.elen % 128 == 0 && r.s == 0 && r.slen == 0 && r.o % 128 == 0
  else 0x12 ≤ r.fmt && r.fmt ≤ 0x17 && r.elen != 0 && r.elen % (if r.fmt = 0x16 then 2048 else 4096) == 0 &&
    r.slen % 128 == 0 && r.o % 128 == 0

/-- The ranges of a region: elements, scales and the ordinal array. -/
def Region.ranges (r : Region) : List (Nat × Nat) :=
  [(r.e, r.elen), (r.s, r.slen)] ++ (if r.o = 0 then [] else [(r.o, 2 * r.granules)])

/-- Whether no range of a region meets another of its own or one of another region (R152). -/
def Region.apart (r : Region) (others : List Region) : Bool :=
  let rs := r.ranges
  let meet (x y : Nat × Nat) : Bool := x.2 != 0 && y.2 != 0 && rangesMeet x.1 x.2 y.1 y.2
  rs.Pairwise (fun x y => meet x y = false) && others.all fun q => rs.all fun x => q.ranges.all fun y => !meet x y

/-- Whether every byte of a range translates with read and write permission, line by line; a page-TLB entry that does not permit it is
translated once more (R88). -/
def rangeWritable (s : State) (c o n : Nat) : Bool :=
  (List.range ((o + n + 127) / 128 - o / 128)).all fun i =>
    let off := 128 * (o / 128 + i)
    let ok (x : Except Miss (State × Trans)) : Bool := match x with
      | .ok (_, t) => t.r && t.w
      | .error _ => false
    ok (translate s c off) || ok (translateAnew s c off)

/-- The enabled mark of a table entry written by the device (R419). -/
def markEntry (s : State) (a : Nat) (on : Bool) : State :=
  let w := physNat s a 8 % 2 ^ 63
  physWrite s a (leBytes 8 (w + if on then 2 ^ 63 else 0))

/-- A region registered as entry `k` of its context, which the table then shows enabled (R153, R419); none when R152 or its ordinal array
refuses it, or when the entry is enabled already (R418). -/
def registerRegion (s : State) (c k : Nat) (r : Region) : Option State :=
  let others := (getCtx s c).regions.filterMap id
  let size := 2 * r.granules
  if ((getCtx s c).regions.getD k none).isSome || !r.valid || !r.apart others || (r.o != 0 && !rangeWritable s c r.o size) then none
  else
    let s := evictContext (evictContext s c r.e r.elen) c r.s r.slen
    let s := if r.o = 0 then s else
      match storeBytes s c r.o (List.replicate size 0) with
      | .ok s => s
      | .error _ => s
    some (markEntry (updCtx s c fun x => { x with regions := x.regions.set k (some r) }) ((getCtx s c).regionBase + 64 * k) true)

/-- The ordered contributions of a region that wait at its slices, at a slice input included: operation and place. -/
def regionWaiters (s : State) (c i : Nat) : List (Nat × Nat) :=
  s.exec.ops.flatMap fun o =>
    if o.ctx != c || o.dormant then []
    else
      match o.kind with
      | .crux _ _ _ _ cs =>
        (List.range cs.length).filterMap fun k =>
          match cs[k]? with
          | some x =>
            if (x.st = .input ∨ x.st = .parked ∨ x.st = .held ∨ x.st = .loading) ∧ (cruxRegion s c x).map (·.1) = some i then some (o.id, k) else none
          | none => none
      | _ => []

/-- An order-table entry written back to the ordinal array; a refused write-back leaves a record of type 0x0E (R161). -/
def writeOrder (s : State) (e : OrderEntry) : State :=
  match (getCtx s e.ctx).regions.getD e.region none with
  | none => s
  | some r =>
    match homeStore s e.ctx (r.o + 2 * e.granule) (leBytes 2 e.next) sliceParty with
    | .ok s => s
    | .error _ => faultRecord s e.ctx { type := 0x0E, d0 := e.region, d1 := e.granule, d2 := e.next }

/-- An order-table entry gone. -/
def dropOrder (s : State) (c i g : Nat) : State :=
  s.onMemory fun m => { m with orders := m.orders.filter fun e => !(e.ctx == c && e.region == i && e.granule == g) }

/-! ### FAULT_RETURN (R51, R154, R183 to R185, R420) -/

/-- Whether every part of an operation has been answered, some of them with a refusal. -/
def Op.refusalsIn (o : Op) : Bool :=
  o.faulted != 0 && (o.todo == 0 || match o.kind with
    | .crux .. => true
    | _ => false)

/-- An owner's refusal noted in an operation: its first cause, with the mark of another device (R343). -/
def Op.refusedBy (o : Op) (code marks : Nat) : Op :=
  { o with cause := if o.faulted == 0 then code else o.cause, marks := o.marks ||| marks % 2 ^ 14 ||| 2 ^ 14 }

/-- Contributions of a Crucible operation refused by another device. SCALELAYOUT and ORDWRAP are final (R51, R154, R160). -/
def cruxReturn (s : State) (o : Op) (lanes : Mask) (code marks : Nat) : Option State :=
  match o.kind with
  | .crux fmt hi f32 ord cs =>
    let hit := (List.range cs.length).filter fun k => lanes.getLsbD k && (cs[k]?).any fun c => c.st = .sent
    if o.remote == 0 || hit.isEmpty then none
    else if code = 0x0B ∨ code = 0x0E then
      some (hit.foldl (fun s k => cruxFinal s o.id k ⟨code, marks % 2 ^ 14 ||| 2 ^ 14⟩) s)
    else
      let cs := ((List.range cs.length).zip cs).map fun x => if hit.contains x.1 then { x.2 with st := CruxState.refused } else x.2
      let left : Bool := cs.any fun c => c.st ≠ .refused ∧ c.st ≠ .done
      let o' := { o.refusedBy code marks with kind := .crux fmt hi f32 ord cs, faulted := 1, todo := if left then 1 else 0 }
      some (faultsIn (updOp s o.id fun _ => o') o')
  | _ => none

/-- Part `n` of a remote copy, the bytes of one line of its owner, refused (R185): its bytes are kept for ERET. -/
def copyReturn (s : State) (o : Op) (d : CopyDesc) (n : Nat) (code marks : Nat) : Option State :=
  match (o.copyShares d)[n]? with
  | none => none
  | some l =>
    let bytes := (List.range (d.rows * d.rb)).filter fun i =>
      (d.globalAt i).toNat / 128 == l.1 && !o.pieces.contains i &&
        (if d.kind = 1 then o.parts.contains (i, 2, 0) else !(o.parts.any fun p => p.1 == i))
    if d.kind = 2 || o.remote == 0 || o.todo == 0 || bytes.isEmpty then none
    else
      let o' : Op := if o.refusedBytes.isEmpty then { o.refusedBy code marks with addrs := List.replicate 64 (d.globalAt (bytes.headD 0)) } else o
      some (updOp s o.id fun _ => { o' with parts := (o.parts.filter fun p => !bytes.contains p.1) ++ bytes.map fun i => (i, 1, 0) })

/-- The path whose replay record takes what an owner rejects on an operation's channel (R184): that of the first operation of the group
there whose fault has been told. -/
def rejecter (s : State) (o : Op) : Option Op :=
  (s.exec.ops.takeWhile fun x => x.id != o.id).find? fun x =>
    x.gid == o.gid && x.channel == o.channel && x.remote != 0 && x.told && !x.dormant && x.faulted != 0

/-- Halves of an ST.MR that another home has sent back, to be sent again after 1 µs (R181). -/
def halvesReturn (s : State) (o : Op) (w q : Nat) (back : List (Nat × Nat)) (lanes : Mask) : Option State :=
  let hit := [0, 1].filter fun j => lanes.getLsbD j && !(back.any fun y => y.1 == j)
  if hit.isEmpty then none
  else some (updOp s o.id fun o => { o with kind := .stmr w q (back ++ hit.map fun j => (j, s.tick + 1000)) })

/-- A fault record reaches the issuing group (R183): of an operation that failed here for `lanes` = 0, and otherwise of lanes,
contributions of a Crucible operation, or for `lanes` = n + 1 part n of a copy, that another device has refused, or with code 0 has
rejected (R184); a home sends halves of an ST.MR back with code 0 (R181). -/
def execFaultReturn (op : Nat) (lanes : Mask) (code marks : Nat) (s : State) : Host.Outcome State Fault Refusal :=
  match findOp s op with
  | none => .refused .eventNotEnabled
  | some o =>
    if o.dormant || o.told || o.from_ != s.fabric.index then .refused .eventNotEnabled
    else if !replayRoom s o (if lanes == 0 then o.replayed else if o.kind matches .copy _ then 1 else popMask lanes) then .refused .eventNotEnabled
    else if lanes == 0 then eventIf o.refusalsIn (faultsIn s o)
    else
      match o.kind with
      | .crux .. =>
        if code = 8 ∨ code = 9 ∨ code = 0x0B ∨ code = 0x0E then event (cruxReturn s o lanes code marks) else .refused .eventNotEnabled
      | .copy d => if code = 8 ∨ code = 9 then event (copyReturn s o d (lanes.toNat - 1) code marks) else .refused .eventNotEnabled
      | _ =>
        if lanes &&& o.awaited != lanes then .refused .eventNotEnabled
        else if code = 0 then
          match o.kind with
          | .stmr w q back => event (halvesReturn s o w q back lanes)
          | _ => event ((rejecter s o).map fun h => joinReplay s op lanes h.entry)
        else if code = 8 ∨ code = 9 then
          let o' : Op := { o.refusedBy code marks with todo := o.todo &&& ~~~lanes, faulted := o.faulted ||| lanes }
          let s := updOp s op fun _ => o'
          .next (if o'.refusalsIn then faultsIn s o' else s)
        else .refused .eventNotEnabled

end Sys2Proof.Machine
end

