-- ==== Sys2Proof/Machine/Crucible.lean ====
section
/-!
DEFINITION. The Crucible of a slice: checks, the accumulate, ordered contributions with the order table and the park buffer
(R154 to R163, R290 to R292).
-/

namespace Sys2Proof.Machine

/-! ### The checks of R154 -/

/-- The offset of the scale byte of a block of an MX region (R145). -/
def scaleOffset (r : Region) (k : Contrib) : Nat := scaleAddr r.s r.fmt (granuleOf r k)

/-- Whether the stated format must equal the stored one: MXLD, MXST, and the .f32 forms (R154, R289). -/
def formatOk (r : Region) (fmt : Nat) (k : Contrib) : Bool :=
  match k.what with
  | .accMx .. => true
  | .add .. => true
  | _ => fmt == r.fmt

/-- Whether an instruction suits the kind of a region (R154, check 3). -/
def kindOk (r : Region) (k : Contrib) : Bool :=
  match k.what with
  | .add .. => r.fmt == 8
  | _ => r.fmt != 8

/-- The permission that a contribution needs. -/
def Contrib.need (k : Contrib) : Need :=
  match k.what with
  | .load => .read
  | _ => .write

/-- Checks 2 to 4, which ERET replays: the region's index and the region, or what refuses the contribution. -/
def cruxCheck (s : State) (c fmt : Nat) (k : Contrib) : Except Miss (State × Nat × Region) :=
  if !vaOk s c k.addr then .error addrFault
  else
    match cruxRegion s c k with
    | none => .error ⟨0x08, 4⟩
    | some (i, r) =>
      if !kindOk r k || !formatOk r fmt k then .error ⟨0x08, 8⟩
      else
        match l2Ensure s c k.first k.need with
        | .error e => .error e
        | .ok (s, _) =>
          if r.fmt = 8 then .ok (s, i, r)
          else
            match l2Ensure s c (scaleOffset r k) k.need with
            | .error e => .error e
            | .ok (s, _) => .ok (s, i, r)

/-- Check 5: the scale tile is aligned and whole (R146). -/
def scaleOk (r : Region) (k : Contrib) : Bool :=
  r.fmt == 8 ||
  (r.s % 128 == 0 && r.e % (if r.fmt = 0x16 then 2048 else 4096) == 0 && 128 * (granuleOf r k / 128) + 128 ≤ r.slen)

/-! ### The effect (R155 to R158, R292) -/

/-- The 32 exact values of an incoming block (R155). -/
def incoming : Crux → List Xr
  | .accF32 u => u.map fun w => fp32.decode w.toNat
  | .accMx fmt scale slot => (List.range 32).map fun i => mxValue fmt scale (slotElem fmt slot i)
  | _ => []

/-- A block's slot and scale at its home. The bytes are those from the contribution's address, cut at the end of its line and of its region
where the address lies off the slot grid, the model's choice (log entry 93). -/
def readBlock (s : State) (c : Nat) (r : Region) (k : Contrib) : Except Miss (State × List Byte × Nat) :=
  match lineBytes s c k.first (min (mxSlot r.fmt) (r.e + r.elen - k.first)) k.need with
  | .error e => .error e
  | .ok (s, slot) =>
    match lineBytes s c (scaleOffset r k) 1 k.need with
    | .error e => .error e
    | .ok (s, x) => .ok (s, slot, leValue x)

/-- A block's slot and scale written as one (R157), within the line and the region of the block's address. -/
def writeBlock (s : State) (c : Nat) (r : Region) (k : Contrib) (slot : List Byte) (scale party : Nat) : Except Miss State :=
  let slot := slot.take (min (128 - k.first % 128) (r.e + r.elen - k.first))
  match canWrite s c (fun _ => false) k.first slot.length with
  | .error e => .error e
  | .ok s =>
    match homeStore s c (scaleOffset r k) [BitVec.ofNat 8 scale] party with
    | .error e => .error e
    | .ok s => homeStore s c k.first slot party

/-- The pad bytes of an MXFP6 slot as zero (R158). -/
def padZero (fmt : Nat) (slot : List Byte) : List Byte :=
  if fmt = 0x14 ∨ fmt = 0x15 then slot.take 24 ++ List.replicate 8 0 else slot

/-- The lanes of one FADD.ORD contribution added in increasing lane number (R292). -/
def addLanes (s : State) (c party : Nat) (m : Mask) (vals : Lanes) (base : Dword) : Except Miss State :=
  (List.range 64).foldl (fun acc i =>
    match acc with
    | .error e => .error e
    | .ok s =>
      if !m.getLsbD i then .ok s
      else
        let off := vaOffset (base + BitVec.ofNat 64 (4 * i))
        match lineBytes s c off 4 .write with
        | .error e => .error e
        | .ok (s, bs) => homeStore s c off (leBytes 4 (f32Add (leValue bs) ((vals.get i).toNat % 2 ^ 32))) party)
    (.ok s)

/-- What a contribution does at its slice, with the counters of R434. An MXLD's answer goes into its operation's result. -/
def cruxEffect (s : State) (o : Op) (r : Region) (k : Contrib) : Except Miss State :=
  let c := o.ctx
  let ord (s : State) : State := if k.ordinal.isSome then assayAdd s c 42 1 else s
  match k.what with
  | .load =>
    (match readBlock s c r k with
     | .error e => .error e
     | .ok (s, slot, x) =>
       let s := [k.first / 128, scaleOffset r k / 128].foldl (fun s line => homeRead s c line (o.party s)) s
       let img := mxImage r.fmt [slot, slot] [x, x]
       .ok (updOp s o.id fun o => { o with done := 1, res := Lanes.masked (o.data2.get 0) img }))
  | .store scale slot => writeBlock s c r k (padZero r.fmt slot) scale (o.party s)
  | .add m vals base =>
    (match addLanes s c (o.party s) m vals base with
     | .error e => .error e
     | .ok s => .ok (ord s))
  | w =>
    (match readBlock s c r k with
     | .error e => .error e
     | .ok (s, slot, x) =>
       let n := crucibleAccumulate r.fmt x slot (incoming w)
       match writeBlock s c r k n.2 n.1 (o.party s) with
       | .error e => .error e
       | .ok s => .ok (ord (assayAdd s c (36 + (r.fmt - 0x12)) 1)))

/-- The contribution of an operation at a place. -/
def contribAt (s : State) (op k : Nat) : Option (Op × Contrib) :=
  match findOp s op with
  | none => none
  | some o =>
    match o.kind with
    | .crux _ _ _ _ cs => (cs[k]?).map fun x => (o, x)
    | _ => none

/-- A contribution applied; one that its line now refuses is refused as a fault, and false says so. -/
def cruxApply (s : State) (op k : Nat) (r : Region) : State × Bool :=
  match contribAt s op k with
  | none => (s, false)
  | some (o, x) =>
    match cruxEffect s o r x with
    | .error e => (cruxRefuse s op k e, false)
    | .ok s => (cruxSettle (setContrib s op k .done) op, true)

/-! ### Ordered mode (R159 to R163) -/

/-- The order-table entry of a granule. -/
def findOrder (s : State) (c i g : Nat) : Option OrderEntry :=
  s.memory.orders.find? fun e => e.ctx == c && e.region == i && e.granule == g

def updOrder (s : State) (c i g : Nat) (f : OrderEntry → OrderEntry) : State :=
  s.onMemory fun m =>
    { m with orders := m.orders.map fun e => if e.ctx == c && e.region == i && e.granule == g then f e else e }

/-- The contributions of a granule in a state, in order of arrival: operation, place and ordinal. -/
def granuleWaiters (s : State) (c i : Nat) (r : Region) (g : Nat) (st : CruxState) : List (Nat × Nat × Nat) :=
  (regionWaiters s c i).filterMap fun x =>
    match contribAt s x.1 x.2 with
    | some (_, k) => if k.st = st ∧ granuleOf r k = g then some (x.1, x.2, k.ordinal.getD 0) else none
    | none => none

/-- The contributions parked in a slice. -/
def parkedIn (s : State) (slice : Nat) : Nat :=
  (s.exec.ops.map fun o =>
    match o.kind with
    | .crux _ _ _ _ cs => (cs.filter fun k => k.st = .parked && homeSlice s o.ctx k.first == slice).length
    | _ => 0).sum

/-- The next ordinal of a granule advanced. -/
def orderStep (s : State) (c i g : Nat) : State :=
  updOrder s c i g fun e => { e with next := (e.next + 1) % 65536, since := s.tick, stalled := false }

/-- The parked contribution whose ordinal a granule has come to (R160). -/
def drainable (s : State) (c i : Nat) (r : Region) (g : Nat) : Option (Nat × Nat × Nat) :=
  (findOrder s c i g).bind fun e => (granuleWaiters s c i r g .parked).find? fun x => x.2.2 == e.next

/-- The parked contributions whose ordinals follow are applied in order (R160). -/
def parkDrain : Nat → State → Nat → Nat → Region → Nat → State
  | 0, s, _, _, _, _ => s
  | n + 1, s, c, i, r, g =>
    match drainable s c i r g with
    | none => s
    | some x =>
      match cruxApply s x.1 x.2.1 r with
      | (s, true) => parkDrain n (orderStep s c i g) c i r g
      | (s, false) => s

/-- A contribution that begins to wait starts the count of R162. -/
def orderWaits (s : State) (c i : Nat) (r : Region) (g : Nat) : State :=
  let first : Bool := (granuleWaiters s c i r g .parked).isEmpty && (granuleWaiters s c i r g .held).isEmpty
  if first && !s.memory.stalls.any (fun x => x.ctx == c && x.region == i && x.granule == g) then updOrder s c i g fun e => { e with since := s.tick } else s

/-- An ordered contribution examined against its granule's next ordinal (R160): applied, refused, parked or held. The parked ones that its
application lets follow are applied one by one, before the granule takes up another (R391). -/
def examineOrdered (s : State) (op k c i : Nat) (r : Region) : State :=
  match contribAt s op k with
  | none => s
  | some (_, x) =>
    let g := granuleOf r x
    let s := parkDrain 64 s c i r g
    match findOrder s c i g with
    | none => s
    | some e =>
      let o := x.ordinal.getD 0
      let d := (o + 65536 - e.next) % 65536
      if 1024 ≤ d then cruxFinal s op k ⟨0x0E, 0⟩
      else if d = 0 then
        match cruxApply s op k r with
        | (s, true) => orderStep s c i g
        | (s, false) => s
      else if (granuleWaiters s c i r g .parked).any fun y => y.2.2 == o then cruxFinal s op k ⟨0x0E, 0⟩
      else if parkedIn s (granuleSlice s c r g) < 64 then setContrib (orderWaits s c i r g) op k .parked
      else if x.st = .held then s
      else setContrib (orderWaits s c i r g) op k .held

/-- The contributions that wait at the inputs of the slices, held or for an entry, in order of arrival. -/
def heldAll (s : State) : List (Nat × Nat × Nat) :=
  s.exec.ops.flatMap fun o =>
    match o.kind with
    | .crux _ _ _ _ cs =>
      (List.range cs.length).filterMap fun k =>
        match cs[k]? with
        | some x => if x.st = .held ∨ x.st = .input then some (o.id, k, o.ctx) else none
        | none => none
    | _ => []

/-- The order-table entries of a slice. -/
def ordersIn (s : State) (slice : Nat) : List OrderEntry :=
  s.memory.orders.filter fun e =>
    match (getCtx s e.ctx).regions.getD e.region none with
    | some r => granuleSlice s e.ctx r e.granule == slice
    | none => false

/-- Whether an order-table entry is Idle, and whether no contribution is held for its granule either. -/
def OrderEntry.idle (s : State) (e : OrderEntry) (free : Bool) : Bool :=
  !e.loading && match (getCtx s e.ctx).regions.getD e.region none with
    | some r => (granuleWaiters s e.ctx e.region r e.granule .parked).isEmpty &&
        (!free || (granuleWaiters s e.ctx e.region r e.granule .held).isEmpty)
    | none => true

/-- An Idle entry leaves the order table with next[g] written back (R161). While a contribution is held for the granule its stall goes on
(R162). -/
def evictOrder (s : State) (e : OrderEntry) : State :=
  let s := if e.idle s true then s else s.onMemory fun m => { m with stalls := m.stalls ++ [e] }
  dropOrder (writeOrder s e) e.ctx e.region e.granule

/-- The stall of a granule at the loading of its entry: it goes on where next[g] is what it was when the entry left (R162). -/
def stallBack (s : State) (c i g next : Nat) : State :=
  let at_ (x : OrderEntry) : Bool := x.ctx == c && x.region == i && x.granule == g
  let s' := s.onMemory fun m => { m with stalls := m.stalls.filter fun x => !at_ x }
  match s.memory.stalls.find? at_ with
  | some x => if x.next = next then updOrder s' c i g fun e => { e with since := x.since, stalled := x.stalled } else s'
  | none => s'

/-- Room for an entry in a slice's order table: a full one evicts an Idle victim (R161). That it is the oldest one for which nothing is
held, if there is one, is the model's choice (log entry 84). -/
def orderRoom (s : State) (slice : Nat) : State :=
  let mine := ordersIn s slice
  if mine.length < 4096 then s
  else match (mine.find? fun e => e.idle s true).orElse fun _ => mine.find? fun e => e.idle s false with
    | some e => evictOrder s e
    | none => s

/-- An ordered contribution at its slice (R160, R161): examined, or waiting on a Loading entry, or at the input for one. -/
def arriveAt (s : State) (op k c i : Nat) (r : Region) (x : Contrib) : State :=
  let g := granuleOf r x
  match findOrder s c i g with
  | some e => if e.loading then setContrib s op k .loading else examineOrdered s op k c i r
  | none =>
    let slice := granuleSlice s c r g
    if 64 ≤ ((ordersIn s slice).filter fun e => e.loading).length then setContrib s op k .input
    else
      setContrib ((orderRoom s slice).onMemory fun m => { m with orders := m.orders ++ [⟨c, i, g, true, 0, s.tick, false⟩] }) op k .loading

/-- One round over the contributions that wait at an input. -/
def examineRound (s : State) : State :=
  (heldAll s).foldl (fun s x =>
    match contribAt s x.1 x.2.1 with
    | some (_, k) =>
      if k.st = .held ∨ k.st = .input then
        match cruxRegion s x.2.2 k with
        | some (i, r) => arriveAt s x.1 x.2.1 x.2.2 i r k
        | none => s
      else s
    | none => s) s

/-- Waiting contributions are examined again while a park entry is freed, an entry stops loading or a granule advances (R160, R161). -/
def examineHeld : Nat → State → State
  | 0, s => s
  | n + 1, s =>
    let s' := examineRound s
    if (heldAll s').length < (heldAll s).length then examineHeld n s' else s'

/-- Every waiting contribution examined until none of them moves. -/
def settleHeld (s : State) : State := examineHeld (heldAll s).length s

/-- Whether a contribution may reach its slice: what it follows is performed (R117), and no earlier contribution of its group that has
not arrived stands before it on the line (R164). -/
def cruxReady (s : State) (o : Op) (x : Contrib) : Bool :=
  x.st = .sent && !o.dormant && o.remote == 0 && o.orderMet s && !veiledOutside s o.ctx x.addr.toNat 128 &&
  !(s.exec.ops.takeWhile fun y => y.id != o.id).any fun y =>
    y.gid == o.gid && !y.dormant && match y.kind with
      | .crux _ _ _ _ cs => cs.any fun z => z.st = .sent && vaOffset z.addr / 128 == vaOffset x.addr / 128
      | _ => false

/-- A parked contribution whose ordinal its granule has come to is applied (R160). -/
def parkNext (s : State) (op k : Nat) (o : Op) (x : Contrib) : Option State :=
  match cruxRegion s o.ctx x with
  | none => none
  | some (i, r) =>
    let g := granuleOf r x
    match drainable s o.ctx i r g with
    | none => none
    | some y =>
      if y.1 ≠ op ∨ y.2.1 ≠ k then none
      else match cruxApply s op k r with
        | (s, true) => some (settleHeld (orderStep s o.ctx i g))
        | (s, false) => some s

/-- A contribution of a group waits at its home on the line of an earlier access of the group that has faulted (R126): once that is told,
it joins the replay record, or is rejected to the device that sent it (R184). -/
def joinCrux (s : State) (o h : Op) (k : Nat) : Option State :=
  if !h.told || h.dormant then none
  else if o.from_ = s.fabric.index then
    if replayRoom s o 1 then
      some (updOp (setContrib s o.id k .refused) o.id fun o => { o with told := true, replay := true, entry := h.entry })
    else none
  else some (answerRemote (updOp (setContrib s o.id k .refused) o.id fun o => { o with replay := true }) o.id)

/-- CRUCIBLE_ARRIVAL: a contribution is checked, and applied, parked, held or refused (R154, R160); or a parked one is applied whose ordinal
has come. -/
def execCrucibleArrival (op k : Nat) (s : State) : Host.Outcome State Fault Refusal :=
  match contribAt s op k with
  | none => .refused .eventNotEnabled
  | some (o, x) =>
    let fmt := match o.kind with
      | .crux f _ _ _ _ => f
      | _ => 0
    if x.st = .parked then event (parkNext s op k o x)
    else if x.st = .sent ∧ o.remote = 0 ∧ !o.dormant ∧ o.orderMet s ∧ (lineHolder s o x.addr).isSome then
      event ((lineHolder s o x.addr).bind fun h => joinCrux s o h k)
    else if !cruxReady s o x then .refused .eventNotEnabled
    else
      match cruxCheck s o.ctx fmt x with
      | .error e => .next (cruxRefuse s op k e)
      | .ok (s, i, r) =>
        if !scaleOk r x then .next (cruxFinal s op k ⟨0x0B, 0⟩)
        else if x.ordinal.isNone then .next (cruxApply s op k r).1
        else if r.o = 0 then .next (cruxFinal s op k ⟨0x0E, 16⟩)
        else .next (settleHeld (arriveAt s op k o.ctx i r x))

/-- ORDER_ENTRY_LOAD: the read of next[g] completes, and the waiting contributions are examined; or it fails, and they are refused
with "no order state" (R161). -/
def execOrderEntryLoad (c i g : Nat) (s : State) : Host.Outcome State Fault Refusal :=
  match findOrder s c i g, (getCtx s c).regions.getD i none with
  | some e, some r =>
    if !e.loading then .refused .eventNotEnabled
    else
      let waiting := granuleWaiters s c i r g .loading
      match loadBytes s c (r.o + 2 * g) 2 with
      | .ok (s, bs) =>
        let s := homeRead s c ((r.o + 2 * g) / 128) sliceParty
        let s := stallBack (updOrder s c i g fun e => { e with loading := false, next := leValue bs, since := s.tick }) c i g (leValue bs)
        .next (settleHeld (waiting.foldl (fun s x => examineOrdered s x.1 x.2.1 c i r) s))
      | .error _ => .next (settleHeld (waiting.foldl (fun s x => cruxFinal s x.1 x.2.1 ⟨0x0E, 16⟩) (dropOrder s c i g)))
  | _, _ => .refused .eventNotEnabled

/-- ORDER_ENTRY_EVICT: an Idle entry's next[g] is written back (R161). -/
def execOrderEntryEvict (c i g : Nat) (s : State) : Host.Outcome State Fault Refusal :=
  match findOrder s c i g with
  | some e => eventIf (e.idle s false) (evictOrder s e)
  | none => .refused .eventNotEnabled

/-- ORDER_STALL: next[g] has not advanced for 10 ms while a contribution is parked or held; one record until it advances (R162). -/
def execOrderStall (c i g : Nat) (s : State) : Host.Outcome State Fault Refusal :=
  match findOrder s c i g, (getCtx s c).regions.getD i none with
  | some e, some r =>
    let waits : Bool := !(granuleWaiters s c i r g .parked).isEmpty || !(granuleWaiters s c i r g .held).isEmpty
    eventIf (!e.loading && waits && (drainable s c i r g).isNone && !e.stalled && e.since + 10 ^ 7 ≤ s.tick)
      (faultRecord (updOrder s c i g fun e => { e with stalled := true }) c { type := 0x07, d0 := i, d1 := g, d2 := e.next })
  | _, _ => .refused .eventNotEnabled

/-! ### Removal of a region -/

/-- A region removed (R153): its order entries are written back, its waiting contributions are refused with ORDWRAP, which
frees park entries for those of other regions, the lines of its ranges are written back and invalidated, and the table shows the entry
disabled (R419). -/
def removeRegion (s : State) (c i : Nat) : State :=
  match (getCtx s c).regions.getD i none with
  | none => s
  | some r =>
    let mine := s.memory.orders.filter fun e => e.ctx == c && e.region == i
    let s := mine.foldl (fun s e => parkDrain 64 s c i r e.granule) s
    let s := (s.memory.orders.filter fun e => e.ctx == c && e.region == i).foldl
      (fun s e => dropOrder (if e.loading then s else writeOrder s e) c i e.granule) s
    let s := s.onMemory fun m => { m with stalls := m.stalls.filter fun e => !(e.ctx == c && e.region == i) }
    let s := settleHeld ((regionWaiters s c i).foldl (fun s x => cruxFinal s x.1 x.2 ⟨0x0E, 0⟩) s)
    let s := evictContext (evictContext s c r.e r.elen) c r.s r.slen
    markEntry (updCtx s c fun x => { x with regions := x.regions.set i none }) ((getCtx s c).regionBase + 64 * i) false

end Sys2Proof.Machine
end

