-- ==== Sys2Proof/Machine/Copies.lean ====
section
/-!
DEFINITION. The accesses that a home slice or a bank performs one by one, those of direct accesses and the bytes of copies, and the
completion of a copy (R98, R117, R118, R120, R300).
-/

namespace Sys2Proof.Machine

/-! ### The bytes of a copy (R299, R300) -/

/-- The address of byte `i` of a copy in scratchpad or cluster memory: the side that COPY and COPYC write and COPYO reads, and the source
of COPYC. -/
def CopyDesc.spadAt (d : CopyDesc) (i : Nat) : Int := d.p + ((i / d.rb : Nat) : Int) * d.sp + ((i % d.rb : Nat) : Int)
@[inherit_doc CopyDesc.spadAt] def CopyDesc.sourceAt (d : CopyDesc) (i : Nat) : Int :=
  d.g.toNat + ((i / d.rb : Nat) : Int) * d.gp + ((i % d.rb : Nat) : Int)

/-- The number of bytes of a copy. -/
def CopyDesc.size (d : CopyDesc) : Nat := d.rows * d.rb

/-- Whether the rows of a copy cover a whole line of global memory (R92). -/
def CopyDesc.coversLine (d : CopyDesc) (owner line : Nat) : Bool :=
  (List.range 128).all fun b => (List.range d.rows).any fun r =>
    let a := d.globalAt (r * d.rb)
    vaOwner a == owner && vaOffset a ≤ 128 * line + b && 128 * line + b < vaOffset a + d.rb

/-- A byte of scratchpad or cluster memory that a copy names: its core and its physical place there. -/
def copyPlace (s : State) (g : Group) (own : PlaceSrc) (cl : Bool) (mode : Nat) (a : Int) : Nat × Nat :=
  match spadPlace s g.core own cl a 1 with
  | some (k, off) => (k + 1, swizzle mode off)
  | none => (0, 0)

/-- The place that byte `i` of a copy is read from, and the place that it is written to: a space, 0 for global memory, and a byte of it. -/
def CopyDesc.source (s : State) (g : Group) (own : PlaceSrc) (d : CopyDesc) (i : Nat) : Nat × Nat :=
  if d.kind = 0 then (0, (d.globalAt i).toNat)
  else if d.kind = 1 then copyPlace s g own false d.smode (d.spadAt i)
  else copyPlace s g own true d.smode (d.sourceAt i)
@[inherit_doc CopyDesc.source] def CopyDesc.target (s : State) (g : Group) (own : PlaceSrc) (d : CopyDesc) (i : Nat) : Nat × Nat :=
  if d.kind = 1 then (0, (d.globalAt i).toNat) else copyPlace s g own (d.kind == 2) d.dmode (d.spadAt i)

/-- Whether byte `i` of a copy has been read, sent, written or refused. -/
def Op.byteBegun (o : Op) (i : Nat) : Bool := o.pieces.contains i || o.parts.any fun p => p.1 == i

/-- The bytes of a copy that are neither written nor refused. -/
def Op.bytesLeft (o : Op) (d : CopyDesc) : List Nat :=
  if o.pieces.isEmpty && o.parts.isEmpty then List.range d.size
  else (List.range d.size).filter fun i => !o.pieces.contains i && !o.parts.contains (i, 1, 0)

/-- The value of a byte of a copy that has been read. -/
def Op.byteRead (o : Op) (i : Nat) : Option Byte :=
  (o.parts.find? fun p => p.1 == i && p.2.1 == 0).map fun p => BitVec.ofNat 8 p.2.2

/-! ### When a byte may be read or written (R104, R117, R120) -/

/-- A copy that may go on, with its group, its pair's allocation and its scoreboard entry (R117, R327). -/
def copyOf (s : State) (o : Op) : Option (CopyDesc × Group × PlaceSrc × ScoreEntry) :=
  match o.kind, o.agent s, s.exec.score.find? (fun e => e.id == o.id) with
  | .copy d, some (g, own), some e =>
    if o.todo == 0 || !o.after.all (opPerformed s) || !e.granted then none else some (d, g, own, e)
  | _, _, _ => none

/-- The eight places of a copy's flag (R118). -/
def CopyDesc.flagPlaces (s : State) (g : Group) (own : PlaceSrc) (d : CopyDesc) : List (Nat × Nat) :=
  match d.flag.bind fun f => spadPlace s g.core own true f 8 with
  | some (k, off) => (List.range 8).map fun j => (k + 1, off + j)
  | none => []

/-- Whether an earlier copy of the same group still has to write a place, with its payload or its flag (R117). -/
def copyBefore (s : State) (g : Group) (own : PlaceSrc) (o : Op) (x : Nat × Nat) : Bool :=
  (s.exec.ops.takeWhile fun y => y.id != o.id).any fun y =>
    y.gid == o.gid && y.pend != 0 && match y.kind with
      | .copy d => (d.flagPlaces s g own).contains x || (List.range d.size).any fun i => !y.pieces.contains i && d.target s g own i == x
      | _ => false

/-- Whether a copy's flag may be written: no earlier copy of the group still has to write there (R117). -/
def flagFree (s : State) (g : Group) (own : PlaceSrc) (o : Op) (d : CopyDesc) : Bool :=
  (d.flagPlaces s g own).all fun x => !copyBefore s g own o x

/-- The bytes of a copy that go to, or come from, the scratchpad word of byte `i` within its row: an aligned word of scratchpad or cluster
memory is read and written as one (R78, R98). The bytes of global memory are accesses of their own (R118). -/
def CopyDesc.wordOf (d : CopyDesc) (at_ : Nat → Nat × Nat) (i : Nat) : List Nat :=
  if (at_ i).1 = 0 then [i]
  else (List.range 7).filterMap fun k =>
    let j := i + k - 3
    if 3 ≤ i + k ∧ j < d.size ∧ j / d.rb = i / d.rb ∧ (at_ j).1 = (at_ i).1 ∧ (at_ j).2 / 4 = (at_ i).2 / 4 then some j else none

/-- Whether a byte may be read: no earlier scoreboard entry holds its scratchpad, and no early release hides it. -/
def byteReadable (s : State) (d : CopyDesc) (g : Group) (own : PlaceSrc) (e : ScoreEntry) (i : Nat) : Bool :=
  (d.kind == 0 || !scoreBehind s e) &&
  (d.kind != 0 || !veiledOutside s g.ctx (d.globalAt i).toNat 1)

/-- Whether a byte may be written: no earlier scoreboard entry holds its scratchpad, no earlier copy of the group is still to write there,
and every byte of the copy that is read from there has been read (R300). -/
def byteWritable (s : State) (o : Op) (d : CopyDesc) (g : Group) (own : PlaceSrc) (e : ScoreEntry) (i : Nat) : Bool :=
  !scoreBehind s e && !copyBefore s g own o (d.target s g own i) &&
  (d.kind != 2 || (List.range d.size).all fun j => o.byteBegun j || d.source s g own j != d.target s g own i)

/-- The earlier access of the group whose fault holds back a byte of a copy at its home on this device (R126). -/
def Op.byteHolder (s : State) (o : Op) (d : CopyDesc) (i : Nat) : Option Op :=
  if d.kind = 2 ∨ o.remote ≠ 0 ∨ (d.kind = 0 ∧ o.byteBegun i) then none else lineHolder s o (d.globalAt i)

/-! ### Reading and writing a byte -/

/-- A byte of a copy read at its home or its bank. -/
def copyReadByte (s : State) (g : Group) (own : PlaceSrc) (o : Op) (d : CopyDesc) (i : Nat) : Except Miss (State × Byte) :=
  if d.kind = 0 then
    let a := d.globalAt i
    if !vaOk s o.ctx a || !vaLocal s a then .error addrFault
    else
      match loadByte s o.ctx (vaOffset a) with
      | .ok (t, b) => .ok (homeRead t o.ctx (vaOffset a / 128) (o.party s), b)
      | .error e => .error e
  else
    match spadPlace s g.core own (d.kind == 2) (if d.kind = 2 then d.sourceAt i else d.spadAt i) 1 with
    | some (k, off) => .ok (s, spadByte s k own d.smode off)
    | none => .ok (s, 0)

/-- A byte of a copy written at its home or its bank. A line that the rows cover whole is not read (R92). -/
def copyWriteByte (s : State) (g : Group) (own : PlaceSrc) (o : Op) (d : CopyDesc) (i : Nat) (b : Byte) : Except Miss State :=
  if d.kind = 1 then
    let a := d.globalAt i
    let off := vaOffset a
    if !vaOk s o.ctx a || !vaLocal s a then .error addrFault
    else
      match canWrite s o.ctx (d.coversLine (vaOwner a)) off 1 with
      | .error e => .error e
      | .ok s =>
        match storeByte (snoop s o.ctx off 1 none) o.ctx off b with
        | .ok t => .ok (touchLine t o.ctx (off / 128) (o.party s))
        | .error e => .error e
  else
    match spadPlace s g.core own (d.kind == 2) (d.spadAt i) 1 with
    | some (k, off) => .ok (spadPut s k own d.dmode off [b])
    | none => .ok s

/-- Some bytes of a copy read, with their values, and those refused with the first cause. -/
def copyRead (s : State) (g : Group) (own : PlaceSrc) (o : Op) (d : CopyDesc) (ix : List Nat) :
    State × List (Nat × Byte) × List Nat × Option Miss :=
  ix.foldl (fun acc i =>
    match o.byteRead i with
    | some b => (acc.1, acc.2.1 ++ [(i, b)], acc.2.2)
    | none =>
      match copyReadByte acc.1 g own o d i with
      | .ok (s, b) => (s, acc.2.1 ++ [(i, b)], acc.2.2)
      | .error e =>
        (refusedWalk acc.1 o.ctx (d.globalAt i), acc.2.1, acc.2.2.1 ++ [i], some (acc.2.2.2.getD e))) (s, [], [], none)

/-- Some bytes of a copy written, and those refused with the first cause. -/
def copyWrite (s : State) (g : Group) (own : PlaceSrc) (o : Op) (d : CopyDesc) (bs : List (Nat × Byte)) :
    State × List Nat × Option Miss :=
  bs.foldl (fun acc x =>
    match copyWriteByte acc.1 g own o d x.1 x.2 with
    | .ok s => (s, acc.2)
    | .error e => (refusedWalk acc.1 o.ctx (d.globalAt x.1), acc.2.1 ++ [x.1], some (acc.2.2.getD e))) (s, [], none)

/-- Refused bytes of a copy noted, with the first one's cause and address. -/
def Op.refuseBytes (o : Op) (d : CopyDesc) (bad : List Nat) (m : Miss) : Op :=
  if bad.isEmpty then o
  else
    let first := o.refusedBytes.isEmpty
    { o with parts := (o.parts.filter fun p => !bad.contains p.1) ++ bad.map fun i => (i, 1, 0),
             cause := if first then m.code else o.cause, marks := o.marks ||| m.marks,
             addrs := if first then List.replicate 64 (d.globalAt (bad.headD 0)) else o.addrs }

/-! ### HOME_SLICE_ACCESS (R98, R118) -/

/-- Byte `x / 2` of a copy read at its home or its bank, for even `x`, or written, with the bytes of its scratchpad word. The bytes of a
remote COPY are read by their owner, and those of a remote COPYO written there. -/
def copyAccess (s : State) (o : Op) (x : Nat) : Option State :=
  let i := x / 2
  match copyOf s o with
  | none => none
  | some (d, g, own, e) =>
    if o.remote != 0 && (if x % 2 = 0 then d.kind == 0 else d.kind == 1) || d.size ≤ i then none
    else if x % 2 = 0 then
      let ix := d.wordOf (d.source s g own) i
      if ix.any fun j => o.byteBegun j || !byteReadable s d g own e j || (d.kind == 0 && (o.byteHolder s d j).isSome) then none
      else
        let (s, bs, bad, m) := copyRead s g own o d ix
        some (updOp s o.id fun o =>
          { o with parts := o.parts ++ bs.map fun (b : Nat × Byte) => (b.1, 0, b.2.toNat) }.refuseBytes d bad (m.getD addrFault))
    else
      let ix := (d.wordOf (d.target s g own) i).filter fun j => !o.refusedBytes.contains j
      let bs := ix.filterMap fun j => (o.byteRead j).map fun b => (j, b)
      if bs.isEmpty || bs.length < ix.length || ix.any fun j => !byteWritable s o d g own e j || (o.byteHolder s d j).isSome then none
      else
        let (s, bad, m) := copyWrite s g own o d bs
        some (examine (updOp s o.id fun o =>
          { o with pieces := o.pieces ++ ix.filter (fun j => !bad.contains j),
                   parts := o.parts.filter fun p => !ix.contains p.1 }.refuseBytes d bad (m.getD addrFault)))

/-- HOME_SLICE_ACCESS: access `x / 64` of lane `x % 64` of an operation, or a byte of a copy, is performed (R98, R111, R118, R123). -/
def execHomeSliceAccess (op x : Nat) (s : State) : Host.Outcome State Fault Refusal :=
  match findOp s op with
  | none => .refused .eventNotEnabled
  | some o =>
    match o.kind with
    | .copy _ => event (copyAccess s o x)
    | _ => event (homeAccess s o (x % 64) (x / 64))

/-! ### COPY_COMPLETE (R118, R300) -/

/-- The flag of a copy, after its last byte (R118). -/
def copyFlag (s : State) (g : Group) (own : PlaceSrc) (d : CopyDesc) : State :=
  match d.flag with
  | none => s
  | some f =>
    match spadPlace s g.core own true f 8 with
    | some (k, off) => spadPut s k own 0 off (leBytes 8 d.value.toNat)
    | none => s

/-- The end of a copy whose bytes are all written or refused: the flag, and the scoreboard and its class are left; or refused bytes, which
ERET sends again, await their return. -/
def copyEnd (s : State) (o : Op) (d : CopyDesc) (g : Group) (own : PlaceSrc) : State :=
  if ((findOp s o.id).getD o).refusedBytes.isEmpty then
    finishOp (updOp (scoreLeave (examine (copyFlag s g own d)) o.id) o.id fun o => { o with todo := 0, pieces := [], parts := [] }) o.id
  else updOp s o.id fun o => { o with todo := 0, faulted := 1 }

/-- What is left of a copy whose bytes are on this device, or arrive from another one and have been read: read, then written. Bytes on the
line of an earlier faulted access join the replay record (R126). -/
def copyRest (s : State) (o : Op) (d : CopyDesc) (g : Group) (own : PlaceSrc) (e : ScoreEntry) : Option State :=
  let all := o.bytesLeft d
  let ix := all.filter fun i => (o.byteHolder s d i).isNone
  let held := all.filter fun i => (o.byteHolder s d i).isSome
  let holders := held.filterMap (o.byteHolder s d)
  if !flagFree s g own o d || (!held.isEmpty && !replayRoom s o 1) || holders.any (fun h => !h.told || h.dormant) ||
     ix.any fun i => (!o.byteBegun i && !byteReadable s d g own e i) || copyBefore s g own o (d.target s g own i) || scoreBehind s e then none
  else
    let (s, bs, bad1, m1) := copyRead s g own o d ix
    let (s, bad2, m2) := copyWrite s g own o d bs
    let bad := bad1 ++ bad2
    let s := updOp (examine s) o.id fun o =>
      { o with pieces := o.pieces ++ ix.filter fun i => !bad.contains i }.refuseBytes d bad ((m1.orElse fun _ => m2).getD addrFault)
    let s := updOp s o.id fun o => { o with parts := (o.parts.filter fun p => !held.contains p.1) ++ held.map fun i => (i, 1, 0) }
    some (match holders with
      | h :: _ => if bad.isEmpty && o.refusedBytes.isEmpty then joinReplay s o.id 1 h.entry else copyEnd s o d g own
      | [] => copyEnd s o d g own)

/-- COPY_COMPLETE: what is left of the payload is performed, and then the flag is written (R118); bytes that their owner refuses are kept
for ERET, which sends those alone again (R300). A remote COPY first takes its payload, `data`; a remote COPYO first sends its own, and
then is acknowledged. -/
def execCopyComplete (op : Nat) (data : List Byte) (s : State) : Host.Outcome State Fault Refusal :=
  match (findOp s op).bind fun o => (copyOf s o).map fun x => (o, x) with
  | none => .refused .eventNotEnabled
  | some (o, d, g, own, e) =>
    let left := o.bytesLeft d
    let unread := left.filter fun i => !o.byteBegun i
    if o.remote != 0 && d.kind == 0 && !unread.isEmpty then
      eventIf (data.length == unread.length)
        (updOp s op fun o => { o with parts := o.parts ++ (unread.zip data).map fun x => (x.1, 0, x.2.toNat) })
    else if o.remote != 0 && d.kind == 1 then
      let unsent := left.filter fun i => !o.parts.contains (i, 2, 0)
      if unsent.isEmpty then
        eventIf (flagFree s g own o d) (copyEnd (updOp s op fun o =>
          { o with pieces := o.pieces ++ left, parts := o.parts.filter fun p => p.2.1 == 1 }) o d g own)
      else if scoreBehind s e || unread.any (fun i => !byteReadable s d g own e i) ||
              unsent.any fun i => copyBefore s g own o (d.target s g own i) then .refused .eventNotEnabled
      else
        let (s, bs, _, _) := copyRead s g own o d unsent
        let s := updOp s op fun o =>
          { o with parts := (o.parts.filter fun p => !unsent.contains p.1) ++ unsent.map fun i => (i, 2, 0) }
        .next (sendOut s (vaOwner d.g) 16 ([op, o.gid % 2 ^ 64, o.ctx] ++ bs.flatMap fun x => [(d.globalAt x.1).toNat, x.2.toNat]))
    else event (copyRest s o d g own e)

end Sys2Proof.Machine
end

