-- ==== Sys2Proof/Machine/FabricEvents.lean ====
section
/-!
DEFINITION. What crosses Hezan and the scale-out ports: requests that arrive from other devices, home-agent operations,
reduce windows, flits and key generations, RGET on both sides, mapping requests and XFENCE (R84, R125, R126, R166, R174 to
R189, R345, R346, R427 to R429).
-/

namespace Sys2Proof.Machine

/-! ### REMOTE_REQUEST (R84, R125, R126, R174, R176, R184) -/

/-- The number under which this device keeps another device's group. -/
def remoteGid (peer group : Nat) : Nat := (peer + 1) * 2 ^ 64 + group % 2 ^ 64

/-- The kind of the operation that a request performs here. -/
def remoteOpKind (r : RemoteReq) : OpKind :=
  let one (fmt : Nat) (hi f32 ord : Bool) (c : Crux) (n : Option (BitVec 16)) : OpKind :=
    .crux fmt hi f32 ord [⟨r.addr.get 0, c, n.map (·.toNat), .sent⟩]
  match r.kind with
  | .load w => .load w false 64
  | .store w => .store w
  | .atomic minor w ret => .atomic (if 16 ≤ minor then 0x85 else 0x84) minor w ret
  | .nmop op => .nmop op
  | .mxacc fmt vs n => one fmt false true n.isSome (.accF32 vs) n
  | .mxaccBlock stored fmt scale slot n => one stored false false n.isSome (.accMx fmt scale slot) n
  | .mxld fmt => one fmt false false false .load none
  | .mxst fmt scale slot => one fmt false false false (.store scale slot) none
  | .faddOrd n => .crux 8 false false true [⟨r.addr.get 1, .add r.lanes r.data (r.addr.get 0), some n.toNat, .sent⟩]
  | .sigdec n => .sigdec n
  | .devdec n _ _ => .sigdec n
  | .mapft => .mapft
  | .prefetch => .prefetch false

/-- Whether a request's kind addresses one place, whatever its lanes. -/
def remoteSingle : RemoteKind → Bool
  | .load _ => false
  | .store _ => false
  | .atomic .. => false
  | .prefetch => false
  | _ => true

/-- The operation of a request, behind the earlier ones of its ordered channel (R125), with the group's other accesses that it may
overlap (R101). -/
def remoteOp (r : RemoteReq) (peer id : Nat) (after same : List Nat) : Op :=
  { id := id, ctx := r.ctx, gid := remoteGid peer r.group, from_ := peer, entry := 0, pc := r.pc, kind := remoteOpKind r, cls := none,
    dst := .vreg 0, todo := if remoteSingle r.kind then 1 else r.lanes, done := 0, remote := 0, faulted := 0, cause := 0, marks := 0,
    addrs := r.addr, data := r.data,
    data2 := match r.kind with
      | .mxld fmt => List.replicate 64 (imageLanes fmt 0)
      | _ => r.data2,
    res := Lanes.zero, channel := r.channel, scope := 0, order := 0, after := after, same := same, rel := [], parts := [], told := false,
    replay := false, orphan := false, dormant := false, pieces := [r.req] }

/-- Whether a request replays an access that this device has refused: it is of the same operation of the same group, and names the line
refused (R126, R184, R185). -/
def Op.replayedBy (o : Op) (r : RemoteReq) : Bool :=
  o.pieces == [r.req] && o.kind.tag == (remoteOpKind r).tag && o.channel == r.channel &&
  (lowestAddr o.faulted o.addrs.get).toNat / 128 == (lowestAddr r.lanes r.addr.get).toNat / 128

/-- A request to a context that is not on this device is refused with ADDRFAULT. -/
def refuseUnknown (s : State) (o : Op) : State :=
  if (getCtx s o.ctx).st = .absent then
    answerRemote (updOp s o.id fun o => { o with todo := 0, faulted := o.todo, cause := 8 }) o.id
  else s

/-- Decrements that other devices make for themselves, on their way to signals here: they are no group's accesses, and one whose signal no
longer translates leaves its record here (R408). -/
def deviceDecs (s : State) (r : RemoteReq) (n source : Nat) (info : Dword) : State :=
  let (id, s) := fresh s
  s.onExec fun e => { e with sigdecs := e.sigdecs ++ [⟨id, r.ctx, r.addr.get 0, n, source, info⟩] }

/-- REMOTE_REQUEST: a request is taken up in the order of its channel; one that comes behind a faulted access of its ordered channel
is rejected; and a replayed one takes the place of the access that faulted. -/
def execRemoteRequest (peer : Nat) (r : RemoteReq) (s : State) : Host.Outcome State Fault Refusal :=
  let up : Bool := s.fabric.formed && (match findLink s peer with
    | some l => !l.down
    | none => false)
  if !up || 16 ≤ r.ctx || 16 ≤ r.channel || r.lanes == 0 then .refused .eventNotEnabled
  else match r.kind with
  | .devdec n source info => eventIf (vaLocal s (r.addr.get 0)) (deviceDecs s r n source info)
  | _ =>
    let gid := remoteGid peer r.group
    let refused (o : Op) : Bool := o.gid == gid && o.told && o.faulted != 0
    match s.exec.ops.find? fun o => refused o && o.replayedBy r with
    | some o =>
      let n := remoteOp r peer o.id [] []
      .next (refuseUnknown (updOp s o.id fun _ => n) n)
    | none =>
      if r.channel != 0 && s.exec.ops.any (fun o => refused o && o.channel == r.channel) then
        .next (sendOut (linkSend s r.ctx peer (vaOffset (lowestAddr r.lanes r.addr.get) / 128) 0 1) peer 7
          [r.group % 2 ^ 64, r.channel, r.lanes.toNat, 0, 0, (lowestAddr r.lanes r.addr.get).toNat, r.pc.toNat])
      else
        let mine := s.exec.ops.filter fun o => o.gid == gid && o.pend != 0
        let first := mine.filter fun o => r.channel != 0 && o.channel == r.channel
        let n := remoteOp r peer s.exec.seq (first.map (·.id)) ((mine.filter fun o => o.kind.direct).map (·.id))
        .next (refuseUnknown (addOp (fresh s).2 n) n)

/-! ### HOME_AGENT_OP (R177, R178) -/

/-- A word read by the home agent: its address is of the issuing context, and this device translates it. -/
def agentRead (s : State) (party c a : Nat) : Except Miss (State × Nat) :=
  let v : Dword := BitVec.ofNat 64 a
  if !vaOk s c v || !vaLocal s v then .error addrFault
  else
    match loadBytes s c (vaOffset v) 8 with
    | .error e => .error e
    | .ok (s, bs) => .ok ((linesOf (vaOffset v) 8).foldl (fun s line => homeRead s c line party) s, leValue bs)

/-- A word written by the home agent, after every L1 copy of its line has gone (R94). -/
def agentWrite (s : State) (party c a x : Nat) : Except Miss State :=
  let v : Dword := BitVec.ofNat 64 a
  let off := vaOffset v
  if !vaOk s c v || !vaLocal s v then .error addrFault
  else
    match canWrite s c (fun _ => false) off 8 with
    | .error e => .error e
    | .ok s =>
      match storeBytes (snoop s c off 8 none) c off (leBytes 8 x) with
      | .error e => .error e
      | .ok s => .ok ((linesOf off 8).foldl (fun s line => touchLine s c line party) s)

/-- Words read in order of address. -/
def agentReads (s : State) (party c a : Nat) : Nat → Except Miss (State × List Nat)
  | 0 => .ok (s, [])
  | n + 1 =>
    match agentRead s party c a with
    | .error e => .error e
    | .ok (s, x) =>
      match agentReads s party c (a + 8) n with
      | .error e => .error e
      | .ok (s, xs) => .ok (s, x :: xs)

/-- Words written in order; a word that is refused refuses them all. -/
def agentWrites (s : State) (party c : Nat) : List (Nat × Nat) → Except Miss State
  | [] => .ok s
  | w :: ws =>
    match agentWrite s party c w.1 w.2 with
    | .error e => .error e
    | .ok s => agentWrites s party c ws

/-- CAS2 and CAS4 with `n` words (R177). They are atomics, and need read and write permission whatever they compare. -/
def agentCas (s : State) (party c a n : Nat) (v : Lanes) : Except Miss (State × List Nat) :=
  match agentReads s party c a n with
  | .error e => .error e
  | .ok (s, old) =>
    let cmp := (List.range n).map fun i => (v.get (1 + i)).toNat
    let new := if old = cmp then (List.range n).map fun i => (v.get (1 + n + i)).toNat else old
    match agentWrites s party c ((List.range n).zip new |>.map fun x => (a + 8 * x.1, x.2)) with
    | .error e => .error e
    | .ok s => .ok (s, old)

/-- ENQ (R177). -/
def agentEnq (s : State) (party c h n : Nat) : Except Miss (State × List Nat) :=
  match agentWrite s party c n 0 with
  | .error e => .error e
  | .ok s =>
    match agentRead s party c (h + 8) with
    | .error e => .error e
    | .ok (s, t) =>
      match agentWrites s party c [(if t = 0 then h else t, n), (h + 8, n)] with
      | .error e => .error e
      | .ok s => .ok (s, [t])

/-- DEQ (R177). -/
def agentDeq (s : State) (party c h : Nat) : Except Miss (State × List Nat) :=
  match agentRead s party c h with
  | .error e => .error e
  | .ok (s, x) =>
    if x = 0 then .ok (s, [0])
    else
      match agentRead s party c x with
      | .error e => .error e
      | .ok (s, nx) =>
        match agentWrites s party c ((h, nx) :: (if nx = 0 then [(h + 8, 0)] else [])) with
        | .error e => .error e
        | .ok s => .ok (s, [x])

/-- One operation of the home agent: the result words, or what refuses it. A CHASE is a plain load for each of its hops, and here ends
at the pointer that it has reached. -/
def agentRun (s : State) (o : Op) (op : Nat) : Except Miss (State × List Nat) :=
  let v (i : Nat) : Nat := (o.data.get i).toNat
  match op with
  | 0 => agentCas s (o.party s) o.ctx (v 0) 2 o.data
  | 1 => agentCas s (o.party s) o.ctx (v 0) 4 o.data
  | 2 => agentEnq s (o.party s) o.ctx (v 0) (v 1)
  | 3 => agentDeq s (o.party s) o.ctx (v 0)
  | _ => .ok (s, [o.chased.2, o.chased.1])

/-- The bytes that the next step of a home-agent operation touches (R177). -/
def Op.agentNext (s : State) (o : Op) (op : Nat) : List (Nat × Nat × Nat) :=
  if op = 4 then (if o.chasing s then [(0, o.chaseLink o.chased.2, 8)] else []) else o.agentSpans s op

/-- Whether the next step of a home-agent operation may be made: what the operation follows is performed (R101, R106, R107), and no early
release hides its bytes. -/
def agentReady (s : State) (o : Op) (op : Nat) : Bool :=
  o.todo != 0 && o.remote == 0 && !o.dormant && o.orderMet s &&
  (o.agentNext s op).all fun x =>
    !(o.same.any fun id => (findOp s id).any fun y => y.meetsSpan s x) && !veiledOutside s o.ctx x.2.1 x.2.2 &&
    !pendingBefore s o (BitVec.ofNat 64 x.2.1, x.2.2)

/-- What the home agent does next for an operation: a hop of a CHASE, or its whole effect with its result. A refused operation writes
nothing, and starts again when it is sent again (R178). -/
def agentStep (s : State) (o : Op) (op : Nat) : State :=
  let at_ : Nat := ((o.agentNext s op).headD (0, 0, 0)).2.1
  let fail (e : Miss) : State := updOp (refusedWalk s o.ctx (BitVec.ofNat 64 at_)) o.id fun o =>
    { o with todo := 0, faulted := 1, cause := e.code, marks := e.marks, parts := [] }
  if op = 4 ∧ o.chasing s then
    let (i, p) := o.chased
    match agentRead s (o.party s) o.ctx (o.chaseLink p) with
    | .error e => fail e
    | .ok (s, q) => updOp s o.id fun o => { o with parts := [(1, i + 1, q)] }
  else
    match agentRun s o op with
    | .error e => fail e
    | .ok (s, ws) =>
      updOp s o.id fun o =>
        { o with todo := 0, done := 1, parts := [], res := Lanes.build fun i => BitVec.ofNat 64 (ws.getD i 0) }

/-- HOME_AGENT_OP: the operation has its whole effect, or is refused and writes nothing (R178); one of CHASE's loads is a step of its own
(R177). It is held behind a faulted access of its group on a line that it touches (R126). -/
def execHomeAgentOp (op : Nat) (s : State) : Host.Outcome State Fault Refusal :=
  match findOp s op with
  | none => .refused .eventNotEnabled
  | some o =>
    match o.kind with
    | .nmop k =>
      (match (o.agentNext s k).findSome? fun x => lineHolder s o (BitVec.ofNat 64 x.2.1) with
       | some h =>
         if o.todo.getLsbD 0 && o.remote == 0 && !o.dormant && o.after.all (opPerformed s) then
           event (joinHolder (updOp s op fun o => { o with parts := [] }) { o with parts := [] } h 0)
         else .refused .eventNotEnabled
       | none => eventIf (agentReady s o k) (answerRemote (finishOp (agentStep s o k) op) op))
    | _ => .refused .eventNotEnabled

/-! ### Flits and key generations (R166, R427) -/

/-- A lane set of the pair to a device, or of the pair from it. -/
def findSet (s : State) (peer : Nat) (out : Bool) (set : Nat) : Option LaneSet :=
  s.fabric.sets.find? fun x => x.peer == peer && x.out == out && x.set == set

def updSet (s : State) (peer : Nat) (out : Bool) (set : Nat) (f : LaneSet → LaneSet) : State :=
  s.onFabric fun x => { x with sets := x.sets.map fun y => if y.peer == peer && y.out == out && y.set == set then f y else y }

/-- A lane set gone from a pair: those above it are renumbered (R167, R447). -/
def dropSet (s : State) (peer : Nat) (out : Bool) (set : Nat) : State :=
  let mine (y : LaneSet) : Bool := y.peer == peer && y.out == out
  s.onFabric fun x =>
    { x with sets := (x.sets.filter fun y => !(mine y && y.set == set)).map fun y =>
        if mine y && set < y.set then { y with set := y.set - 1 } else y }

/-- The lease of this device that a lane set of a pair belongs to, by the set's key: context and slot (R167). -/
def leaseOfKey (s : State) (peer key : Nat) : Option (Nat × Nat) :=
  (List.range 16).findSome? fun c =>
    ((getCtx s c).leases.find? fun l => l.peer == peer && l.since + 1 == key && (l.st == .granted || l.st == .notice)).map
      fun l => (c, l.slot)

/-- A lane set gone from a pair's transmit end: a floor set lowers the floor, and a pair without a floor is down; a leased one leaves its
lease as after notice, and the sets above are renumbered (R167, R171, R447). -/
def fenceTransmit (s : State) (peer set : Nat) : State :=
  match findSet s peer true set with
  | none => s
  | some y =>
    let s := if y.key = 0 then updLink s peer fun l => { l with floorOut := l.floorOut - 4, down := l.down || l.floorOut ≤ 4 }
      else
        match leaseOfKey s peer y.key with
        | some (c, k) =>
          updLease s c k fun y =>
            if y.held ≤ 4 then { y with st := .ended, held := 0, noticed := 0, term := 0 }
            else { y with held := y.held - 4, noticed := min y.noticed (y.held - 4) }
        | none => s
    let lost := ((y.flits.filter (·.relaxed)).map (·.count)).sum
    dropSet (updLink s peer fun l =>
      { l with sets := l.sets - 1, pendingSets := l.pendingSets.map (· - 1), unacked := l.unacked - lost }) peer true set

/-- A lane set gone from a pair's receiving end: a pair without a floor is down. -/
def fenceReceive (s : State) (peer set : Nat) : State :=
  match findSet s peer false set with
  | none => s
  | some y =>
    let s := if y.key = 0 then updLink s peer fun l => { l with floorIn := l.floorIn - 4, down := l.down || l.floorIn ≤ 4 }
      else
        s.onFabric fun x =>
          let less := x.served.map fun v =>
            if v.id + 1 == y.key then { v with lanes := v.lanes - 4, noticed := min v.noticed (v.lanes - 4) } else v
          { x with served := less.filter fun v => v.lanes != 0 }
    dropSet s peer false set

/-- A lane set of a pair fenced, at its receiving or its transmit end (R447). -/
def fenceSet (s : State) (peer set : Nat) (receive : Bool) : State :=
  let s := if receive then fenceReceive s peer set else fenceTransmit s peer set
  s.onMysko fun m => { m with fencedUnits := (4, peer * 65536 + set) :: m.fencedUnits }

/-! ### Flits (R166, R427) -/

/-- The first four bytes behind a flit's payload: its type, its generation mod 16 and its sequence mod 2^24 (R427). -/
def flitHeader (kind gen seq : Nat) : Nat := kind % 16 * 2 ^ 28 + gen % 16 * 2 ^ 24 + seq % 2 ^ 24

/-- One bit of a CRC-32 in the reflected form of IEEE 802.3 (PRESUMED, log entry 102). -/
def crcBit (c : Word) : Word := if c.getLsbD 0 then (c >>> 1) ^^^ 0xEDB88320#32 else c >>> 1

/-- The CRC-32 of some bytes (R427; log entry 102). -/
def crc32 (bs : List Byte) : Word :=
  ~~~(bs.foldl (fun c b => (List.range 8).foldl (fun c _ => crcBit c) (c ^^^ b.setWidth 32)) (BitVec.allOnes 32))

/-- The nonce of a flit: the 32-bit generation followed by the 64-bit full sequence (R427). -/
def flitNonce (gen seq : Nat) : List Byte := leBytes 4 gen ++ leBytes 8 seq

/-- The 80 bytes of a flit of a lane set with some payload: 64 bytes, header, CRC over what stands before it, and tag (R166, R427). -/
def flitBytes (peer set kind gen seq : Nat) (payload : List Byte) : List Byte :=
  let body := payload.take 64 ++ List.replicate (64 - payload.length) 0 ++ leBytes 4 (flitHeader kind gen seq)
  body ++ leBytes 4 (crc32 body).toNat ++ leBytes 8 (Config.flitTag peer set (flitNonce gen seq) body).toNat

/-- The first generation from `base` on whose four low bits a header carries. -/
def fullGen (base low : Nat) : Nat := base + (low % 16 + 16 - base % 16) % 16

/-- Whether the receiver accepts a generation now (R427). -/
def LaneSet.accepts (l : LaneSet) (gen tick : Nat) : Bool :=
  (gen == l.rxGen && (match l.rxNewAt with
    | some t => tick < t + 64000
    | none => true)) ||
  (gen == l.rxGen + 1 && l.rxAnnounced)

/-- A good flit in sequence is handed on: number 16 and below a context's, 17 the announcement of a generation switch, and any other a
control flit. -/
def flitTaken (s : State) (peer set gen ctx : Nat) : State :=
  let s := updSet s peer false set fun l =>
    { l with rxSeq := l.rxSeq + 1, rxAnnounced := l.rxAnnounced || ctx == 17,
             rxNewAt := if gen == l.rxGen + 1 && l.rxNewAt.isNone then some s.tick else l.rxNewAt }
  if ctx < 16 then assayAdd s ctx 45 1 else s

/-- The oldest `n` flits of a list taken: how many of them were relaxed, and those that are left. -/
def popFlits : Nat → List FlitRun → Nat × List FlitRun
  | _, [] => (0, [])
  | n, x :: xs =>
    if n = 0 then (0, x :: xs)
    else if x.count ≤ n then
      let r := popFlits (n - x.count) xs
      ((if x.relaxed then x.count else 0) + r.1, r.2)
    else (if x.relaxed then n else 0, { x with seq := x.seq + n, count := x.count - n } :: xs)

/-- The oldest `n` flits of a lane set acknowledged at link level, the pair's relaxed flits among them (R166, R173). -/
def flitsAcked (s : State) (peer set n : Nat) : State :=
  match findSet s peer true set with
  | none => s
  | some l =>
    let r := popFlits n l.flits
    updLink (updSet s peer true set fun l => { l with flits := r.2 }) peer fun l => { l with unacked := l.unacked - r.1 }

/-- The flits of a lane set that await acknowledgement sent again, each in its first generation (R427). -/
def replayFlits (s : State) (peer set : Nat) : State :=
  match findSet s peer true set with
  | none => s
  | some l => l.flits.foldl (fun s r => sendOut s peer 21 [set, flitHeader 0 r.gen r.seq, r.gen, r.seq, r.count]) s

/-- A flit whose CRC or tag fails: its replay is asked for, and one that fails again fences the lane set with a lasting error's record
(R427, R446, R447). -/
def flitBad (s : State) (peer : Nat) (l : LaneSet) : State :=
  if l.rxBad then fenceSet (errorRecord s 3 4 peer 15 (BitVec.ofNat 64 l.set) 7) peer l.set true
  else sendOut (updSet s peer false l.set fun l => { l with rxBad := true }) peer 20 [l.set, l.rxSeq]

/-- A good flit taken; one that a replay has mended leaves a transient error's record (R446). -/
def flitGood (s : State) (peer gen ctx : Nat) (l : LaneSet) : State :=
  let s := if l.rxBad then errorRecord s 2 4 peer 15 (BitVec.ofNat 64 l.set) 7 else s
  flitTaken (updSet s peer false l.set fun l => { l with rxBad := false }) peer l.set gen ctx

/-- FLIT_RECEIVE: a flit whose header carries the generation and sequence of `seq` = gen · 2^64 + number. One whose generation is not
accepted, or that is out of sequence, is not handed on (R166, R427). For `ctx` = 18 it is the acknowledgement of `seq` flits of this device,
for 19 a probe, which a device of a formed domain answers with its index (R426), and for 20 it asks for a replay. -/
def execFlitReceive (peer set seq : Nat) (good : Bool) (ctx : Nat) (s : State) : Host.Outcome State Fault Refusal :=
  match findSet s peer (good && (ctx == 18 || ctx == 20)) set with
  | none => .refused .eventNotEnabled
  | some l =>
    let gen := fullGen l.rxGen (seq / 2 ^ 64)
    if !good then .next (flitBad s peer l)
    else if ctx = 18 then .next (flitsAcked s peer set seq)
    else if ctx = 19 then .next (sendOut s peer 19 [set, s.fabric.index])
    else if ctx = 20 then .next (replayFlits s peer set)
    else if l.accepts gen s.tick && seq % 2 ^ 24 == l.rxSeq % 2 ^ 24 then .next (flitGood s peer gen ctx l)
    else .next s

/-- A switch tick announced in a control flit of the old generation (R427). -/
def announceKey (s : State) (peer set gen : Nat) : State :=
  let t := s.tick + Config.keySwitchLead s.tick
  sendOut (updSet s peer true set fun l => { l with switchAt := some t }) peer 11 [set, gen + 1, t]

/-- KEY_SWITCH_ANNOUNCE: after 2^32 flits of the generation, or 1 s (R427). -/
def execKeySwitchAnnounce (peer set : Nat) (s : State) : Host.Outcome State Fault Refusal :=
  match findSet s peer true set with
  | none => .refused .eventNotEnabled
  | some l => eventIf (l.switchAt.isNone && (2 ^ 32 ≤ l.sent || l.genSince + 10 ^ 9 ≤ s.tick)) (announceKey s peer set l.gen)

/-- KEY_SWITCH: from T onward, when no flit of the old generation awaits acknowledgement (R427). -/
def execKeySwitch (peer set : Nat) (s : State) : Host.Outcome State Fault Refusal :=
  match findSet s peer true set with
  | none => .refused .eventNotEnabled
  | some l =>
    match l.switchAt with
    | none => .refused .eventNotEnabled
    | some t =>
      eventIf (t ≤ s.tick && s.tick ≤ t + 16000 && l.unacked == 0)
        (updSet s peer true set fun l => { l with gen := l.gen + 1, sent := 0, genSince := s.tick, switchAt := none })

/-- KEY_SWITCH_RETRY: the boundary has not come by T + 16 µs (R427). -/
def execKeySwitchRetry (peer set : Nat) (s : State) : Host.Outcome State Fault Refusal :=
  match findSet s peer true set with
  | none => .refused .eventNotEnabled
  | some l =>
    match l.switchAt with
    | none => .refused .eventNotEnabled
    | some t => eventIf (t + 16000 ≤ s.tick && (l.unacked != 0 || t + 16000 < s.tick)) (announceKey s peer set l.gen)

/-- OLD_GENERATION_EXPIRY: 64 µs after the first flit of the new generation (R427). -/
def execOldGenerationExpiry (peer set : Nat) (s : State) : Host.Outcome State Fault Refusal :=
  match findSet s peer false set with
  | none => .refused .eventNotEnabled
  | some l =>
    match l.rxNewAt with
    | none => .refused .eventNotEnabled
    | some t =>
      eventIf (t + 64000 ≤ s.tick)
        (updSet s peer false set fun l => { l with rxGen := l.rxGen + 1, rxAnnounced := false, rxNewAt := none })

/-! ### Reduce windows at the home and the members (R181, R182) -/

/-- The contributions of a chunk that the home has accepted. -/
def findStaging (s : State) (c w chunk : Nat) : Staging :=
  (s.fabric.staging.find? fun x => x.ctx == c && x.win == w && x.chunk == chunk).getD ⟨c, w, chunk, 0, []⟩

def putStaging (s : State) (x : Staging) : State :=
  s.onFabric fun f =>
    { f with staging := (f.staging.filter fun y => !(y.ctx == x.ctx && y.win == x.win && y.chunk == x.chunk)) ++ [x] }

/-- The lowest generation to which a member has not contributed (R181). -/
def Staging.nextGen (x : Staging) (m : Nat) : Nat :=
  if x.got.any fun g => g.1 == x.gen && g.2.1 == m then
    (if x.got.any fun g => g.1 == x.gen + 1 && g.2.1 == m then x.gen + 2 else x.gen + 1)
  else x.gen

/-- The bytes of an element of a window's format. -/
def mrBytes (fmt : Nat) : Nat := if fmt = 9 ∨ fmt = 0xA then 2 else 4

/-- mr_combine() over the members' chunks, in member order (R181). -/
def mrCombine (fmt : Nat) (cs : List (List Byte)) : List Byte :=
  let n := mrBytes fmt
  (List.range (128 / n)).flatMap fun i =>
    leBytes n (mrCombineElem fmt (cs.map fun c => leValue ((c.drop (n * i)).take n)))

/-- A refused delivery enters the home's fault queue: its four details in the three words (R182, R421). -/
def mrRefused (s : State) (c w gen member chunk : Nat) : State :=
  faultRecord s c { type := 0x01, d0 := w + gen % 2 ^ 32 * 2 ^ 32, d1 := member, d2 := chunk }

/-- A decrement made by the device on its way to its signal (R408). -/
def sendDec (s : State) (c : Nat) (a : Dword) (source : Nat) (info : Nat) : State :=
  let (id, s) := fresh s
  s.onExec fun e => { e with sigdecs := e.sigdecs ++ [⟨id, c, a, 1, source, BitVec.ofNat 64 info⟩] }

/-- A combined chunk stored by a member under its own translation and permission check, with the decrement of its signal after it;
none when the check refuses it (R182). -/
def mrStore (s : State) (c w : Nat) (x : Window) (chunk : Nat) (data : List Byte) : Option State :=
  let off := x.dst + 128 * chunk
  match canWrite s c (fun _ => true) off 128 with
  | .error _ => none
  | .ok s =>
    let s := match storeBytes (snoop s c off 128 none) c off data with
      | .ok s => touchLine s c (off / 128) (160 + x.home)
      | .error _ => s
    some (sendDec s c (BitVec.ofNat 64 (s.fabric.index * 2 ^ 53 + x.sig)) 2 (w + chunk * 2 ^ 32))

/-- A combined chunk delivered to every member (R182). -/
def mrDeliver (s : State) (c w : Nat) (x : Window) (gen chunk : Nat) (data : List Byte) : State :=
  ((List.range x.members.length).zip x.members).foldl (fun s m =>
    if m.2 = s.fabric.index then
      (match mrStore s c w x chunk data with
       | some s => s
       | none => mrRefused s c w gen m.1 chunk)
    else
      sendOut (linkSend s c m.2 ((x.dst + 128 * chunk) / 128) 0 3) m.2 8
        ([c, w, gen, chunk] ++ data.map (·.toNat))) s

/-- A contribution at the home: accepted, with the combination of a complete oldest generation; none for a third generation (R181). -/
def mrAccept (s : State) (c w : Nat) (x : Window) (m chunk : Nat) (data : List Byte) : Option State :=
  let st := findStaging s c w chunk
  let g := st.nextGen m
  if st.gen + 2 ≤ g then none
  else
    let st := { st with got := st.got ++ [(g, m, data)] }
    let mine := st.got.filter fun y => y.1 == st.gen
    if mine.length < x.members.length then some (putStaging s st)
    else
      let cs := (List.range x.members.length).map fun k => ((mine.find? fun y => y.2.1 == k).map (·.2.2)).getD []
      let s := putStaging s { st with gen := st.gen + 1, got := st.got.filter fun y => y.1 != st.gen }
      some (mrDeliver (assayAdd s c 43 1) c w x st.gen chunk (mrCombine x.fmt cs))

/-- The 128 bytes of half `j` of an ST.MR. -/
def mrHalf (o : Op) (j : Nat) : List Byte :=
  (List.range 32).flatMap fun i => leBytes 4 ((o.data.get (32 * j + i)).toNat % 2 ^ 32)

/-- Half `j` of a local ST.MR given to this device's own window: accepted, or sent back for 1 µs (R181). -/
def mrOwn (s : State) (o : Op) (w : Nat) (x : Window) (m q j : Nat) : State :=
  let setBack (f : List (Nat × Nat) → List (Nat × Nat)) (o : Op) : Op :=
    match o.kind with
    | .stmr w q back => { o with kind := .stmr w q (f back) }
    | _ => o
  match mrAccept s o.ctx w x m (q / 128 + j) (mrHalf o j) with
  | none => updOp s o.id (setBack fun b => (b.filter fun y => y.1 != j) ++ [(j, s.tick + 1000)])
  | some s =>
    finishOp (updOp s o.id fun o =>
      setBack (fun b => b.filter fun y => y.1 != j) { o with todo := o.todo &&& ~~~BitVec.ofNat 64 (2 ^ j) }) o.id

/-- A local ST.MR whose half for a chunk has not reached its window yet. -/
def mrSource (s : State) (c w chunk : Nat) : Option (Op × Nat × Nat) :=
  s.exec.ops.findSome? fun o =>
    match o.kind with
    | .stmr w' q back =>
      let j := chunk - q / 128
      if o.ctx == c && w' == w && o.remote == 0 && q / 128 ≤ chunk && j < 2 && o.todo.getLsbD j && !(back.any fun y => y.1 == j) &&
         o.after.all (opPerformed s) then some (o, q, j)
      else none
    | _ => none

/-- The window of a context that this device combines. -/
def homeWindow (s : State) (c w : Nat) : Option Window :=
  match (getCtx s c).windows.getD w none with
  | some x => if x.home = s.fabric.index then some x else none
  | none => none

/-- MR_CONTRIBUTION: member `m`'s contribution to a chunk reaches the home (R181). The home's own comes from its ST.MR. Eight bytes are a
member's report that it has refused the delivery of that generation (R182). The line of the answers is the model's choice (log entry 111). -/
def execMrContribution (c w m chunk : Nat) (data : List Byte) (s : State) : Host.Outcome State Fault Refusal :=
  match homeWindow s c w with
  | none => .refused .eventNotEnabled
  | some x =>
    match x.members[m]? with
    | none => .refused .eventNotEnabled
    | some d =>
      if x.len < 128 * chunk + 128 then .refused .eventNotEnabled
      else if d = s.fabric.index then
        (match mrSource s c w chunk with
         | some (o, q, j) => eventIf data.isEmpty (mrOwn s o w x m q j)
         | none => .refused .eventNotEnabled)
      else if data.length = 8 then .next (mrRefused s c w (leValue data) m chunk)
      else if data.length ≠ 128 then .refused .eventNotEnabled
      else
        match mrAccept s c w x m chunk data with
        | some s => .next (sendOut (linkSend s c d 0 0 1) d 14 [c, w, chunk])
        | none => .next (sendOut (linkSend s c d 0 0 1) d 10 [c, w, chunk])

/-- MR_RESEND: a contribution that was sent back 1 µs ago is sent again (R181). -/
def execMrResend (op : Nat) (s : State) : Host.Outcome State Fault Refusal :=
  match findOp s op with
  | none => .refused .eventNotEnabled
  | some o =>
    match o.kind with
    | .stmr w q back =>
      if o.todo == 0 || o.dormant then .refused .eventNotEnabled
      else
        match homeWindow s o.ctx w, back.find? fun y => y.2 ≤ s.tick with
        | none, some (j, _) =>
          eventIf (o.remote != 0)
            (sendRequests (updOp s op fun o => { o with kind := .stmr w q (back.filter fun y => y.1 != j) }) o
              (o.todo &&& BitVec.ofNat 64 (2 ^ j)))
        | some x, some (j, _) =>
          (match (List.range x.members.length).find? fun k => x.members.getD k 0 == s.fabric.index with
           | some m => .next (mrOwn s o w x m q j)
           | none => .refused .eventNotEnabled)
        | _, _ => .refused .eventNotEnabled
    | _ => .refused .eventNotEnabled

/-- MR_DELIVERY: a combined chunk arrives at a member that is not the home; a refused one is reported to the home (R182). -/
def execMrDelivery (c w gen chunk : Nat) (data : List Byte) (s : State) : Host.Outcome State Fault Refusal :=
  match windowOf s c w with
  | none => .refused .eventNotEnabled
  | some x =>
    if x.home = s.fabric.index ∨ data.length ≠ 128 ∨ x.len < 128 * chunk + 128 then .refused .eventNotEnabled
    else
      match mrStore s c w x chunk data with
      | some s => .next s
      | none => .next (sendOut (linkSend s c x.home 0 0 1) x.home 12 [c, w, gen, chunk])

/-! ### RGET (R188, R189, R428, R429) -/

/-- Whether a context's peer table holds a valid entry that names an endpoint, by its 16-byte address and its identifier, and binds a
context of it (R429). -/
def servesPeer (s : State) (c : Nat) (requester : BitVec 192) (remote : Nat) : Bool :=
  (List.range (getCtx s c).peerCount).any fun k =>
    (match peerEntry s c k with
     | some (_, bound) => bound == remote
     | none => false) && peerEndpoint s c k == requester.toNat

/-- The bytes that a served RGET reads, each at its home slice (R189). -/
def rgetRead (s : State) (c : Nat) (a : Dword) (n : Nat) : Except Miss (State × List Byte) :=
  if !vaOk s c a || !vaLocal s a then .error addrFault
  else
    match loadBytes s c (vaOffset a) n with
    | .error e => .error e
    | .ok (s, bs) =>
      .ok ((lineShares (vaOffset a) n).foldl (fun s l => homeRead s c l.1 (hostParty + 1)) s, bs)

/-- The answer to an RGET: the endpoint in three words, the cause or 0, and the bytes (R189). -/
def rgetAnswer (s : State) (requester : BitVec 192) (words : List Nat) : State :=
  let r := requester.toNat
  sendOut s 4096 9 ([r % 2 ^ 64, r / 2 ^ 64 % 2 ^ 64, r / 2 ^ 128] ++ words)

/-- RGET_SERVE: a read for context `remote` of another device through the endpoint `requester`, its address in the low 128 bits and its
identifier above them, in the bound context (R189, R429). -/
def execRgetServe (remote c : Nat) (a : Dword) (n : Nat) (requester : BitVec 192) (s : State) : Host.Outcome State Fault Refusal :=
  if s.mysko.phase ≠ .full ∨ 16 ≤ c ∨ a.toNat % 4 ≠ 0 ∨ n % 4 ≠ 0 ∨ n = 0 ∨ 4096 < n then .refused .eventNotEnabled
  else if (getCtx s c).st = .absent ∨ !servesPeer s c requester remote then
    .next (rgetAnswer s requester [9])
  else
    match rgetRead s c a n with
    | .error e => .next (rgetAnswer s requester [e.code])
    | .ok (s, bs) => .next (rgetAnswer (assayAdd s c 46 n) requester (0 :: bs.map (·.toNat)))

/-- Whether an earlier RGET of the same group still has to write a byte of a piece (R117). -/
def rgetBefore (s : State) (o : Op) (mode a m : Nat) : Bool :=
  (s.exec.ops.takeWhile fun x => x.id != o.id).any fun x =>
    x.gid == o.gid && x.pend != 0 && match x.kind with
      | .rgetSpad _ off n mode' =>
        let ps := rgetPieces 18 (x.addrs.get 0).toNat 0 n
        ((List.range ps.length).zip ps).any fun p => x.pend.getLsbD p.1 &&
          (List.range p.2.2).any fun i => (List.range m).any fun j => swizzle mode' (off + p.2.1 + i) == swizzle mode (a + j)
      | _ => false

/-- RGET_PIECE_LANDING: a piece's bytes land in the allocation (R188). -/
def execRgetPieceLanding (op piece : Nat) (data : List Byte) (s : State) : Host.Outcome State Fault Refusal :=
  match findOp s op with
  | none => .refused .eventNotEnabled
  | some o =>
    match o.kind, (findGroup s o.gid).bind fun g => (findPair s g.pair).map fun p => (g, p) with
    | .rgetSpad _ off n mode, some (g, p) =>
      (match (rgetPieces 18 (o.addrs.get 0).toNat 0 n)[piece]? with
       | none => .refused .eventNotEnabled
       | some (done, m) =>
         if !o.todo.getLsbD piece || data.length ≠ m || !(o.after.all (opPerformed s)) ||
            rgetBefore s o mode (off + done) m then .refused .eventNotEnabled
         else
           let s := examine (spadPut s g.core p.owner mode (off + done) data)
           let s := assayAdd s o.ctx 47 m
           .next (finishOp (updOp s op fun o =>
             { o with todo := o.todo &&& ~~~BitVec.ofNat 64 (2 ^ piece), pieces := o.pieces ++ [piece] }) op))
    | _, _ => .refused .eventNotEnabled

/-- TRANSPORT_FAILURE: a lane or a piece of an RGET fails with the transport mark (R189, R428). -/
def execTransportFailure (op piece : Nat) (s : State) : Host.Outcome State Fault Refusal :=
  match findOp s op with
  | none => .refused .eventNotEnabled
  | some o =>
    let rget : Bool := match o.kind with
      | .rgetQueue _ => true
      | .rgetSpad .. => true
      | _ => false
    if !rget || 64 ≤ piece || !o.todo.getLsbD piece || o.dormant || !(o.after.all (opPerformed s)) then .refused .eventNotEnabled
    else .next (updOp s op fun o => o.transportFails piece)

/-! ### MAPFT_EXECUTE (R346, R415) -/

/-- The entry at which a walk of the levels ends: its level, its address and its value. -/
def walkEnd (s : State) (c off : Nat) : List Nat → Nat → Nat × Nat × Nat
  | [], t => (3, t, 0)
  | level :: rest, t =>
    let a := t + 8 * pteIndex level off
    let p := walkEntry s c a
    match pteView (installedBytes s) level off p with
    | .table next => walkEnd s c off rest next
    | _ => (level, a, p)

/-- A frame's first page-table value and how many entries of its group are written (R415). -/
def mapEntries (s : State) (a p frame size : Nat) : State :=
  let n := if size = 2 ^ 20 then 128 else if size = 2 ^ 27 then 16 else 1
  let v := 2 ^ 63 + bitsNat p 56 6 * 2 ^ 56 + frame + p % 2 ^ 13
  let first := a - 8 * (a / 8 % n)
  (List.range n).foldl (fun s i => physWrite s (first + 8 * i) (leBytes 8 v)) s

/-- A mapping request executed: its status, and the state (R346). A first-touch marking that no page size fits is not one. -/
def mapRun (s : State) (c off : Nat) : State × Nat :=
  let x := getCtx s c
  let (level, a, p) := walkEnd s c off [0, 1, 2, 3] x.root
  let kind := bitsNat p 60 2
  if p.testBit 63 then (s, 1)
  else if !p.testBit 62 ∨ kind = 0 ∨ (kind = 3 ∧ level ≠ 2) ∨ (kind ≠ 3 ∧ level ≠ 3) then (s, 2)
  else
    let pool := x.block + 0x40 + 16 * (kind - 1)
    let word := physNat s pool 8
    let cap := 2 ^ (word % 32)
    let put := physNat s (pool + 8) 4
    let take := physNat s (pool + 12) 4
    if take = put then (s, 3)
    else
      let frame := physNat s (word / 4096 * 4096 + 8 * (take % cap)) 8
      let size := if kind = 3 then 2 ^ 27 else if kind = 2 then 2 ^ 20 else 8192
      let s := physWrite s (pool + 12) (leBytes 4 ((take + 1) % 2 ^ 32))
      if frame % size ≠ 0 ∨ installedBytes s < frame + size then (s, 3)
      else (mapEntries (physWrite s frame (List.replicate size 0)) a p frame size, 0)

/-- MAPFT_EXECUTE: at the owner, one request at a time (R346). The flits of the status reply, and their lane set, are the model's choice
(log entry 111). -/
def execMapftExecute (op : Nat) (s : State) : Host.Outcome State Fault Refusal :=
  match findOp s op with
  | none => .refused .eventNotEnabled
  | some o =>
    if o.kind ≠ .mapft ∨ o.todo = 0 ∨ o.remote ≠ 0 then .refused .eventNotEnabled
    else
      let (s, status) := mapRun s o.ctx (vaOffset (o.addrs.get 0))
      if o.from_ = s.fabric.index then
        .next (settleMapft (updOp s op fun o => { o with todo := 0, cause := status }) o.gid)
      else
        .next (dropOp (sendOut (linkSend s o.ctx o.from_ o.line 16 2) o.from_ 6
          [o.gid % 2 ^ 64, o.channel, 1, status]) op)

/-! ### XFENCE_COMPLETE (R175) -/

/-- XFENCE_COMPLETE: every earlier remote access of the group to the named devices has been performed. -/
def execXfenceComplete (op : Nat) (s : State) : Host.Outcome State Fault Refusal :=
  match findOp s op with
  | none => .refused .eventNotEnabled
  | some o =>
    match o.kind with
    | .xfence _ _ after =>
      eventIf (o.todo != 0 && after.all (opPerformed s)) (settleCtl (updOp s op fun o => { o with todo := 0 }) o.gid)
    | _ => .refused .eventNotEnabled

end Sys2Proof.Machine
end

