-- ==== Sys2Proof/Machine/Control.lean ====
section
/-!
DEFINITION. Control transfers, paths and timed waits: majors 0xC0 and 0x33 (R35 to R39, R103, R230 to R238).
-/

namespace Sys2Proof.Machine

/-- The direct target of a transfer, and the reconvergence PC of BDIV (R204). -/
def targetPc (pc : Dword) (f : FmtB) : Dword :=
  pcLine pc + BitVec.ofInt 64 (64 * f.disp.toInt) + f.slot.zeroExtend 64
@[inherit_doc targetPc] def reconPc (pc : Dword) (f : FmtB) : Dword :=
  pcLine pc + BitVec.ofInt 64 (64 * f.disp2.toInt) + f.slot2.zeroExtend 64

/-! ### The path table -/

/-- The entry that a record names has been freed (R38): the partner is "gone", and a path parked on it is ready. -/
def markGone (e : Nat) (ps : List Path) : List Path :=
  ps.map fun p =>
    let stack := p.stack.map fun r => if r.kind ≠ .serial ∧ r.partner = some e then { r with partner := none } else r
    let st := if p.st = .parked && (stack.head?.bind (·.partner)).isNone then PathState.ready else p.st
    { p with stack := stack, st := st }

/-- A path-table entry freed (R38), with what was pending for it; a Press cause that it had not taken is delivered anew (R53). -/
def freeEntry (s : State) (gid e : Nat) : State :=
  let s := match (findGroup s gid).bind fun g => if g.pending.any fun x => x.1 == e && pressPending x then g.pressCause else none with
    | some (c, k) =>
      updGroup (updPress s c k fun p => { p with taken := none }) gid fun g => { g with pressCause := none }
    | none => s
  updGroup s gid fun g =>
    { g with paths := markGone e (g.paths.set e Path.empty), pending := g.pending.filter fun x => x.1 != e,
             sup := if g.sup = some e then none else g.sup }

/-- The faulted accesses of an ended path discarded, with their counts (R184). -/
def dropFaulted (s : State) (gid e : Nat) : State := discardFaulted s gid fun o => o.entry == e

/-- What belongs to entry `a` now belongs to entry `b`: operations, pending causes, the supervisor and the run. -/
def renameEntry (s : State) (gid a b : Nat) : State :=
  let s := updGroup s gid fun g =>
    { g with pending := g.pending.map fun x => if x.1 == a then (b, x.2) else x,
             sup := if g.sup = some a then some b else g.sup }
  s.onExec fun x =>
    { x with ops := x.ops.map fun o => if o.gid == gid && o.entry == a then { o with entry := b } else o,
             runs := x.runs.map fun r => if r.gid == gid && r.entry == a then { r with entry := b } else r }

/-- A path moved into a free entry (R39): its lane set, EXEC and stack go with it, and the records that name it follow. A record whose
partner is gone keeps the entry that it last named. -/
def movePath (s : State) (gid a b : Nat) : State :=
  let ren (r : PathRec) : PathRec := if r.partner = some a then { r with partner := some b, former := b } else r
  let s := updGroup s gid fun g =>
    let ps := (g.paths.set b (g.path a)).set a Path.empty
    { g with paths := ps.map fun p => { p with stack := p.stack.map ren } }
  renameEntry s gid a b

/-- The reconvergence records in use (R36). -/
def recordCount (g : Group) : Nat := (g.paths.map fun p => p.stack.length).foldl (· + ·) 0

/-- The lowest free detached entry (R37). -/
def lowestFree (g : Group) : Option Nat :=
  ((List.range 16).drop 1).find? fun e => (g.path e).st == .free

/-! ### Transfers (R230 to R235) -/

/-- BRA (R232). -/
def execBra (f : FmtB) (s : State) : Host.Outcome State Fault Refusal :=
  issueWord s (.bra f) fun s sl => .goto s (targetPc sl.pc f)

/-- Whether a BRC is taken (R231, R232). -/
def brcTaken (sl : Slot) (f : FmtB) : Bool :=
  let c := f.cond.toNat
  if 8 ≤ c then maskCond c (sl.predSrc f.a) sl.p.exec
  else if f.modi.getLsbD 0 then intRel c true 64 (sl.uni64 0 f.a).toNat 0
  else intRel c true 32 (sl.uni32 0 f.a).toNat 0

/-- BRC (R232). -/
def execBrc (f : FmtB) (s : State) : Host.Outcome State Fault Refusal :=
  issueWord s (.brc f) fun s sl => if brcTaken sl f then .goto s (targetPc sl.pc f) else .done s

/-- The path of `e` diverges (R37): the minority detaches into entry `k`, or a serial record keeps it. Both paths' accesses follow those
of the path before (R103). -/
def diverge (s : State) (gid e : Nat) (k : Option Nat) (rpc : Dword) (minor major : Mask) (minorPc : Dword) : State :=
  match k with
  | some k =>
    let before := pathOrder s gid [e]
    let s := updPath s gid e fun p =>
      { p with lanes := p.lanes &&& ~~~minor, exec := major, stack := ⟨.split, rpc, some k, k, 0, 0, 0, 0⟩ :: p.stack, holds := before }
    updPath s gid k fun _ =>
      { Path.empty with st := .ready, pc := minorPc, lanes := minor, exec := minor, holds := before,
                        stack := [⟨.detached, rpc, some e, e, 0, 0, 0, 0⟩] }
  | none =>
    updPath s gid e fun p => { p with exec := major, stack := ⟨.serial, rpc, none, 0, 1, minor, 0, minorPc⟩ :: p.stack }

/-- BDIV (R37, R233). -/
def execBdiv (f : FmtB) (s : State) : Host.Outcome State Fault Refusal :=
  issueWord s (.bdiv f) fun s sl =>
    let c := sl.guardMask f.guard
    let t := sl.p.exec &&& c
    let n := sl.p.exec &&& ~~~c
    let tgt := targetPc sl.pc f
    let rpc := reconPc sl.pc f
    let fall := nextPc sl.pc
    if t == 0 then .done s
    else if n == 0 || badTarget s sl.g tgt then .goto s tgt
    else
      let used := recordCount sl.g
      if 48 ≤ used then .cause s ⟨0x01, 1, sl.pc, 0, sl.p.exec, 2 ^ 12, 0, false⟩
      else
        let k := if used + 2 ≤ 48 then lowestFree sl.g else none
        if popMask t < popMask n then .done (diverge s sl.g.gid sl.run.entry k rpc t n tgt)
        else .goto (diverge s sl.g.gid sl.run.entry k rpc n t fall) tgt

/-- BRX (R234). -/
def execBrx (f : FmtB) (s : State) : Host.Outcome State Fault Refusal :=
  issueWord s (.brx f) fun s sl => .goto s (sl.uni64 0 f.a)

/-- CALL: the link is the slot that follows (R234). -/
def execCall (f : FmtB) (s : State) : Host.Outcome State Fault Refusal :=
  issueWord s (.call f) fun s sl => .goto (writePair s sl f.dst (nextPc sl.pc)) (targetPc sl.pc f)

/-- RET (R234). -/
def execRet (f : FmtB) (s : State) : Host.Outcome State Fault Refusal :=
  issueWord s (.ret f) fun s sl => .goto s (sl.uni64 0 f.a)

/-- LOOPS: the count falls, and the loop goes on while it was above 1 (R232). -/
def execLoops (f : FmtB) (s : State) : Host.Outcome State Fault Refusal :=
  issueWord s (.loops f) fun s sl =>
    let n := match f.a with
      | .uni n => n.toNat
      | _ => 0
    let c := (sl.g.sreg n).toNat
    if 1 < c then .goto (updGroup s sl.g.gid fun g => g.setSreg n (BitVec.ofNat 32 (c - 1))) (targetPc sl.pc f)
    else .done (updGroup s sl.g.gid fun g => g.setSreg n 0)

/-- EXIT: the lanes in EXEC end; a path without lanes frees its entry, and a group without paths ends (R38, R235). -/
def execExit (f : FmtB) (s : State) : Host.Outcome State Fault Refusal :=
  issueWord s (.exit f) fun s sl =>
    let gid := sl.g.gid
    let e := sl.run.entry
    let left := sl.p.lanes &&& ~~~sl.p.exec
    if left != 0 then .done (updPath s gid e fun p => { p with lanes := left, exec := 0 })
    else
      let last := !(sl.g.paths.set e Path.empty).any fun p => p.st != .free
      let s := if sl.g.sup = some e then dropFaulted s gid e else s
      let s := if last then s else freeEntry s gid e
      .leave (if last then groupEnd s gid else s)

/-! ### Reconvergence, masks and timed waits (R236 to R238) -/

/-- RECON at PC x by the top record of the path's stack (R39). A partner counts as parked at x for this path when the record that it
parked on names this path (log entry 91). The merged path's accesses follow those of both (R103). -/
def reconAct (s : State) (sl : Slot) : Act :=
  let gid := sl.g.gid
  let e := sl.run.entry
  let x := sl.pc
  match sl.p.stack with
  | [] => .done s
  | r :: rest =>
    if r.recon ≠ x then .done s
    else match r.kind with
    | .serial =>
      if r.phase = 1 then
        .jump (updPath s gid e fun p =>
          { p with exec := r.saved &&& p.lanes, stack := { r with phase := 2, saved2 := p.exec } :: rest }) r.resume
      else .done (updPath s gid e fun p => { p with exec := (p.exec ||| r.saved2) &&& p.lanes, stack := rest })
    | kind =>
      match r.partner with
      | none =>
        let s := updPath s gid e fun p => { p with stack := rest }
        if kind = .detached ∧ e ≠ r.former ∧ (sl.g.path r.former).st = .free ∧ r.former < 16 then
          .done (movePath s gid e r.former)
        else .done s
      | some q =>
        let o := sl.g.path q
        let meets : Bool := o.st == .parked && o.pc == x &&
          (match o.stack with
           | t :: _ => t.recon == x && t.partner == some e
           | [] => false)
        if meets then
          let parent := if kind = .split then e else q
          let child := if kind = .split then q else e
          let before := pathOrder s gid [parent, child]
          let c := sl.g.path child
          let s := updPath s gid parent fun p =>
            { p with lanes := p.lanes ||| c.lanes, exec := p.exec ||| c.exec, stack := p.stack.drop 1, st := .ready, pc := x, holds := before }
          let s := updGroup s gid fun g => { g with paths := markGone child (g.paths.set child Path.empty) }
          .done (renameEntry s gid child parent)
        else .park (updPath s gid e fun p => { p with st := .parked, pc := x })

/-- RECON (R39, R236). A path that parks has not issued its head. -/
def execRecon (f : FmtA) (s : State) : Host.Outcome State Fault Refusal :=
  issueWord s (.recon f) reconAct

/-- EXECRD (R238). -/
def execExecrd (f : FmtA) (s : State) : Host.Outcome State Fault Refusal :=
  issueWord s (.execrd f) fun s sl => .done (writePred s sl f.dst sl.p.exec)

/-- EXECWR: lanes outside the path's lane set are ignored (R38, R238). -/
def execExecwr (f : FmtA) (s : State) : Host.Outcome State Fault Refusal :=
  issueWord s (.execwr f) fun s sl =>
    let v := match f.a with
      | .vec n => sl.g.pred n.toNat
      | a => sl.uni64 f.wide.toInt a
    .done (updPath s sl.g.gid sl.run.entry fun p => { p with exec := v &&& p.lanes })

/-- SWAIT: the head waits until the timebase reaches the deadline (R237). -/
def execSwait (f : FmtA) (s : State) : Host.Outcome State Fault Refusal :=
  issueWord s (.swait f) fun s sl =>
    let set (d : Option Nat) (s : State) : State := updPath s sl.g.gid sl.run.entry fun p => { p with deadline := d }
    let abs := (sl.uni64 f.wide.toInt f.a).toNat
    let n := (sl.uni32 f.wide.toInt f.a).toInt
    let due : Nat :=
      if f.modi.getLsbD 0 then abs
      else match sl.p.deadline with
        | some d => d
        | none => s.tick + n.toNat
    if due ≤ s.tick then .done (set none s) else .wait (set (some due) s)

end Sys2Proof.Machine
end

