-- ==== Sys2Proof/Machine/PressIssue.lean ====
section
/-!
DEFINITION. Issue in the Press stream: the slot that the Press has reached, the start and the end of its runs, causes, the
interlocks, the scoreboard and the arithmetic of tiles and accumulators (R43, R53, R305 to R308, R317, R327, R328).
-/

namespace Sys2Proof.Machine

/-! ### The slot of a Press stream -/

/-- The slot that a Press context has reached. -/
structure PSlot where
  run : Run
  p : PressCtx
  cohort : Cohort
  pc : Dword
  deriving DecidableEq, Repr

/-- Whether the issuing unit is a Press context. -/
def pressIssues (s : State) : Bool :=
  match s.issuer with
  | some (_, u) => 4 < u
  | none => false

/-- The slot that the issuing Press context has reached. -/
def currentPress (s : State) : Option PSlot :=
  match s.issuer with
  | none => none
  | some (c, u) =>
    if u ≤ 4 then none
    else
      match findRun s c u with
      | none => none
      | some r =>
        match findPress s c (u - 5) with
        | none => none
        | some p =>
          match findCohort s p.cohort with
          | none => none
          | some co => some ⟨r, p, co, (r.slots.getD r.idx (r.head, .runFetch 0 0)).1⟩

/-- The issuing Press context changed. -/
def PSlot.upd (ps : PSlot) (s : State) (f : PressCtx → PressCtx) : State := updPress s ps.p.core ps.p.num f

/-- The stop record of a breakpoint in the Press stream (R341, R456). -/
def pressBreak (s : State) (co : Cohort) (core : Nat) (pc : Dword) (n : Nat) : State :=
  stopRecord s co.ctx (co.number % 2 ^ 32 + core % 256 * 2 ^ 32) 2 pc n

/-- A Press cause (R53): the stream stops at a PC until the cause has been delivered and its handler returns. A breakpoint of the run stops
it too (R341). `addr` is what its record names beside the Press PC: the slot of bad parity (R192), else that PC. -/
def pressStopAt (s : State) (core num : Nat) (pc addr : Dword) (code marks : Nat) : State :=
  let brk := (findRun s core (5 + num)).bind (·.brk)
  let s := freeUnit s core (5 + num)
  let s := match brk, (findPress s core num).bind fun p => findCohort s p.cohort with
    | some (n, at_), some co => pressBreak s co core at_ n
    | _, _ => s
  updPress s core num fun p =>
    { p with st := if brk.isSome then .debugStopped else .stopped, pc := pc,
             cause := some ⟨code, 3, pc, addr, 0, marks ||| 2 ^ 13, 0, false⟩, taken := none }

/-- A Press cause that names its PC alone: the Press PC in TRADDR, and class 3, as R342 and R343 say of every cause delivered from the Press;
for a BADTARGET of MLOOP or MBRA R32 says the target and class 0, and the model follows R342 and R343 (log entry 105). -/
def pressStop (s : State) (core num : Nat) (pc : Dword) (code marks : Nat) : State := pressStopAt s core num pc pc code marks

/-- What a Press command does to its stream. -/
inductive PAct where
  /-- it has issued -/
  | done (s : State)
  /-- a condition of R307 delays it -/
  | stall (s : State)
  /-- its head waits (R31) -/
  | wait
  /-- it raises a cause, before any effect -/
  | cause (code : Nat)
  /-- it is a transfer taken -/
  | goto (s : State) (target : Dword)
  /-- it ends the stream -/
  | ended (s : State)

/-- The end of a Press run: the stream stands at its next head, and a breakpoint stops it there (R341). -/
def pressFinish (s : State) (ps : PSlot) (next : Dword) : State :=
  let run := (findRun s ps.run.core ps.run.unit).getD ps.run
  let s := freeUnit s ps.run.core ps.run.unit
  let s := ps.upd s fun p => { p with pc := next, st := .running }
  match run.brk with
  | some (n, pc) =>
    pressBreak (ps.upd s fun p => { p with st := .debugStopped }) ps.cohort ps.p.core pc n
  | none => s

/-- The next slot of a Press run, or its end. The next command is chosen anew (R43, R307). -/
def pressAdvance (s : State) (ps : PSlot) : State :=
  if ps.run.slots.length ≤ ps.run.idx + 1 then pressFinish s ps (nextPc ps.pc)
  else { (updRun s ps.run.core ps.run.unit fun r => { r with idx := r.idx + 1 }) with issuer := none }

/-- The stream that has issued a command in this cycle (R43). -/
def pressNoted (s : State) (ps : PSlot) : State :=
  updSched s ps.run.core ps.run.unit fun u => { u with issued := some (ps.p.cohort, ps.p.num) }

/-- The pair class of an MMA (R435). -/
def mmaPair (fa fb : BitVec 5) : Nat :=
  let ca := (mmaClass fa).getD 16
  let cb := (mmaClass fb).getD 16
  let tapered (c : BitVec 5) : Bool := c == 0x10 || c == 0x11
  let kind := if isMx fa && isMx fb then 3 else if isMx fa || isMx fb then 2 else if tapered fa || tapered fb then 1 else 0
  if ca = 16 then 0
  else if ca = 8 then 1 + kind
  else if ca = 6 ∧ cb = 6 then 5 + kind
  else if ca = 4 ∧ cb = 4 then (if kind = 0 then 13 else 12 + kind)
  else 9 + kind

/-- The work counted for an MMA (R434). -/
def mmaWork (fa : BitVec 5) : Nat :=
  match mmaClass fa with
  | some 16 => 131072
  | some 8 => 262144
  | _ => 524288

/-- The counters of an issued Press command (R434, R436). -/
def pressCount (s : State) (ps : PSlot) (i : Instr) : State :=
  let s := assayAdd s ps.cohort.ctx 52 1
  match i with
  | .mma f => assayAdd s ps.cohort.ctx (mmaPair f.fa f.fb) (mmaWork f.fa)
  | .mcvt f => assayAdd s ps.cohort.ctx (cvtCounter f.fb.toNat) 4096
  | _ => s

/-- The continuation of a Press command's act. A taken transfer to a slot that is no target stops the stream with BADTARGET
(R32). -/
def pressSettle (s : State) (ps : PSlot) (i : Instr) : PAct → State
  | .done t => pressAdvance (pressNoted (pressCount t ps i) ps) ps
  | .stall t => { t with issuer := none }
  | .wait => ps.upd (freeUnit s ps.run.core ps.run.unit) fun p => { p with st := .waiting }
  | .cause code => pressStop s ps.p.core ps.p.num ps.pc code 0
  | .goto t target =>
    if badTargetAt s ps.p.core ps.cohort.ctx target then pressStop s ps.p.core ps.p.num ps.pc 0x03 0
    else pressFinish (pressNoted (pressCount t ps i) ps) ps target
  | .ended t => ps.upd (freeUnit (pressNoted (pressCount t ps i) ps) ps.run.core ps.run.unit) fun p => { p with st := .ended }

/-- The issue of a Press command by the context that holds the issuing run. -/
def issuePress (s : State) (i : Instr) (act : State → PSlot → PAct) : Host.Outcome State Fault Refusal :=
  match currentPress s with
  | none => .refused .noIssuer
  | some ps => .next (pressSettle s ps i (act s ps))

/-- A Press stream starts the run at its PC (R30, R306). -/
def startPressRun (s : State) (core num : Nat) : State :=
  match findPress s core num with
  | none => s
  | some p =>
    match findCohort s p.cohort with
    | none => s
    | some co =>
      let entryBad : Bool := !p.entered && !(pcOk p.pc) ||
        (!p.entered && match fetchLine s core co.ctx (pcLine p.pc) with
          | .ok (_, d) => !targetMarked d p.pc
          | .error _ => false)
      if entryBad then pressStop s core num p.pc 0x03 0
      else
        let s := updPress s core num fun p => { p with entered := true }
        match fetchPressRun s core co.ctx co.launch p.pc with
        | (s, .trap code marks at_) => pressStopAt s core num p.pc (if code = 0x01 ∧ at_ ≠ 0 then at_ else p.pc) code marks
        | (s, .ok slots) =>
          let run : Run := ⟨core, 5 + num, p.cohort, num, p.pc, slots, 0, [none, none, none], [], none, none⟩
          let s := s.onExec fun e => { e with runs := e.runs ++ [run] }
          { (updPress s core num fun p => { p with st := .running }) with issuer := some (core, 5 + num) }

/-! ### Interlocks (R307) -/

/-- A tile or an accumulator. -/
inductive PReg where
  | t (n : Nat)
  | a (n : Nat)
  deriving DecidableEq, Repr

/-- The tiles of an MMA operand: an even–odd pair for a 6-bit format (R308). -/
def operandTiles (c : BitVec 5) (n : Nat) : List PReg := if mmaClass c = some 6 then [.t n, .t (n + 1)] else [.t n]

/-- The source of an MSTORE (R309). -/
def storeSource (f : FmtXR) : PReg := if vecNum f.b < 32 then .t (vecNum f.b) else .a (vecNum f.b - 32)

/-- The tiles and accumulators that a command reads. -/
def pressReads : Instr → List PReg
  | .mstore f => [storeSource f]
  | .mma f =>
    operandTiles f.fa (vecNum f.a) ++ operandTiles f.fb (vecNum f.b) ++
    (if isMx f.fa || isMx f.fb then [.t (vecNum f.c)] else []) ++
    (if f.modi.getLsbD 0 then [] else [.a f.dst.reg.toNat])
  | .mcvt f => .a (vecNum f.a) :: (if f.mode = 3 then [.a (vecNum f.a + 1)] else [])
  | _ => []

/-- The tiles and accumulators that a command writes. -/
def pressWrites : Instr → List PReg
  | .mload f => [.t f.dst.reg.toNat]
  | .mloadT f => [.t f.dst.reg.toNat]
  | .mloadS f => [.t f.dst.reg.toNat]
  | .mma f => [.a f.dst.reg.toNat]
  | .mzero f => [.a f.dst.reg.toNat]
  | .mcvt f =>
    .t f.dst.reg.toNat :: (if f.fb = 9 ∨ f.fb = 0xA then [.t (f.dst.reg.toNat + 1)] else []) ++
    (if f.mode = 3 then [.a (vecNum f.a + 1)] else [])
  | _ => []

/-- Whether conditions 2 and 3 of R307 hold: no unfinished command writes what this one reads, or reads or writes what it
writes. -/
def pressFree (p : PressCtx) (i : Instr) : Bool :=
  p.cmds.all fun c =>
    (pressReads i).all (fun r => !(pressWrites c.what).contains r) &&
    (pressWrites i).all fun r => !(pressWrites c.what).contains r && !(pressReads c.what).contains r

/-! ### Region commands (R309, R310) -/

/-- Whether a region command carries .item. -/
def itemForm (f : FmtXR) : Bool := f.a == .short 1

/-- The base of a region (R310). -/
def regionBase (p : PressCtx) (f : FmtXR) : Nat :=
  f.off.toNat + (if itemForm f then (p.item.extractLsb' 0 19).toNat else 0)

/-- The bytes of a region row. -/
def rowBytes : Instr → Nat
  | .mload f => if f.b = .short 1 then 48 else 64
  | .mloadS _ => 128
  | .mstore f => if vecNum f.b < 32 then 64 else 256
  | _ => 64

/-- The starts of the rows that a region command uses. -/
def pressRows (f : FmtXR) (base : Nat) : List Nat :=
  (List.range (f.rows.toNat + 1)).map fun r => base + r * (16 * f.pitch.toNat)

/-- The owner of a Press context's allocation. -/
def PSlot.owner (ps : PSlot) : PlaceSrc := .cohort ps.cohort.id

/-- The base byte of an owner's allocation on a core. -/
def allocBase (s : State) (core : Nat) (o : PlaceSrc) : Nat := ((findAlloc s core o).map (·.base)).getD 0

/-- A command enters the stream's list of unfinished commands. -/
def pushCmd (s : State) (ps : PSlot) (id : Nat) (i : Instr) (base : Nat) (value : Dword) : State :=
  ps.upd s fun p => { p with cmds := p.cmds ++ [⟨id, i, base, value⟩], waits := none }

/-- A command without a scoreboard entry issued under the interlocks. -/
def pressPlain (i : Instr) (base : Nat) (value : Dword) (s : State) (ps : PSlot) : PAct :=
  if !pressFree ps.p i then .stall s
  else
    let (id, s) := fresh s
    .done (pushCmd s ps id i base value)

/-- The scoreboard entry of a stream's next command, which reaches the scoreboard at its first attempt (R120, R327). -/
def scoreTurn (granules : List Nat) (writes : Bool) (s : State) (ps : PSlot) : Nat × State :=
  match ps.p.waits with
  | some id => (id, s)
  | none => ((fresh s).1, scoreEnter (fresh s).2 ps.p.core (fresh s).1 granules writes)

/-- A command with a scoreboard entry (R120, R307, R327): it issues once its entry is granted. -/
def pressScored (i : Instr) (base : Nat) (value : Dword) (granules : List Nat) (writes : Bool) (s : State) (ps : PSlot) : PAct :=
  if !pressFree ps.p i then .stall s
  else
    let r := scoreTurn granules writes s ps
    if r.2.exec.score.any fun e => e.id == r.1 && e.granted then .done (pushCmd r.2 ps r.1 i base value)
    else .stall (ps.upd r.2 fun p => { p with waits := some r.1 })

/-- A region command issued: SPADRANGE, or SCALELAYOUT for MLOAD.S, stops the stream (R146, R310). -/
def pressRegion (i : Instr) (f : FmtXR) (writes : Bool) (s : State) (ps : PSlot) : PAct :=
  let base := regionBase ps.p f
  let n := rowBytes i
  let rows := pressRows f base
  let inside : Bool := rows.all fun a => spadIn s ps.p.core ps.owner a n
  match i with
  | .mloadS _ =>
    if base % 128 ≠ 0 ∨ !inside then .cause 0x0B
    else pressScored i base 0 (regionGranules (allocBase s ps.p.core ps.owner) rows n) writes s ps
  | _ =>
    if !inside then .cause 0x0D
    else pressScored i base 0 (regionGranules (allocBase s ps.p.core ps.owner) rows n) writes s ps

/-! ### Toggle counts and charges (R328) -/

/-- The toggle count of a tile's bytes. -/
def toggleCount (t : List Byte) : Nat :=
  ((t.drop 64).zip t).foldl (fun n x => n + popNat 8 (x.1 ^^^ x.2).toNat) 0

/-- The toggle count that an MMA operand is charged by. -/
def operandToggle (p : PressCtx) (c : BitVec 5) (n : Nat) : Nat :=
  let t (k : Nat) : Nat := p.toggles.getD k 0
  if mmaClass c = some 6 then (t n + t (n + 1)) / 2 else t n

/-- The charge of an MMA. -/
def mmaCharge (p : PressCtx) (f : FmtXA) : Nat :=
  (operandToggle p f.fa (vecNum f.a) + operandToggle p f.fb (vecNum f.b) + 63) / 64

/-! ### Tile operands and the MMA (R308, R316, R317) -/

/-- Element (i, k) of an A operand in its tiles' bytes. -/
def elemA (c : BitVec 5) (t0 t1 : Array Byte) (i k : Nat) : Nat :=
  let b (t : Array Byte) (x : Nat) : Nat := (t.getD x 0).toNat
  match mmaClass c with
  | some 16 => b t0 (64 * i + 2 * k) + 256 * b t0 (64 * i + 2 * k + 1)
  | some 8 => b t0 (64 * i + k)
  | some 6 => if k < 64 then b t0 (64 * i + k) % 64 else b t1 (64 * i + k - 64) % 64
  | _ => bitsNat (b t0 (64 * i + k / 2)) (4 * (k % 2)) 4

/-- Element (k, j) of a B operand in its tiles' bytes. -/
def elemB (c : BitVec 5) (t0 t1 : Array Byte) (k j : Nat) : Nat :=
  let b (t : Array Byte) (x : Nat) : Nat := (t.getD x 0).toNat
  match mmaClass c with
  | some 16 => b t0 (128 * k + 2 * j) + 256 * b t0 (128 * k + 2 * j + 1)
  | some 8 => b t0 (64 * k + j)
  | some 6 => if k < 64 then b t0 (64 * k + j) % 64 else b t1 (64 * (k - 64) + j) % 64
  | _ => bitsNat (b t0 (32 * k + j / 2)) (4 * (j % 2)) 4

/-- The value of an operand element before its scale (R137). -/
def mmaElem (c : BitVec 5) (x : Nat) : Xr := if isMx c then mxElem c.toNat x else (fmtOf c).decode x

/-- A group sum under an operand's scale byte (R147). -/
def scaledBy (mx : Bool) (x : Nat) (v : Xr) : Xr :=
  if !mx then v else if x = 0xFF then .nan else v.scale ((x : Int) - 127)

/-- One element of an MMA: the chain of R147 over the groups of K. -/
def mmaElement (fa fb : BitVec 5) (a0 a1 b0 b1 ts : Array Byte) (i j acc : Nat) : Nat :=
  let k := classK ((mmaClass fa).getD 16)
  let g := if isMx fa && isMx fb then 32 else 16
  let group (q : Nat) : Xr :=
    let v := groupSum ((List.range g).map fun r =>
      (mmaElem fa (elemA fa a0 a1 i (g * q + r))).mul (mmaElem fb (elemB fb b0 b1 (g * q + r) j)))
    let kb := g * q / 32
    scaledBy (isMx fb) (ts.getD (64 * j + 32 + kb) 0).toNat (scaledBy (isMx fa) (ts.getD (64 * i + kb) 0).toNat v)
  chain acc ((List.range (k / g)).map group)

/-- An MMA's new accumulator (R317). -/
def mmaResult (f : FmtXA) (tiles : List (List Byte)) (acc : List Word) : List Word :=
  let t (n : Nat) : Array Byte := (tiles.getD n []).toArray
  let a := vecNum f.a
  let b := vecNum f.b
  let old := acc.toArray
  (List.range 4096).map fun x =>
    let start := if f.modi.getLsbD 0 then f32NegZero else (old.getD x 0).toNat
    BitVec.ofNat 32 (mmaElement f.fa f.fb (t a) (t (a + 1)) (t b) (t (b + 1)) (t (vecNum f.c)) (x / 64) (x % 64) start)

/-! ### Narrowing (R319) -/

/-- The encodings and the new residues of an MCVT, element by element. -/
def mcvtElems (f : FmtXA) (acc res : List Word) : List (Nat × Nat) :=
  (acc.zip res).map fun x =>
    if f.mode = 3 then efRound x.1.toNat x.2.toNat (fmtOf f.fb)
    else (convertTo (fp32.decode x.1.toNat) (fmtOf f.fb) f.mode, x.2.toNat)

/-- The tile bytes of an MCVT's encodings: the tile td, and td + 1 for a 16-bit target. -/
def mcvtTiles (c : BitVec 5) (el : List Nat) : List Byte × List Byte :=
  let e := el.toArray
  let at_ (i j : Nat) : Nat := e.getD (64 * i + j) 0
  let tile (g : Nat → Nat → Nat) : List Byte := (List.range 4096).map fun x => BitVec.ofNat 8 (g (x / 64) (x % 64))
  if c = 9 ∨ c = 0xA then
    (tile fun i b => at_ i (b / 2) / 256 ^ (b % 2), tile fun i b => at_ i (32 + b / 2) / 256 ^ (b % 2))
  else if c = 0x0F then (tile fun i b => if b < 32 then at_ i (2 * b) + 16 * at_ i (2 * b + 1) else 0, [])
  else (tile fun i b => at_ i b, [])

/-! ### Loads of tiles (R311 to R313) -/

/-- A region row expanded to a tile row (R311). -/
def expandRow (layout : Nat) (bs : List Byte) : List Byte :=
  let six (slot : List Byte) (n : Nat) : List Byte := (List.range n).map fun i => BitVec.ofNat 8 (bitsNat (leValue slot) (6 * i) 6)
  if layout = 1 then six (bs.take 48) 64
  else if layout = 2 then six (bs.take 24) 32 ++ six ((bs.drop 32).take 24) 32
  else bs

/-- MLOAD's tile from its region rows; a row that is not used is zero. -/
def mloadTile (layout : Nat) (rows : List (List Byte)) : List Byte :=
  (List.range 64).flatMap fun r =>
    match rows[r]? with
    | some bs => expandRow layout bs
    | none => List.replicate 64 0

/-- MLOAD.T's tile: region row c is column c of a B operand of w bits (R312). -/
def mloadTTile (w : Nat) (rows : List (List Byte)) : List Byte :=
  let vals := (rows.map leValue).toArray
  let el (k c : Nat) : Nat := bitsNat (vals.getD c 0) (w * k) w
  (List.range 4096).map fun x =>
    BitVec.ofNat 8 (
      if w = 16 then el (x / 128) (x % 128 / 2) / 256 ^ (x % 2)
      else if w = 8 then el (x / 64) (x % 64)
      else el (x / 32) (2 * (x % 32)) + 16 * el (x / 32) (2 * (x % 32) + 1))

/-- MLOAD.S's writes: a tile byte for each image byte (R313). -/
def mloadSTile (code sel : Nat) (image old : List Byte) : List Byte :=
  let q := if code = 0x16 then 8 else 4
  let nb := if code = 0x12 ∨ code = 0x13 then 2 else 4
  (List.range 128).foldl (fun t p =>
    let jb := q * (p % (128 / q)) + p / (128 / q)
    let row := sel / 2 * (128 / nb) + jb / nb
    let kb := jb % nb
    t.set (64 * row + kb + (if sel % 2 = 1 then 32 else 0)) (image.getD p 0)) old

end Sys2Proof.Machine
end

