-- ==== Sys2Proof/Machine/Press.lean ====
section
/-!
DEFINITION. The Press commands of majors 0xC8 and 0xE0 to 0xE2, the breakpoint of all three streams, and what a command does
when it finishes (R309 to R328, R341).
-/

namespace Sys2Proof.Machine

/-! ### Hoops (R296) -/

/-- An arrival at a hoop of a cohort, by a partition 0 to 3, the Ladle 4 or the Press 5: the phase it arrives in, and the state after it. -/
def hoopArrive (s : State) (cohort h unit : Nat) : Nat × State :=
  match findCohort s cohort with
  | none => (0, s)
  | some co =>
    let s := updCohort s cohort fun x => { x with hoopLast := x.hoopLast.set h (s.exec.cycle, unit) }
    let count := ((findLaunch s co.launch).map fun l => l.kernel.hoops.getD h 0).getD 0
    let a := co.hoopArr.getD h 0 + 1
    let ph := co.hoopDone.getD h 0
    (ph.toNat,
      if a = count then
        updCohort s cohort fun x => { x with hoopArr := x.hoopArr.set h 0, hoopDone := x.hoopDone.set h (ph + 1) }
      else updCohort s cohort fun x => { x with hoopArr := x.hoopArr.set h a })

/-! ### Control transfers (R324 to R326) -/

/-- MLOOP (R325). -/
def execMloop (f : FmtB) (s : State) : Host.Outcome State Fault Refusal :=
  issuePress s (.mloop f) fun s ps =>
    let c := (f.modi.extractLsb' 0 2).toNat
    let n := if f.modi.getLsbD 2 then max 1 (ps.p.item.extractLsb' 25 6).toNat else (shortOf f.a).toNat
    let old := (ps.p.k.getD c 0).toNat
    let v := (if old = 0 then n else old) - 1
    let s := ps.upd s fun p => { p with k := p.k.set c (BitVec.ofNat 32 v) }
    if v ≠ 0 then .goto s (targetPc ps.pc f) else .done s

/-- MBRA (R326). -/
def execMbra (f : FmtB) (s : State) : Host.Outcome State Fault Refusal :=
  issuePress s (.mbra f) fun s ps =>
    let last := ps.p.item.getLsbD 31
    if f.cond = 0 ∨ (f.cond = 1 ∧ last) ∨ (f.cond = 2 ∧ !last) then .goto s (targetPc ps.pc f) else .done s

/-- MEND: the stream ends, and its earlier commands complete (R326). -/
def execMend (f : FmtB) (s : State) : Host.Outcome State Fault Refusal :=
  issuePress s (.mend f) fun s _ => .ended s

/-! ### Region commands (R309 to R314) -/

/-- MLOAD (R311). -/
def execMload (f : FmtXR) (s : State) : Host.Outcome State Fault Refusal := issuePress s (.mload f) (pressRegion (.mload f) f false)

/-- MLOAD.T (R312). -/
def execMloadT (f : FmtXR) (s : State) : Host.Outcome State Fault Refusal := issuePress s (.mloadT f) (pressRegion (.mloadT f) f false)

/-- MLOAD.S (R313). -/
def execMloadS (f : FmtXR) (s : State) : Host.Outcome State Fault Refusal := issuePress s (.mloadS f) (pressRegion (.mloadS f) f false)

/-- MSTORE (R314). -/
def execMstore (f : FmtXR) (s : State) : Host.Outcome State Fault Refusal := issuePress s (.mstore f) (pressRegion (.mstore f) f true)

/-! ### Arithmetic (R315 to R319) -/

/-- MMA: its charge must fit the budget, which it lowers, and becomes the stream's estimate (R317, R328). -/
def execMma (f : FmtXA) (s : State) : Host.Outcome State Fault Refusal :=
  issuePress s (.mma f) fun s ps =>
    let c := mmaCharge ps.p f
    if !pressFree ps.p (.mma f) || decide ((getCore s ps.p.core).budget < c) then .stall s
    else
      let s := updCore s ps.p.core fun k => { k with budget := k.budget - c }
      pressPlain (.mma f) 0 0 (ps.upd s fun p => { p with est := c }) ps

/-- MZERO (R318). -/
def execMzero (f : FmtXA) (s : State) : Host.Outcome State Fault Refusal := issuePress s (.mzero f) (pressPlain (.mzero f) 0 0)

/-- MCVT (R319). -/
def execMcvt (f : FmtXA) (s : State) : Host.Outcome State Fault Refusal := issuePress s (.mcvt f) (pressPlain (.mcvt f) 0 0)

/-! ### Hoops, rings and flags (R320 to R323) -/

/-- MHARRIVE: performed once every earlier command of the stream has finished (R321). -/
def execMharrive (f : FmtXA) (s : State) : Host.Outcome State Fault Refusal :=
  issuePress s (.mharrive f) (pressPlain (.mharrive f) 0 0)

/-- Whether the head of an MHWAIT can issue (R321). -/
def mhwaitReady (p : PressCtx) (co : Cohort) (f : FmtXA) : Bool :=
  let h := (shortOf f.a).toNat
  phaseDone (co.hoopDone.getD h 0) (p.w.getD h 0)

/-- MHWAIT (R321). -/
def execMhwait (f : FmtXA) (s : State) : Host.Outcome State Fault Refusal :=
  issuePress s (.mhwait f) fun s ps =>
    if mhwaitReady ps.p ps.cohort f then
      .done (ps.upd s fun p => { p with w := p.w.modify (shortOf f.a).toNat (· + 1) })
    else .wait

/-- The item at slot T of a ring, when it is Committed; a commit of this cycle is not seen yet (R304, R329). -/
def Ring.front (r : Ring) (cycle : Nat) : Option Word :=
  let k := r.take.toNat % 16
  match r.slots.getD k .empty with
  | .committed x => if r.put.getD k 0 = cycle + 1 then none else some x
  | _ => none

/-- The ring that MPOP takes from in a cycle, with its item (R322). -/
def mpopTakes (p : PressCtx) (cycle : Nat) : Option (Nat × Word) :=
  match (p.rings.getD 0 Ring.zero).front cycle with
  | some x => some (0, x)
  | none => ((p.rings.getD 1 Ring.zero).front cycle).map fun x => (1, x)

/-- MPOP (R302, R322). -/
def execMpop (f : FmtXA) (s : State) : Host.Outcome State Fault Refusal :=
  issuePress s (.mpop f) fun s ps =>
    match mpopTakes ps.p s.exec.cycle with
    | none => .wait
    | some (k, x) =>
      .done (ps.upd s fun p =>
        { p with item := x, rings := p.rings.modify k fun r =>
            Ring.settle 16 { r with take := r.take + 1, slots := r.slots.set (r.take.toNat % 16) .empty } })

/-- The value that MSIG writes (R323). -/
def msigValue (p : PressCtx) (f : FmtXA) : Dword :=
  match (f.modi.extractLsb' 19 2).toNat with
  | 0 => BitVec.ofInt 64 (shortOf f.a)
  | 1 => p.item.zeroExtend 64
  | _ => BitVec.ofNat 64 p.est

/-- MSIG: an 8-byte flag write, a scoreboard write, performed once every earlier command has finished (R323). -/
def execMsig (f : FmtXA) (s : State) : Host.Outcome State Fault Refusal :=
  issuePress s (.msig f) fun s ps =>
    let d := (f.modi.extractLsb' 0 19).toNat
    if d % 8 ≠ 0 ∨ !spadIn s ps.p.core ps.owner d 8 then .cause 0x0D
    else
      pressScored (.msig f) d (msigValue ps.p f) (regionGranules (allocBase s ps.p.core ps.owner) [d] 8) true s ps

/-! ### The breakpoint (R341) -/

/-- The first breakpoint of a run, noted for its boundary, when the context's debug state is set. -/
def noteBreak (s : State) (c core unit n : Nat) (pc : Dword) : State :=
  if (getCtx s c).debug then updRun s core unit fun r => { r with brk := some (r.brk.getD (n, pc)) } else s

/-- BKPT, legal in all three streams (R341). -/
def execBkpt (f : FmtY) (s : State) : Host.Outcome State Fault Refusal :=
  if pressIssues s then
    issuePress s (.bkpt f) fun s ps => .done (noteBreak s ps.cohort.ctx ps.run.core ps.run.unit f.sel.toNat ps.pc)
  else
    issueWord s (.bkpt f) fun s sl => .done (noteBreak s sl.g.ctx sl.run.core sl.run.unit f.sel.toNat sl.pc)

/-! ### The end of a command (R307, R327) -/

/-- A tile written with its toggle count. -/
def putTile (p : PressCtx) (n : Nat) (t : List Byte) : PressCtx :=
  { p with tiles := p.tiles.set n t, toggles := p.toggles.set n (toggleCount t) }

/-- What a command does when it finishes: a load its tile, a store its region, an arithmetic command its result, an arrival its
hoop, and a flag its word. -/
def pressPerform (s : State) (p : PressCtx) (co : Cohort) (c : PressCmd) : State :=
  let o : PlaceSrc := .cohort co.id
  let upd (f : PressCtx → PressCtx) : State := updPress s p.core p.num f
  let rows (f : FmtXR) : List (List Byte) :=
    (pressRows f c.base).map fun a => spadRead s p.core o f.swz.toNat a (rowBytes c.what)
  match c.what with
  | .mload f =>
    upd fun p => putTile p f.dst.reg.toNat (mloadTile (if f.b = .vec 0 then 0 else (shortOf f.b).toNat) (rows f))
  | .mloadT f => upd fun p => putTile p f.dst.reg.toNat (mloadTTile (4 * 2 ^ (shortOf f.b).toNat) (rows f))
  | .mloadS f =>
    upd fun p =>
      let n := f.dst.reg.toNat
      { p with tiles := p.tiles.set n (mloadSTile (shortOf f.b).toNat (shortOf f.c).toNat ((rows f).headD []) (p.tiles.getD n [])) }
  | .mstore f =>
    let bytes (r : Nat) : List Byte :=
      match storeSource f with
      | .t n => ((p.tiles.getD n []).drop (64 * r)).take 64
      | .a n => (((p.accs.getD n []).drop (64 * r)).take 64).flatMap fun w => leBytes 4 w.toNat
    examine (((List.range (f.rows.toNat + 1)).zip (pressRows f c.base)).foldl
      (fun s x => spadWrite s p.core o f.swz.toNat x.2 (bytes x.1)) s)
  | .mma f => upd fun p => { p with accs := p.accs.modify f.dst.reg.toNat (mmaResult f p.tiles) }
  | .mzero f => upd fun p => { p with accs := p.accs.set f.dst.reg.toNat (List.replicate 4096 0) }
  | .mcvt f =>
    upd fun p =>
      let m := vecNum f.a
      let r := mcvtElems f (p.accs.getD m []) (p.accs.getD (if f.mode = 3 then m + 1 else m) [])
      let t := mcvtTiles f.fb (r.map (·.1))
      let p := putTile p f.dst.reg.toNat t.1
      let p := if f.fb = 9 ∨ f.fb = 0xA then putTile p (f.dst.reg.toNat + 1) t.2 else p
      if f.mode = 3 then { p with accs := p.accs.set (m + 1) (r.map fun x => BitVec.ofNat 32 x.2) } else p
  | .mharrive f => (hoopArrive s co.id (shortOf f.a).toNat 5).2
  | .msig _ => examine (spadWrite s p.core o 0 c.base (leBytes 8 c.value.toNat))
  | _ => s

/-- Whether a command performs only after every earlier command of its stream has finished (R321, R323). -/
def waitsForEarlier : Instr → Bool
  | .mharrive _ => true
  | .msig _ => true
  | _ => false

/-- A Press command finishes (R307, R327): the accesses ordered before it on the scoreboard have finished, and its entry is
freed. -/
def execPressCommandFinish (id : Nat) (s : State) : Host.Outcome State Fault Refusal :=
  match s.exec.presses.find? fun p => p.cmds.any fun c => c.id == id with
  | none => .refused .eventNotEnabled
  | some p =>
    match p.cmds.find? (fun c => c.id == id), findCohort s p.cohort with
    | some c, some co =>
      let behind : Bool := match s.exec.score.find? fun e => e.id == id with
        | some e => scoreBehind s e
        | none => false
      let first : Bool := (p.cmds.head?.map (·.id)) == some id
      eventIf (!behind && (first || !waitsForEarlier c.what))
        (scoreLeave (updPress (pressPerform s p co c) p.core p.num fun p =>
          { p with cmds := p.cmds.filter fun x => x.id != id }) id)
    | _, _ => .refused .eventNotEnabled

/-- A waiting copy or Press command is granted a scoreboard entry, in the order of arrival (R327). -/
def execScoreboardGrant (core : Nat) (s : State) : Host.Outcome State Fault Refusal :=
  match s.exec.score.find? fun e => e.core == core && !e.granted with
  | none => .refused .eventNotEnabled
  | some e =>
    eventIf (grantedCount s core < 32)
      (s.onExec fun x => { x with score := x.score.map fun y => if y.id == e.id then { y with granted := true } else y })

/-- Every core's budget is set to Q at each tick that is a multiple of 1,000 (R328). -/
def execBudgetRefill (s : State) : Host.Outcome State Fault Refusal :=
  eventIf (s.tick % 1000 == 0) { s with cores := s.cores.map fun k => { k with budget := s.mysko.q } }

/-! ### Which stream issues (R43) -/

/-- The next command of a stream: of its run, or of the run at its PC; none for a run that fails its checks. -/
def pressNext (s : State) (p : PressCtx) : Option Instr :=
  match findRun s p.core (5 + p.num), findCohort s p.cohort with
  | some r, _ => (r.slots[r.idx]?).map (·.2)
  | none, some co =>
    match (fetchPressRun s p.core co.ctx co.launch p.pc).2 with
    | .ok slots => (slots.head?).map (·.2)
    | .trap .. => none
  | none, none => none

/-- Whether the Press of a core has issued a command in this cycle (R307). -/
def pressIssued (s : State) (core : Nat) : Bool := s.exec.scheds.any fun u => u.core == core && 5 ≤ u.unit && u.issued.isSome

/-- Whether a stream's next command could issue now (R307). -/
def pressCan (s : State) (p : PressCtx) : Bool :=
  (p.st == .running || p.st == .waiting) &&
  match pressNext s p, findCohort s p.cohort with
  | none, _ => true
  | some i, some co =>
    (match i with
     | .mpop _ => (mpopTakes p s.exec.cycle).isSome
     | .mhwait f => mhwaitReady p co f
     | .mma f => mmaCharge p f ≤ (getCore s p.core).budget
     | _ => true) &&
    pressFree p i &&
    (match p.waits with
     | some id => s.exec.score.any fun e => e.id == id && e.granted
     | none => true)
  | some _, none => false

/-- The order of R43 among the streams of a core, as a rank to be least: passed over for 256 cycles and then the cohort's age;
no MMA and the age; an MMA by its estimate and the age. A restored cohort keeps its age, the model's choice (log entry 94). -/
def pressRank (s : State) (p : PressCtx) : Nat × Nat × Nat :=
  if 256 ≤ p.passed then (0, p.cohort, 0)
  else
    match pressNext s p with
    | some (.mma _) => (2, p.est, p.cohort)
    | _ => (1, p.cohort, 0)

/-- Lexicographic order of ranks. -/
def rankLess (a b : Nat × Nat × Nat) : Bool :=
  a.1 < b.1 || (a.1 == b.1 && (a.2.1 < b.2.1 || (a.2.1 == b.2.1 && a.2.2 < b.2.2)))

/-- PRESS_ARBITRATION: the Press of a core chooses one issuable command among its streams (R43), at most one in a cycle; that stream
issues next. -/
def execPressArbitration (core : Nat) (s : State) : Host.Outcome State Fault Refusal :=
  let can := s.exec.presses.filter fun p => p.core == core && pressCan s p
  match can with
  | [] => .refused .eventNotEnabled
  | c :: cs =>
    let best := cs.foldl (fun b p => if rankLess (pressRank s p) (pressRank s b) then p else b) c
    let run : Bool := (findRun s core (5 + best.num)).isSome
    eventIf (!pressIssued s core)
      { (updSched s core (5 + best.num) fun u => { u with chosen := if run then none else some (best.cohort, best.num) }) with
        issuer := some (core, 5 + best.num) }

/-- A cycle ends for the streams of every core: one that could have issued, and was passed over, counts the cycle, and the others begin
anew (R43). -/
def pressCycle (s : State) : State :=
  s.onExec fun e =>
    { e with presses := e.presses.map fun p =>
        let issued := e.scheds.any fun u => u.core == p.core && u.unit == 5 + p.num && u.issued.isSome
        { p with passed := if !issued && pressCan s p then p.passed + 1 else 0 } }

end Sys2Proof.Machine
end

