-- ==== Sys2Proof/Machine/Schedule.lean ====
section
/-!
DEFINITION. What each unit issues next and what releases a waiting head: arbitration and promotion, run fetch, window
accesses, deadlock of a pair, the store unit, copies, hoop arrivals, watches and deadlines, and causes from the Press
(R30, R42, R44, R47, R53, R67 to R69, R118, R237, R294, R296, R298, R300).
-/

namespace Sys2Proof.Machine

/-! ### The paths of a unit -/

/-- The resident groups that a unit issues for, with their pairs. -/
def unitMembers (s : State) (core unit : Nat) : List (Group × Pair) :=
  s.exec.groups.filterMap fun g =>
    if g.core == core && !g.exited && (if unit = 4 then g.stream == .access else g.stream == .execute && g.part == unit) then
      match findPair s g.pair with
      | some p => if p.resident && (getCtx s g.ctx).st != .ending then some (g, p) else none
      | none => none
    else none

/-- Whether a unit is issuing a run of a path. -/
def pathBusy (s : State) (gid e : Nat) : Bool := s.exec.runs.any fun r => r.gid == gid && r.entry == e && r.unit ≤ 4

/-- The slots of the run at a path's PC; none when the run fails its checks. -/
def standing (s : State) (g : Group) (pr : Pair) (e : Nat) : Option (List (Dword × Instr)) :=
  match entryCause s g (g.path e) with
  | some _ => none
  | none =>
    match (fetchRun s g pr e (g.path e).pc).2 with
    | .ok slots => some slots
    | .trap .. => none

/-- The slot of a head that a path would issue. -/
def headSlot (g : Group) (pr : Pair) (e : Nat) (slots : List (Dword × Instr)) : Slot :=
  let pc := (g.path e).pc
  ⟨⟨g.core, if g.stream = .access then 4 else g.part, g.gid, e, pc, slots, 0, [none, none, none], [], none, none⟩, g, pr, g.path e, pc⟩

/-- Whether the condition of a waiting instruction at its head is met, or is still to be tried (R31). -/
def headOpen (s : State) (sl : Slot) : Instr → Bool
  | .waitc f => waitcReady sl f
  | .waitw _ => sl.p.matched.isSome || (sl.p.watch.isNone && !accessHeld s sl.g sl.p)
  | .sqget _ => sl.p.matched.isSome || (sl.p.watch.isNone && !accessHeld s sl.g sl.p)
  | .waitsig _ => sl.p.matched.isSome || sl.p.watch.isNone
  | .hwait f => hwaitReady s sl f
  | .cwait f => cwaitReady s sl (sl.uni32 0 f.a)
  | .gawait f => gawaitReady s sl f
  | .grow f =>
    let n := (sl.uni32 0 f.a).toNat
    sl.p.granted || (growNow s sl.g n).isSome || !(sl.p.grow.any fun x => x.1 == n)
  | .swait _ => match sl.p.deadline with
    | some d => d ≤ s.tick
    | none => true
  | _ => true

/-- Whether a path is ready (R42): its next head can issue under R31 and R34, or its boundary takes a trap. -/
def pathReady (s : State) (g : Group) (pr : Pair) (e : Nat) : Bool :=
  let p := g.path e
  let trap : Bool := g.pending.any fun x => x.1 == e
  (p.st == .ready || p.st == .waiting) && !p.stopped && !pathBusy s g.gid e &&
  (if trap && g.sup != some e then g.sup.isNone
   else
     match standing s g pr e with
     | none => true
     | some slots =>
       !hazardHolds s g slots &&
       (match slots with
        | (_, i) :: _ =>
          (match parts i with
           | some (M, m, b) => queuesReady pr M m b && !(popDelayed s g pr M m b && s.exec.cycle < p.popSince.getD s.exec.cycle + 4)
           | none => true) && headOpen s (headSlot g pr e slots) i
        | [] => true))

/-- The control queue whose emptiness alone holds an access path's head (R68). -/
def ctlHeld (s : State) (g : Group) (pr : Pair) (e : Nat) : Option Nat :=
  let p := g.path e
  if g.stream ≠ .access ∨ !(p.st == .ready || p.st == .waiting) ∨ p.stopped ∨ pathBusy s g.gid e ∨ g.pending.any (fun x => x.1 == e) then none
  else
    match standing s g pr e with
    | some ((pc, i) :: rest) =>
      (match parts i with
       | some (M, m, b) =>
         if hazardHolds s g ((pc, i) :: rest) then none
         else
           let empty := (srcPorts b (rolesOf M m b)).filter fun q => (pr.queue q).entries.isEmpty
           (match empty with
            | q :: _ =>
              let filled : Pair := { pr with queues := pr.queues.map fun x =>
                if x.kind = 2 ∧ x.entries.isEmpty then { x with entries := [⟨0, .ready, [], 0, 0, none, false, [], 0⟩] } else x }
              if empty.all (fun q => (pr.queue q).kind == 2) && queuesReady filled M m b then some q else none
            | [] => none)
       | none => none)
    | _ => none

/-! ### Arbitration (R42) -/

/-- The rank of a ready path, to be least: promoted paths in their order, then age, slot and entry. -/
def pathRank (g : Group) (e : Nat) : List Nat :=
  match (g.path e).promoted with
  | some n => [0, n, 0, 0]
  | none => [1, g.age, g.slot, e]

/-- Lexicographic order of ranks of one length. -/
def listLess : List Nat → List Nat → Bool
  | a :: as, b :: bs => a < b || (a == b && listLess as bs)
  | _, _ => false

/-- The live paths of a unit, with whether each is ready. -/
def unitPaths (s : State) (core unit : Nat) : List (Group × Nat × Bool) :=
  (unitMembers s core unit).flatMap fun x =>
    (List.range 16).filterMap fun e =>
      if (x.1.path e).st == .free then none else some (x.1, e, pathReady s x.1 x.2 e)

/-- Whether a path is due for promotion (R42). -/
def promotionDue (p : Path) : Bool := p.promoted.isNone && 64 ≤ p.passed && p.st != .free

/-- PATH_PROMOTION: a path that was ready at 64 consecutive boundaries without being chosen (R42). -/
def execPathPromotion (gid entry : Nat) (s : State) : Host.Outcome State Fault Refusal :=
  match findGroup s gid with
  | none => .refused .eventNotEnabled
  | some g =>
    let unit := if g.stream = .access then 4 else g.part
    let n := (schedOf s g.core unit).promotions
    eventIf (promotionDue (g.path entry))
      (updSched (updPath s gid entry fun p => { p with promoted := some n }) g.core unit fun u => { u with promotions := n + 1 })

/-- Whether a unit's next slot is a GCLAIM of a ring that a later unit in the order of R302 has claimed from in this cycle. -/
def claimLate (s : State) (core unit : Nat) : Bool :=
  match findRun s core unit with
  | none => false
  | some r =>
    match r.slots[r.idx]?, findGroup s r.gid with
    | some (_, Instr.gclaim f), some g =>
      s.exec.presses.any fun p => p.core == core && some p.cohort == (findPair s g.pair).bind (·.cohort) &&
        (p.rings.getD (ringOf f) Ring.zero).claimedLater s.exec.cycle unit
    | _, _ => false

/-- Whether the path that a unit has chosen can still start its run: its group is resident, and it stands at a boundary, not stopped. -/
def chosenStands (s : State) (core unit gid e : Nat) : Bool :=
  (unitMembers s core unit).any fun x =>
    x.1.gid == gid && ((x.1.path e).st == .ready || (x.1.path e).st == .waiting) && !(x.1.path e).stopped && !pathBusy s gid e

/-- Whether a unit may issue in this cycle: the Ladle has not taken its issue cycle (R44), and its core has not been sampled in it
(R454). -/
def unitMayIssue (s : State) (core unit : Nat) : Bool :=
  !(schedOf s core unit).taken && (getCore s core).sampledAt != some s.exec.cycle

/-- The choice that a unit has made and not fetched yet, while it stands. -/
def standingChoice (s : State) (core unit : Nat) : Bool :=
  match (schedOf s core unit).chosen with
  | some (gid, e) => chosenStands s core unit gid e
  | none => false

/-- PATH_ARBITRATION: a unit at a boundary chooses a ready path; a unit within a run, or with a choice that it has not fetched, goes on with
that (R29, R42). A claim that would stand behind a later unit's claim of the same cycle is left for the next one (R302). -/
def execPathArbitration (core unit : Nat) (s : State) : Host.Outcome State Fault Refusal :=
  if 4 < unit ∨ !unitMayIssue s core unit then .refused .eventNotEnabled
  else if (findRun s core unit).isNone && standingChoice s core unit then .next { s with issuer := some (core, unit) }
  else if (findRun s core unit).isSome then eventIf (!claimLate s core unit) { s with issuer := some (core, unit) }
  else
    let ps := unitPaths s core unit
    let ready := ps.filter fun x => x.2.2
    if ps.any fun x => promotionDue (x.1.path x.2.1) then .refused .eventNotEnabled
    else
      match ready with
      | [] => .refused .eventNotEnabled
      | c :: cs =>
        let best := cs.foldl (fun b x => if listLess (pathRank x.1 x.2.1) (pathRank b.1 b.2.1) then x else b) c
        let s := ps.foldl (fun s x =>
          updPath s x.1.gid x.2.1 fun p =>
            if x.1.gid == best.1.gid && x.2.1 == best.2.1 then { p with passed := 0, promoted := none }
            else if p.promoted.isSome then p
            else { p with passed := if x.2.2 then p.passed + 1 else 0 }) s
        let s := updSched s core unit fun u => { u with chosen := some (best.1.gid, best.2.1) }
        .next { s with issuer := some (core, unit) }

/-- The run of a unit's chosen path is fetched and checked (R30); a unit of a Press takes its stream's, of which one issues in a cycle
(R307). A choice that no longer stands is given up. -/
def fetchChosen (s : State) (core unit : Nat) : Option State :=
  if (findRun s core unit).isSome ∨ !unitMayIssue s core unit then none
  else
    match (schedOf s core unit).chosen with
    | none => none
    | some (gid, e) =>
      let t := updSched { s with issuer := none } core unit fun u => { u with chosen := none }
      if unit < 5 then some (if chosenStands s core unit gid e then startRun t core unit gid e else t)
      else if pressIssued s core then none
      else match findPress s core (unit - 5) with
        | some p => if p.st == .running || p.st == .waiting then some (startPressRun t core (unit - 5)) else none
        | none => none

/-- RUN_FETCH (R30). -/
def execRunFetch (core unit : Nat) (s : State) : Host.Outcome State Fault Refusal := event (fetchChosen s core unit)

/-! ### Window accesses (R44) -/

/-- The window accesses that wait on a core. -/
def windowWaits (s : State) (core : Nat) : List WindowAccess := s.exec.winAcc.filter fun w => w.core == core

/-- The partition of a window access. -/
def WindowAccess.part (s : State) (w : WindowAccess) : Nat := ((findPair s w.pair).map (·.part)).getD 0

/-- Whether a partition uses a bank in this cycle: what it has issued in it does, or the instruction that it has come to and may issue
in it (R44, R207). -/
def bankUsed (s : State) (core part bank : Nat) : Bool :=
  let u := schedOf s core part
  u.banks.testBit bank || (u.issued.isNone && !u.taken && match findRun s core part with
    | some r => ((r.slots[r.idx]?).map fun x => (instrBanks x.2).testBit bank).getD false
    | none => false)

/-- Whether a window access finds its bank used by the partition. -/
def WindowAccess.blocked (s : State) (w : WindowAccess) : Bool := bankUsed s w.core (w.part s) (w.queue % 4)

/-- LADLE_WINDOW_ACCESS: an access that finds its bank free (R44). -/
def execLadleWindowAccess (core k : Nat) (s : State) : Host.Outcome State Fault Refusal :=
  match (windowWaits s core)[k]? with
  | none => .refused .eventNotEnabled
  | some w => eventIf (!w.blocked s) (landWindow s w)

/-- A window access that takes its partition's next issue cycle, in which that issues nothing (R44). -/
def stealBank (s : State) (w : WindowAccess) : State :=
  let part := w.part s
  let t := updSched s w.core part fun u => { u with thefts := u.thefts + 1, taken := true }
  { landWindow t w with issuer := if s.issuer = some (w.core, part) then none else s.issuer }

/-- BANK_THEFT: an access that has waited four cycles, and finds its bank still used by the partition, takes the partition's next issue
cycle (R44). -/
def execBankTheft (core k : Nat) (s : State) : Host.Outcome State Fault Refusal :=
  match (windowWaits s core)[k]? with
  | none => .refused .eventNotEnabled
  | some w => eventIf (4 ≤ w.waited && w.blocked s) (stealBank s w)

/-- A cycle ends for the window accesses: one whose bank had no use is performed; one that has waited four cycles, and finds its bank
used in the fifth, is performed in the partition's next issue cycle (R44, R45). -/
def windowCycle (s : State) : State :=
  let s := s.exec.winAcc.foldl (fun s w =>
    if !(schedOf s w.core (w.part s)).banks.testBit (w.queue % 4) then landWindow s w
    else if 4 ≤ w.waited then stealBank s w
    else s) s
  s.onExec fun e => { e with winAcc := e.winAcc.map fun w => { w with waited := w.waited + 1 } }

/-! ### A pair blocked on its own queues (R47, R69) -/

/-- Whether a path stands blocked at its head on the window alone: one that waits for the load of a Filling entry waits on something else
(R47, R378). -/
def windowBlocked (s : State) (g : Group) (pr : Pair) (e : Nat) : Bool :=
  let p := g.path e
  (p.st == .ready || p.st == .waiting) && !p.stopped && !pathBusy s g.gid e && !(g.pending.any fun x => x.1 == e) &&
  match standing s g pr e with
  | some ((pc, i) :: rest) =>
    !hazardHolds s g ((pc, i) :: rest) &&
    (match parts i with
     | some (M, m, b) => !queuesReady pr M m b && !fillAwaited pr M m b
     | none => false)
  | _ => false

/-- The blocked paths of a twin; none when some live path is neither blocked nor parked, or none is blocked. -/
def twinBlocked (s : State) (g : Group) (pr : Pair) : Option (List Nat) :=
  let live := (List.range 16).filter fun e => (g.path e).st != .free
  let blocked := live.filter fun e => windowBlocked s g pr e
  if blocked != [] && live.all fun e => blocked.contains e || ((g.path e).st == .parked && !(g.path e).stopped) then some blocked
  else none

/-- A cycle ends for the idle counts of the pairs: with both twins resident the count is of cycles in which no entry was pushed, popped or
skipped (R47); with one twin gone, of those since the other has stood blocked besides (R69). -/
def idleCycle (s : State) : State :=
  let blocked (p : Pair) : Bool :=
    match s.exec.groups.filter fun g => g.pair == p.id && !g.exited with
    | [g] => (twinBlocked s g p).isSome
    | _ => true
  s.onExec fun e => { e with pairs := e.pairs.map fun p => { p with idle := if p.resident && blocked p then p.idle + 1 else 0 } }

/-- QDEAD: after 4,096 cycles without window activity every blocked path takes it at its head (R47, R69). -/
def execQdead (pair : Nat) (s : State) : Host.Outcome State Fault Refusal :=
  match findPair s pair with
  | none => .refused .eventNotEnabled
  | some p =>
    let twins := s.exec.groups.filter fun g => g.pair == pair && !g.exited
    let found := twins.map fun g => (g, twinBlocked s g p)
    if !p.resident || p.idle < 4096 || twins.isEmpty || found.any (fun x => x.2.isNone) then .refused .eventNotEnabled
    else
      .next (found.foldl (fun s x =>
        (x.2.getD []).foldl (fun s e =>
          let q := x.1.path e
          raiseAt (updPath s x.1.gid e fun p => { p with st := .ready }) x.1.gid e [⟨0x06, 0, q.pc, 0, q.exec, 0, 0, false⟩]) s) s)

/-! ### The store unit (R67, R280) -/

/-- STORE_UNIT_STORE: the n-th addresses meet the n-th data, and the three slots become Free: the store's requests go to the owners of its
remote lanes, and its bytes enter the Shared lines of the L1 (R84, R93, R112). Lanes refused at the STQ return their ADDRFAULT, which is
final. -/
def execStoreUnitStore (pair q : Nat) (s : State) : Host.Outcome State Fault Refusal :=
  match findPair s pair with
  | none => .refused .eventNotEnabled
  | some p =>
    match (p.queue q).addrs, (p.queue q).entries with
    | a :: addrs, e :: entries =>
      if (p.queue q).kind ≠ 1 ∨ e.st ≠ .ready then .refused .eventNotEnabled
      else
        let gid := ((findOp s a.op).map (·.gid)).getD 0
        let s := updQueue s pair q fun x => { x with addrs := addrs, entries := entries }
        let s := updOp s a.op fun o => { o with data := e.vals, dst := .none }
        let s := match findOp s a.op with
          | some o => pendStore (sendRequests s o (o.todo &&& o.remote)) p.core o
          | none => s
        let s := finishOp s a.op
        .next (if a.refused == 0 then s
               else raiseReturned s gid a.path ⟨0x08, 2, a.pc, lowestAddr a.refused a.addrs.get, a.refused, 0, 0, true⟩)
    | _, _ => .refused .eventNotEnabled

/-! ### Waiting heads (R237, R294, R296, R298) -/

/-- HOOP_ARRIVAL_COUNT: a HARRIVE whose earlier accesses are performed is counted, in its group's order (R121, R296); those of one cycle
in the order of the units (R304). -/
def execHoopArrivalCount (op : Nat) (s : State) : Host.Outcome State Fault Refusal :=
  match findOp s op with
  | none => .refused .eventNotEnabled
  | some o =>
    match o.kind, (findGroup s o.gid).bind fun g => (findPair s g.pair).bind (·.cohort) with
    | .harrive h, some co =>
      let earlier : Bool := (s.exec.ops.takeWhile fun x => x.id != op).any fun x => x.gid == o.gid && x.todo != 0 && (match x.kind with
        | .harrive _ => true
        | _ => false)
      let unit := match findGroup s o.gid with
        | some g => if g.stream = .access then 4 else g.part
        | none => 4
      let late : Bool := (findCohort s co).any fun c =>
        let last := c.hoopLast.getD h (0, 0)
        last.1 == s.exec.cycle && unit < last.2
      if o.todo == 0 || earlier || late || !o.orderMet s then
        .refused .eventNotEnabled
      else
        let (ph, s) := hoopArrive s co h unit
        .next (finishOp (updOp s op fun o => { o with todo := 0, done := 1, res := [BitVec.ofNat 64 ph] }) op)
    | _, _ => .refused .eventNotEnabled

/-- A waiting path released under a condition. -/
def releaseIf (s : State) (gid entry : Nat) (ok : Path → Bool) : Host.Outcome State Fault Refusal :=
  match findGroup s gid with
  | none => .refused .eventNotEnabled
  | some g =>
    eventIf ((g.path entry).st == .waiting && !(g.path entry).stopped && ok (g.path entry))
      (updPath s gid entry fun p => { p with st := .ready })

/-- WATCH_MATCH: a write has met the waiter's relation, and its head is released (R119, R294, R303). -/
def execWatchMatch (gid entry : Nat) (s : State) : Host.Outcome State Fault Refusal :=
  releaseIf (examine s) gid entry fun p => p.watch.isSome && p.matched.isSome

/-- SWAIT_DEADLINE: the timebase has reached a waiting SWAIT's deadline (R237). -/
def execSwaitDeadline (gid entry : Nat) (s : State) : Host.Outcome State Fault Refusal :=
  releaseIf s gid entry fun p => match p.deadline with
    | some d => d ≤ s.tick
    | none => false

/-- WAITSIG_POLL: the value of a waited signal is read (R298): here, or at its owner, whose answer is `remote`, or a refusal with the
code `fault`; over a pair that is down it is refused (R447). A refused read returns its cause at the waiting head. -/
def execWaitsigPoll (gid entry : Nat) (remote : Dword) (fault : Nat) (s : State) : Host.Outcome State Fault Refusal :=
  match findGroup s gid with
  | none => .refused .eventNotEnabled
  | some g =>
    let p := g.path entry
    match p.watch, p.matched with
    | some (.signal a rel v), none =>
      let here := vaLocal s a
      if p.stopped || accessHeld s g p || veiledOutside s g.ctx a.toNat 8 || (!here && !(fault == 0 || fault == 8 || fault == 9)) then
        .refused .eventNotEnabled
      else
        let read : Except Miss (State × Dword) :=
          if here then
            (match loadBytes s g.ctx (vaOffset a) 8 with
             | .ok (s, bs) => .ok (homeRead s g.ctx (vaOffset a / 128) g.core, BitVec.ofNat 64 (leValue bs))
             | .error e => .error e)
          else if pairDown s (vaOwner a) then .error ⟨8, 2 ^ 14⟩
          else if fault = 0 then .ok (s, remote)
          else .error ⟨fault, 2 ^ 14⟩
        (match read with
         | .error e =>
           let s := updPath s gid entry fun p => { p with watch := none, matched := none }
           .next (raiseReturned s gid entry ⟨e.code, 2, p.pc, a, 0, e.marks, 0, false⟩)
         | .ok (s, x) =>
           .next (if (Watch.signal a rel v).holds x then updPath s gid entry fun p => { p with matched := some x } else s))
    | _, _ => .refused .eventNotEnabled

/-! ### Causes from the Press (R53) -/

/-- The member of a cohort that takes a cause: the lowest whose execute group is resident on the core. -/
def pressTaker (s : State) (co : Cohort) (core : Nat) : Option Group :=
  let able := s.exec.groups.filter fun g =>
    g.stream == .execute && g.core == core && !g.exited && (match findPair s g.pair with
      | some p => p.cohort == some co.id && p.resident
      | none => false)
  let num (g : Group) : Nat := ((findPair s g.pair).map (·.member)).getD 0
  match able with
  | [] => none
  | a :: as => some (as.foldl (fun b g => if num g < num b then g else b) a)

/-- PRESS_CAUSE_DELIVERY (R53): the group's lowest live path takes the cause at its next boundary; with no such group the cause enters
the fault queue, and the stream ends as a Press orphan (R50). -/
def execPressCauseDelivery (core k : Nat) (s : State) : Host.Outcome State Fault Refusal :=
  match findPress s core k with
  | none => .refused .eventNotEnabled
  | some p =>
    match p.cause, findCohort s p.cohort with
    | some c, some co =>
      if p.st = .ended ∨ p.taken.isSome then .refused .eventNotEnabled
      else
        match pressTaker s co core with
        | none =>
          .next (pressOrphan (faultRecord s co.ctx
            { type := 0x03, code := c.code, marks := c.marks, pc := c.pc, addr := c.addr, d0 := co.number }) core k)
        | some g =>
          let e := ((List.range 16).find? fun e => (g.path e).st != .free).getD 0
          if g.pressCause.isSome then .refused .eventNotEnabled
          else
            let s := updPress s core k fun p => { p with taken := some g.gid }
            let s := updGroup s g.gid fun g => { g with pending := g.pending ++ [(e, [c])], pressCause := some (core, k) }
            .next (if pathBusy s g.gid e || (g.path e).stopped then s else atBoundary s g.gid e)
    | _, _ => .refused .eventNotEnabled

end Sys2Proof.Machine
end

