-- ==== Sys2Proof/Machine/Saves.lean ====
section
/-!
DEFINITION. Saving and restoring twin pairs and cohorts through the save region: the layouts of the areas, the checks at a
restore, and what placement takes on a core (R23 to R26, R40, R49, R54 to R56, R60, R70 to R74, R77, R105, R305, R413, R414).
-/

namespace Sys2Proof.Machine

/-! ### What a core has left (R9, R23, R25, R26, R54, R60) -/

/-- What one pair takes: vector and uniform granules of each twin, and window granules. -/
structure Demand where
  exe : Option (Nat × Nat)
  acc : Option (Nat × Nat)
  window : Nat
  deriving DecidableEq, Repr

/-- The granules of a count of registers. -/
def granulesOf (n per : Nat) : Nat := (n + per - 1) / per

/-- The demand of a kernel's pairs: an access slot, and granules for each twin that the kernel has (R20, R40, R55). -/
def Kernel.demand (k : Kernel) : Demand :=
  { exe := if k.executePc = 0 then none else some (granulesOf k.env 8, granulesOf k.ens 16)
    acc := if k.accessPc = 0 then some (0, 0) else some (granulesOf k.anv 8, granulesOf k.ans 16)
    window := k.window }

/-- The groups that hold resources on a core. -/
def coreGroups (s : State) (core : Nat) : List Group := s.exec.groups.filter fun g => g.core == core && pairHolds s g.pair

/-- The groups of a unit of a core: partition 0 to 3, or the Ladle as 4. -/
def unitHolds (s : State) (core unit : Nat) : List Group :=
  (coreGroups s core).filter fun g => if unit = 4 then g.stream == .access else g.stream == .execute && g.part == unit

/-- The window granules of a pair. -/
def pairWindow (s : State) (p : Pair) : Nat := ((findLaunch s p.launch).map fun l => l.kernel.window).getD 0

/-- The window granules taken on a core. -/
def windowTaken (s : State) (core : Nat) : Nat :=
  ((s.exec.pairs.filter fun p => p.core == core && pairHolds s p.id).map (pairWindow s)).sum

/-- Whether a unit has a slot and granules for a twin. While a group of the unit waits in GROW its vector granules go to the waiters
(R45, R46). -/
def unitFits (s : State) (core unit : Nat) (d : Nat × Nat) : Bool :=
  let gs := unitHolds s core unit
  gs.length < (if unit = 4 then 64 else 16) && (gs.map (heldGranules s)).sum + d.1 ≤ 128 && (gs.map (·.h)).sum + d.2 ≤ 256 &&
  (d.1 == 0 || gs.all fun g => g.exited || !g.growing)

/-- Whether a pair fits a core with a partition. -/
def pairFits (s : State) (core part : Nat) (d : Demand) : Bool :=
  (match d.exe with
   | some x => unitFits s core part x
   | none => true) &&
  (match d.acc with
   | some x => unitFits s core 4 x
   | none => true) &&
  windowTaken s core + d.window ≤ 64

/-- The first partition, from a given one upward, on which a pair fits. -/
def choosePart (s : State) (core part : Nat) (d : Demand) : Option Nat :=
  ((List.range 4).map fun i => (part + i) % 4).find? fun p => pairFits s core p d

/-- Whether a context may have work placed on a core. -/
def coreUsable (s : State) (c core : Nat) : Bool :=
  core < 160 && (getCore s core).owner == some c && !(getCore s core).fenced

/-- The lowest free base of an allocation on a core (R77). -/
def freeBase (s : State) (core size : Nat) : Option Nat :=
  ((List.range 64).map (8192 * ·)).find? fun b =>
    b + size ≤ 2 ^ 19 && s.exec.allocs.all fun a => a.core != core || a.away.isSome || !rangesMeet b size a.base a.size

/-- An allocation placed with undefined contents. -/
def placeAlloc (s : State) (core : Nat) (o : PlaceSrc) (size : Nat) : Option State :=
  if size = 0 then some s
  else
    (freeBase s core size).map fun b =>
      let (n, s) := fresh s
      s.onExec fun e => { e with allocs := e.allocs ++ [⟨core, o, b, size, n, [], none⟩] }

/-- The lowest free Press context of a core (R26). -/
def freePress (s : State) (core : Nat) : Option Nat := (List.range 4).find? fun n => (findPress s core n).isNone

/-- Whether a cohort's kernel declares a hoop. -/
def Kernel.usesHoops (k : Kernel) : Bool := k.hoops.any fun n => n != 0

/-- The hoop sets taken on a core (R9, R25). -/
def hoopSets (s : State) (core : Nat) : Nat :=
  (s.exec.cohorts.filter fun c => c.st != .saved && c.cores.head? == some core &&
    ((findLaunch s c.launch).map fun l => l.kernel.usesHoops).getD false).length

/-! ### New groups and pairs (R22, R56) -/

/-- The lowest free slot of a unit. -/
def freeSlot (s : State) (core unit : Nat) : Nat :=
  ((List.range 64).find? fun n => (unitHolds s core unit).all fun g => g.slot != n).getD 0

/-- A group at its entry (R22, R56). The access twin of a kernel without an access slice has nothing to run, and has exited
(log entry 95). -/
def newGroup (s : State) (gid pair : Nat) (stream : Stream) (l : Launch) (index core part : Nat) : Group :=
  let acc := stream == .access
  let d := if acc then l.kernel.demand.acc else l.kernel.demand.exe
  let g := (d.map (·.1)).getD 0
  let h := (d.map (·.2)).getD 0
  let none_ : Bool := (if acc then l.kernel.accessPc else l.kernel.executePc) == 0
  let entry : Path := if none_ then Path.empty else
    { Path.empty with st := .ready, pc := if acc then l.kernel.accessPc else l.kernel.executePc, lanes := BitVec.allOnes 64,
                      exec := BitVec.allOnes 64, entered := false }
  { gid := gid, pair := pair, stream := stream, ctx := l.ctx, launch := l.id, index := index, core := core,
    part := if acc then 4 else part, slot := freeSlot s core (if acc then 4 else part), age := s.tick, g := g, h := h,
    vregs := List.replicate (8 * g) Lanes.zero, sregs := (List.range (16 * h)).map fun i => l.args.getD i 0,
    preds := List.replicate 15 0, paths := entry :: List.replicate 15 Path.empty, oc := ⟨0, 0, 0, 0, 0⟩, sup := none,
    trap := TrapRegs.zero, pending := [], circles := [], holdAll := [], fenceAll := [], fenceStores := [], fenceLoads := [], taints := [],
    pressCause := none, poison := none, exited := none_ }

/-- A pair placed on a core and partition that have room for it (R23). -/
def placePair (s : State) (l : Launch) (index core part : Nat) (cohort : Option Nat) (member : Nat) : State × Nat :=
  let k := l.kernel
  let (id, s) := fresh s
  let (a, s) := fresh s
  let (b, s) := fresh s
  let acc := [newGroup s a id .access l index core part]
  let exe := if k.executePc = 0 then [] else [newGroup s b id .execute l index core part]
  let p : Pair :=
    { id := id, ctx := l.ctx, launch := l.id, index := index, core := core, part := part, cohort := cohort, member := member,
      queues := k.queues.map fun q => ⟨q.1, q.2.1, q.2.2, [], []⟩, lod := 0, poison := List.replicate 8 none, idle := 0,
      area := none, resident := true, refused := false }
  (s.onExec fun e => { e with pairs := e.pairs ++ [p], groups := e.groups ++ acc ++ exe }, id)

/-- A Press context at the placement of its cohort (R305). -/
def PressCtx.fresh (core num cohort : Nat) (pc : Dword) : PressCtx :=
  { core := core, num := num, cohort := cohort, st := .running, pc := pc, tiles := List.replicate 16 (List.replicate 4096 0),
    accs := List.replicate 8 (List.replicate 4096 0), item := 0, k := [0, 0, 0, 0], w := List.replicate 16 0, est := 0,
    toggles := List.replicate 16 0, rings := [Ring.zero, Ring.zero], cmds := [], waits := none, entered := false, passed := 0,
    cause := none, taken := none }

/-! ### The bytes of an area (R70, R71, R414) -/

/-- Zero over a range. -/
def zeroRange (s : State) (a n : Nat) : State := physWrite s a (List.replicate n 0)

/-- The code of a path's state. -/
def PathState.code : PathState → Nat
  | .free => 0
  | .ready => 1
  | .waiting => 2
  | .parked => 3

/-- The records of a path table, numbered from 0 in path order and each stack top first: record, and the number below or 63. -/
def stackRecords (paths : List Path) : List (PathRec × Nat) :=
  (paths.foldl (fun (acc : List (PathRec × Nat) × Nat) p =>
    let n := p.stack.length
    (acc.1 ++ ((List.range n).zip p.stack).map (fun x => (x.2, if x.1 + 1 = n then 63 else acc.2 + x.1 + 1)), acc.2 + n))
    ([], 0)).1

/-- The number of a path's top record. -/
def topIndex (paths : List Path) (e : Nat) : Nat :=
  if ((paths.getD e Path.empty).stack).isEmpty then 63 else ((paths.take e).map fun p => p.stack.length).sum

/-- The record word of R71. -/
def recordWord (r : PathRec) (below : Nat) : Nat :=
  let kind := match r.kind with
    | .split => 0
    | .detached => 1
    | .serial => 2
  kind * 2 ^ 16 + (if r.kind = .serial then r.phase else 0) * 2 ^ 14 + (r.partner.getD (if r.kind = .serial then 0 else 31)) * 2 ^ 9 + below

/-- A twin part (R71); its first 64 bytes hold the index, core, partition, granule counts and the first pending cause. -/
def partChunks (g : Group) (lod : Nat) : List (Nat × List Byte) :=
  let es := List.range 16
  let cause := match g.pending with
    | (_, c :: _) :: _ => (causeWord c 0 false).toNat
    | _ => 0
  [(0x0000, leBytes 4 g.index ++ leBytes 4 g.core ++ leBytes 4 g.part ++ leBytes 4 g.g ++ leBytes 4 g.h ++ leBytes 4 0 ++ le8 cause),
   (0x0040, le8 ((es.filter fun e => (g.path e).st != .free).map (2 ^ ·)).sum),
   (0x0048, g.preds.flatMap fun p => le8 p.toNat),
   (0x00C0, le8 g.oc.copy ++ le8 g.oc.fab ++ le8 g.oc.atom ++ le8 g.oc.mx ++ le8 g.oc.ctl),
   (0x00E8, le8 (if g.stream = .access then lod else 0)),
   (0x0100, es.flatMap fun e =>
     let p := g.path e
     le8 p.pc.toNat ++ le8 p.lanes.toNat ++ le8 p.exec.toNat ++
     le8 (p.st.code * 64 + topIndex g.paths e + (if p.stopped then 256 else 0))),
   (0x0300, (stackRecords g.paths).flatMap fun r =>
     le8 (recordWord r.1 r.2) ++ le8 r.1.recon.toNat ++ le8 r.1.saved.toNat ++ le8 r.1.saved2.toNat ++ le8 r.1.resume.toNat ++ le8 0),
   (0x0C00, g.sregs.flatMap fun w => leBytes 4 w.toNat),
   (0x0D00, g.vregs.flatMap fun v => (List.range 64).flatMap fun i => leBytes (if g.stream = .access then 8 else 4) (v.get i).toNat)]

/-- The window slots of a pair's entries and addresses. -/
def slotChunks (p : Pair) : List (Nat × List Byte) :=
  (List.range 16).flatMap fun q =>
    let x := p.queue q
    ((List.range x.entries.length).zip x.entries).map (fun e =>
      (0x1B000 + 256 * (slotBase p q + e.1), (List.range 64).flatMap fun i => leBytes 4 (e.2.vals.get i).toNat)) ++
    ((List.range x.addrs.length).zip x.addrs).map (fun a =>
      (0x1B000 + 256 * (slotBase p q + x.depth + 2 * a.1), (List.range 64).flatMap fun i => le8 (a.2.addrs.get i).toNat))

/-- The window descriptor: kind, depth, front and back slot indices and the count of addresses of each queue. -/
def descriptorBytes (p : Pair) : List Byte :=
  (List.range 16).flatMap fun q =>
    let x := p.queue q
    let b := slotBase p q
    leBytes 4 (if x.declared then x.kind else 0) ++ leBytes 4 (if x.declared then x.depth else 0) ++ leBytes 2 b ++
      leBytes 2 (b + x.entries.length) ++ leBytes 4 x.addrs.length

/-- The mask of slots Poisoned without a record (R66). -/
def recordless (p : Pair) : Nat :=
  ((List.range 16).flatMap fun q =>
    ((List.range (p.queue q).entries.length).zip (p.queue q).entries).filterMap fun e =>
      if e.2.st = .poisoned ∧ e.2.record.isNone then some (2 ^ (slotBase p q + e.1)) else none).sum

/-- The groups of a pair. -/
def pairGroups (s : State) (pair : Nat) : List Group := s.exec.groups.filter fun g => g.pair == pair

/-- The twin of a stream. -/
def twinOf (s : State) (pair : Nat) (st : Stream) : Option Group := (pairGroups s pair).find? fun g => g.stream == st

/-- A pair's area written (R70). -/
def writePairArea (s : State) (p : Pair) (base : Nat) : State :=
  let s := zeroRange s base (176 * 1024)
  let s := match twinOf s p.id .execute with
    | some g => writeChunks s base (partChunks g p.lod)
    | none => s
  let s := match twinOf s p.id .access with
    | some g => writeChunks s (base + 0x10000) (partChunks g p.lod)
    | none => s
  let s := writeChunks s base ([(0x19000, descriptorBytes p), (0x1A300, leBytes 32 (recordless p))] ++ slotChunks p)
  writeChunks s base ((List.range 8).flatMap (poisonChunk s p))

/-- The code of a ring slot's state. -/
def ringCode : RingSlot → Nat
  | .empty => 0
  | .committed _ => 1
  | .void => 2

/-- A Press context's area (R74, R414). -/
def pressChunks (p : PressCtx) : List (Nat × List Byte) :=
  let ring (k : Nat) : Ring := p.rings.getD k Ring.zero
  let item (x : RingSlot) : Nat := match x with
    | .committed w => w.toNat
    | _ => 0
  let states := (((ring 0).slots ++ (ring 1).slots).map ringCode).foldr (fun c n => c + 4 * n) 0
  [(0x00, le8 p.pc.toNat), (0x08, leBytes 4 p.item.toNat), (0x0C, leBytes 4 (p.est % 1024)),
   (0x10, p.k.flatMap fun w => leBytes 4 w.toNat), (0x20, p.w.flatMap fun w => leBytes 4 w.toNat),
   (0x60, leBytes 4 (ring 0).claim.toNat ++ leBytes 4 (ring 0).take.toNat),
   (0x68, leBytes 4 (ring 1).claim.toNat ++ leBytes 4 (ring 1).take.toNat), (0x70, le8 states),
   (0x80, (ring 0).slots.flatMap fun x => leBytes 4 (item x)), (0xC0, (ring 1).slots.flatMap fun x => leBytes 4 (item x)),
   (0x1000, p.tiles.flatten), (0x11000, p.accs.flatMap fun a => a.flatMap fun w => leBytes 4 w.toNat)]

/-- A cohort's unit on its `n`-th core (R413); a word of its index table without a member on the core holds all ones. -/
def writeUnit (s : State) (co : Cohort) (n core base : Nat) : State :=
  let s := zeroRange s base (712 * 1024)
  let s := match s.exec.presses.find? fun p => p.core == core && p.cohort == co.id with
    | some p => writeChunks s base (pressChunks p)
    | none => s
  let hoops := if n = 0 then
      [(0x31000, co.hoopDone.flatMap fun w => leBytes 4 w.toNat), (0x31040, co.hoopArr.flatMap fun a => leBytes 1 a)]
    else []
  let idx := (List.range 64).map fun m =>
    let here := (co.pairs[m]?).bind fun i => (findPair s i).bind fun p => if p.core = core then p.area else none
    (0x31100 + 4 * m, leBytes 4 (here.getD (2 ^ 32 - 1)))
  let image := match findAlloc s core (.cohort co.id) with
    | some a => [(0x32000, (List.range a.size).map a.read)]
    | none => []
  writeChunks s base (hoops ++ idx ++ image)

/-! ### Saving (R49, R73, R413) -/

/-- An operation whose result has not landed in its group's registers or window (R49). -/
def Op.landsLater (o : Op) : Bool := !o.dormant && !o.unpaired && o.dst != .none

/-- Whether a pair can be saved now: its twins stand at boundaries as users, no register write is pending, its own accesses to scratchpad
are performed, and no slot is Filling (R49, R73, R339). Copies and other operations go on (log entry 54). -/
def savable (s : State) (p : Pair) : Bool :=
  let gs := pairGroups s p.id
  let gids := gs.map (·.gid)
  p.resident && gs.all (fun g => g.sup.isNone) && !(s.exec.runs.any fun r => r.unit ≤ 4 && gids.contains r.gid) &&
  !(s.exec.ops.any fun o => gids.contains o.gid && !o.orphan && (o.landsLater || (o.kind.spad && o.pend != 0))) &&
  !(s.exec.winAcc.any fun w => w.pair == p.id) && p.queues.all fun q => q.entries.all fun e => e.st != .filling

/-- The place, no core of the device, where the scoreboard entries of a saved owner's copies stand. -/
def awayCore (o : PlaceSrc) (core : Nat) : Nat :=
  match o with
  | .pair i | .cohort i | .queue i => 160 * (i + 1) + core

/-- A pair saved into the lowest free area, or the one that it holds for its poison records; none without one. The scoreboard entries of
its copies leave the core, and a relative SWAIT forms its deadline anew (R237). -/
def saveArea (s : State) (p : Pair) : Option State :=
  let x := getCtx s p.ctx
  (p.area.orElse fun _ => freeIndex x.areas x.np).map fun k =>
    let s := writePairArea s p (areaBase x k)
    let s := updCtx s p.ctx fun x => { x with areas := if x.areas.contains k then x.areas else x.areas ++ [k] }
    let gids := (s.exec.groups.filter fun g => g.pair == p.id).map (·.gid)
    let copies := (s.exec.ops.filter fun o => gids.contains o.gid).map (·.id)
    let s := s.onExec fun e =>
      { e with
        score := e.score.map fun x => if copies.contains x.id then { x with core := awayCore p.owner x.core, granted := true } else x
        groups := e.groups.map fun g =>
          if g.pair == p.id then
            { g with paths := g.paths.map fun q => { q with watch := none, matched := none, cwaitSince := none, deadline := none, popSince := none } }
          else g }
    updPair s p.id fun p => { p with area := some k, resident := false }

/-- An owner's allocations taken from their cores, with the addresses of their images, 0 where the owner has none. -/
def sendAway (s : State) (o : PlaceSrc) (images : List (Nat × Nat)) : State :=
  s.onExec fun e => { e with allocs := e.allocs.map fun a =>
    if a.owner == o then { a with away := some (((images.find? fun x => x.1 == a.core).map (·.2)).getD 0) } else a }

/-- A pair outside any cohort saved, with its scratchpad kept beside the area, which has no room for it; counted (R434). -/
def savePair (s : State) (p : Pair) : Option State :=
  (saveArea s p).map fun s =>
    assayAdd (sendAway s (.pair p.id) []) p.ctx 54 1

/-- The Press streams of a cohort. -/
def cohortStreams (s : State) (co : Nat) : List PressCtx := s.exec.presses.filter fun p => p.cohort == co

/-- A stream stopped before the command that it would issue next, with its run and its waiting scoreboard entry given up (R49). A
breakpoint of the run stops it besides (R341). -/
def parkStream (s : State) (p : PressCtx) : State :=
  let run := findRun s p.core (5 + p.num)
  let pc := match run with
    | some r => ((r.slots[r.idx]?).map (·.1)).getD p.pc
    | none => p.pc
  let s := freeUnit s p.core (5 + p.num)
  let s := match run.bind (·.brk), findCohort s p.cohort with
    | some (n, at_), some co => pressBreak (updPress s p.core p.num fun p => { p with st := .debugStopped }) co p.core at_ n
    | _, _ => s
  let s := match p.waits with
    | some id => scoreLeave s id
    | none => s
  updPress s p.core p.num fun p => { p with pc := pc, waits := none, passed := 0 }

/-- Whether a cohort can be saved now. -/
def cohortSavable (s : State) (co : Cohort) : Bool :=
  (co.st == .resident || co.st == .awaitingPress) && co.pairs.all (fun i => match findPair s i with
    | some p => savable s p
    | none => false) &&
  (cohortStreams s co.id).all fun p => p.cmds.isEmpty && p.cause.isNone

/-- The pairs of a cohort saved one by one. -/
def saveMembers (s : State) : List Nat → Option State
  | [] => some s
  | i :: is =>
    match findPair s i with
    | none => none
    | some p =>
      match saveArea s p with
      | none => none
      | some s => saveMembers s is

/-- A unit taken on each core of a cohort. -/
def saveUnits (s : State) (co : Cohort) : Nat → List Nat → Option State
  | _, [] => some s
  | n, core :: cores =>
    let x := getCtx s co.ctx
    match freeIndex x.units x.nc with
    | none => none
    | some j =>
      let s := writeUnit s co n core (unitBase x j)
      let s := updCtx s co.ctx fun x => { x with units := x.units ++ [j] }
      saveUnits (updCohort s co.id fun c => { c with units := c.units ++ [j] }) co (n + 1) cores

/-- A cohort saved as a whole; none when an area or a unit is missing. -/
def saveCohort (s : State) (co : Cohort) : Option State :=
  let s := (cohortStreams s co.id).foldl parkStream s
  match saveMembers s co.pairs with
  | none => none
  | some s =>
    match saveUnits s { co with units := [] } 0 co.cores with
    | none => none
    | some s =>
      let mine := cohortStreams s co.id
      let x := getCtx s co.ctx
      let units := ((findCohort s co.id).getD co).units
      let s := sendAway (s.onExec fun e => { e with presses := e.presses.filter fun p => p.cohort != co.id }) (.cohort co.id)
        ((co.cores.zip units).map fun u => (u.1, unitBase x u.2 + 0x32000))
      some (assayAdd (updCohort s co.id fun c => { c with st := .saved, streams := mine }) co.ctx 54 1)

/-- The pair, or the cohort, that a pre-emption of a pair saves. -/
def saveTarget (s : State) (t : PlaceSrc) : Option State :=
  match t with
  | .pair i =>
    (match findPair s i with
     | some p => if p.cohort.isNone && savable s p then savePair s p else none
     | none => none)
  | .cohort i =>
    (match findCohort s i with
     | some co => if cohortSavable s co then saveCohort s co else none
     | none => none)
  | .queue _ => none

/-! ### The checks of a restore (R72) -/

/-- The first offset whose check fails. -/
def firstBad (cs : List (Nat × Bool)) : Option Nat := (cs.find? fun c => !c.2).map (·.1)

/-- Whether a range of memory is zero. -/
def zeroAt (s : State) (a n : Nat) : Bool := (List.range n).all fun i => physByte s (a + i) == 0

/-- The checks of a twin part (R71). -/
def partChecks (s : State) (base off : Nat) (exe : Bool) : List (Nat × Bool) :=
  let w (o : Nat) : Nat := physNat s (base + off + o) 8
  let top (n : Nat) : Bool := n < 48 || n == 63
  [(off + 0x40, w 0x40 / 2 ^ 16 == 0)] ++ (if exe then [(off + 0xE8, w 0xE8 == 0)] else []) ++
  [(off + 0xF0, zeroAt s (base + off + 0xF0) 16)] ++
  ((List.range 16).map fun e =>
    let x := w (0x118 + 32 * e)
    (off + 0x118 + 32 * e, x / 512 == 0 && top (x % 64) && (!x.testBit 8 || bitsNat x 6 2 == 2))) ++
  ((List.range 48).flatMap fun k =>
    let o := 0x300 + 48 * k
    let x := w o
    let kind := bitsNat x 16 2
    let phase := bitsNat x 14 2
    let partner := bitsNat x 9 5
    [(off + o, x / 2 ^ 18 == 0 && kind ≤ 2 && (if kind = 2 then phase == 1 || phase == 2 else phase == 0) &&
        (partner ≤ 15 || partner == 31) && bitsNat x 6 3 == 0 && top (x % 64)),
     (off + o + 40, w (o + 40) == 0)])

/-- The check of a load word (R70). -/
def loadWordOk (x : Nat) : Bool :=
  let kind := bitsNat x 20 4
  let fmt := bitsNat x 24 5
  let scope := bitsNat x 56 3
  let count := bitsNat x 42 7
  let pitch := bitsNat x 29 13
  let width := bitsNat x 16 3
  let cause := x % 256
  x / 2 ^ 59 == 0 && scope ≤ 5 && (!x.testBit 55 || scope != 0) && (!x.testBit 50 || kind == 2) && (!x.testBit 49 || kind == 3) &&
  (if kind = 1 then 1 ≤ count && count ≤ 64 && pitch != 0 else count == 0 && pitch == 0) &&
  (if kind = 1 then (grldBytes fmt).isSome && width == grldWidth fmt else if kind = 2 then 0x12 ≤ fmt && fmt ≤ 0x17 else fmt == 0) &&
  kind ≤ 3 && (!x.testBit 19 || kind == 0) && (if kind = 0 then width ≤ 2 else kind == 1 || width == 0) && (cause == 8 || cause == 9 || cause == 0)

/-- The checks of a pair area (R70). -/
def areaChecks (s : State) (base : Nat) : List (Nat × Bool) :=
  partChecks s base 0 true ++ partChecks s base 0x10000 false ++
  ((List.range 16).map fun q =>
    let o := 0x19000 + 16 * q
    let depth := physNat s (base + o + 4) 4
    let front := physNat s (base + o + 8) 2
    let back := physNat s (base + o + 10) 2
    (o, physNat s (base + o) 4 ≤ 2 && depth ≤ 64 && front ≤ back && back ≤ front + depth && back ≤ 256 &&
      physNat s (base + o + 12) 4 ≤ depth)) ++
  ((List.range 8).flatMap fun k =>
    let o := 0x19100 + 576 * k
    let word := physNat s (base + o + 0x210) 8
    let extra := physNat s (base + o + 0x218) 8
    let kind := bitsNat word 20 4
    [(o + 0x210, loadWordOk word), (o + 0x218, kind == 1 || (kind == 3 && extra < 2 ^ 12) || extra == 0), (o + 0x220, zeroAt s (base + o + 0x220) 32)]) ++
  [(0x1A320, zeroAt s (base + 0x1A320) 3296), (0x2B000, zeroAt s (base + 0x2B000) 4096)]

/-- The checks of a cohort unit of a context with `np` pair areas (R413, R414). -/
def unitChecks (s : State) (base np : Nat) (press : Bool) : List (Nat × Bool) :=
  let states := physNat s (base + 0x70) 8
  (if press then
    [(0x00, pcOk (BitVec.ofNat 64 (physNat s base 8))), (0x0C, physNat s (base + 0x0C) 4 / 1024 == 0),
     (0x70, (List.range 32).all fun i => bitsNat states (2 * i) 2 != 3)]
   else []) ++
  [(0x78, zeroAt s (base + 0x78) 8), (0x100, zeroAt s (base + 0x100) 0xF00), (0x31050, zeroAt s (base + 0x31050) 176)] ++
  ((List.range 64).map fun i =>
    let k := physNat s (base + 0x31100 + 4 * i) 4
    (0x31100 + 4 * i, k < np || k == 2 ^ 32 - 1)) ++
  [   (0x31200, zeroAt s (base + 0x31200) 3584)]

/-! ### Reading an area back -/

/-- A stack from a record number downward. A record whose partner is gone keeps no former entry, the model's choice (R71; log entry
110). -/
def readStack (s : State) (base : Nat) : Nat → Nat → List PathRec
  | 0, _ => []
  | n + 1, k =>
    if 48 ≤ k then []
    else
      let w (i : Nat) : Nat := physNat s (base + 0x300 + 48 * k + 8 * i) 8
      let x := w 0
      let kind : RecKind := if bitsNat x 16 2 = 0 then .split else if bitsNat x 16 2 = 1 then .detached else .serial
      let partner := bitsNat x 9 5
      ⟨kind, BitVec.ofNat 64 (w 1), if partner = 31 ∨ kind = .serial then none else some partner, partner, bitsNat x 14 2,
        BitVec.ofNat 64 (w 2), BitVec.ofNat 64 (w 3), BitVec.ofNat 64 (w 4)⟩ :: readStack s base n (x % 64)

/-- A twin's registers, predicates, path table and stacks from its part; its counters go on as they are (R49). -/
def readPart (s : State) (g : Group) (base : Nat) : Group :=
  let bytes := if g.stream = .access then 8 else 4
  { g with
    preds := (List.range 15).map fun i => BitVec.ofNat 64 (physNat s (base + 0x48 + 8 * i) 8)
    sregs := (List.range g.sregs.length).map fun i => BitVec.ofNat 32 (physNat s (base + 0xC00 + 4 * i) 4)
    vregs := (List.range g.vregs.length).map fun r => Lanes.build fun i =>
      BitVec.ofNat 64 (physNat s (base + 0xD00 + 64 * bytes * r + bytes * i) bytes)
    paths := (List.range 16).map fun e =>
      let w (i : Nat) : Nat := physNat s (base + 0x100 + 32 * e + 8 * i) 8
      let x := w 3
      { g.path e with
        pc := BitVec.ofNat 64 (w 0), lanes := BitVec.ofNat 64 (w 1), exec := BitVec.ofNat 64 (w 2),
        st := (match bitsNat x 6 2 with
          | 0 => .free
          | 1 => .ready
          | 2 => .waiting
          | _ => .parked),
        stopped := x.testBit 8, stack := readStack s base 48 (x % 64) } }

/-- The window's data from its slots. -/
def readQueues (s : State) (p : Pair) (base : Nat) : List Queue :=
  ((List.range p.queues.length).zip p.queues).map fun q =>
    { q.2 with
      entries := ((List.range q.2.entries.length).zip q.2.entries).map fun e =>
        { e.2 with vals := Lanes.build fun i => BitVec.ofNat 64 (physNat s (base + 0x1B000 + 256 * (slotBase p q.1 + e.1) + 4 * i) 4) }
      addrs := ((List.range q.2.addrs.length).zip q.2.addrs).map fun a =>
        { a.2 with addrs := Lanes.build fun i =>
            BitVec.ofNat 64 (physNat s (base + 0x1B000 + 256 * (slotBase p q.1 + q.2.depth + 2 * a.1) + 8 * i) 8) } }

/-- The lanes and addresses of a poison record read back. -/
def readPoison (s : State) (p : Pair) (base : Nat) : State :=
  (List.range 8).foldl (fun s k =>
    match p.poison.getD k none with
    | none => s
    | some r =>
      let o := base + 0x19100 + 576 * k
      let v := Lanes.build fun i => BitVec.ofNat 64 (physNat s (o + 8 * i) 8)
      let s := updOp s r.op fun op =>
        match op.kind with
        | .grld f pi n _ =>
          let b : Dword := BitVec.ofNat 64 (physNat s (o + 0x218) 8)
          { op with kind := .grld f pi n v, addrs := Lanes.build fun i => b + BitVec.ofNat 64 (i * (grldBytes f).getD 4) }
        | _ => { op with addrs := v }
      updPair s p.id fun p => { p with poison := p.poison.set k (some { r with lanes := BitVec.ofNat 64 (physNat s (o + 0x200) 8) }) }) s

/-- The granules that come with a pre-empted group's return (R46). -/
def Group.grantedGranules (g : Group) : Nat :=
  (g.paths.map fun p => if p.granted then (p.grow.map (·.1)).getD 0 else 0).sum

/-- What a saved pair takes when it returns: its granules, and for a group pre-empted under R46 those that it asked for too. -/
def pairDemand (s : State) (p : Pair) : Demand :=
  let live : Bool := (pairGroups s p.id).any fun g => !g.exited
  let need (st : Stream) : Option (Nat × Nat) :=
    match twinOf s p.id st with
    | some g => if live then some (g.g + g.grantedGranules, g.h) else none
    | none => none
  ⟨need .execute, need .access, if live then pairWindow s p else 0⟩

/-- Whether every earlier direct access of a pair's groups has been performed, waits for its trap or is a store without its data, which
the restored group itself lets go on (R105; log entry 54). -/
def accessesDone (s : State) (pair : Nat) : Bool :=
  (pairGroups s pair).all fun g => (directOps s g.gid).all fun o => o.todo == 0 || o.unpaired

/-- The copies of a restored pair reach the scoreboard of its core anew, in issue order (R120). -/
def restoreCopies (s : State) (pair : Nat) : State :=
  match findPair s pair with
  | none => s
  | some p =>
    let gids := (pairGroups s pair).map (·.gid)
    let mine := s.exec.ops.filter fun o => gids.contains o.gid && o.pend != 0
    (mine.filter fun o => s.exec.score.any fun x => x.id == o.id).foldl (fun s o =>
      let s := scoreLeave s o.id
      match o.kind with
      | .copy d => scoreEnter s p.core o.id (copyRange s p.core p.owner d) (d.kind != 1)
      | _ => s) s

/-- A copy whose own core's cluster addresses follow its group to another place `k` in a cluster (R82). -/
def CopyDesc.moved (d : CopyDesc) (old new : Nat) : CopyDesc :=
  let at_ (a : Nat) : Nat := if bitsNat a 19 2 = old % 4 then a % 2 ^ 19 + (new % 4) * 2 ^ 19 else a
  { d with flag := d.flag.map at_, g := if d.kind = 2 then BitVec.ofNat 64 (at_ d.g.toNat) else d.g, p := if d.kind = 2 then at_ d.p else d.p }

/-- A pair put on a core from its area, which becomes free unless it holds poison records. Its count of cycles without progress starts
anew, the model's choice (R47; log entry 107). -/
def restorePair (s : State) (p : Pair) (k core part : Nat) : State :=
  let base := areaBase (getCtx s p.ctx) k
  let s := readPoison s p base
  let read (g : Group) : Group :=
    let acc : Bool := g.stream == .access
    let g := if g.exited then g else readPart s g (if acc then base + 0x10000 else base)
    { g with core := core, part := if acc then 4 else part, slot := freeSlot s core (if acc then 4 else part), age := s.tick }
  let lod := physNat s (base + 0x100E8) 8
  let qs := readQueues s p base
  let grown := (pairGroups s p.id).map fun g => (g.gid, g.grantedGranules)
  let s := s.onExec fun e =>
    { e with groups := e.groups.map fun g => if g.pair == p.id then read g else g
             ops := e.ops.map fun o => match o.kind with
               | .copy d => if grown.any fun x => x.1 == o.gid then { o with kind := .copy (d.moved p.core core) } else o
               | _ => o }
  let keep : Bool := p.poison.any (·.isSome)
  let s := updPair s p.id fun p =>
    { p with core := core, part := part, area := if keep then some k else none, resident := true, queues := qs, lod := lod, idle := 0 }
  let s := updCtx s p.ctx fun x => { x with areas := if keep then x.areas else x.areas.filter fun a => a != k }
  grown.foldl (fun s x => growGroup s x.1 x.2) s

/-- A refusal record of type 0x04 (R72, R421). -/
def refusalRecord (s : State) (c k off : Nat) : State := faultRecord s c { type := 0x04, d0 := k, d1 := off }

/-- A pair's scratchpad, kept beside its area, placed on its new core. -/
def returnSpad (s : State) (p : Pair) (core : Nat) : Option State :=
  match findAlloc s p.core (.pair p.id) with
  | none => some s
  | some a =>
    (freeBase s core a.size).map fun b =>
      let back (a : Alloc) : Alloc := if a.owner == .pair p.id then { a with core := core, base := b, away := none } else a
      restoreCopies (s.onExec fun e => { e with allocs := e.allocs.map back }) p.id

/-- A Press context from its unit; the toggle counts are recomputed (R305). -/
def readStream (s : State) (p : PressCtx) (base core num : Nat) : PressCtx :=
  let n4 (o : Nat) : Word := BitVec.ofNat 32 (physNat s (base + o) 4)
  let states := physNat s (base + 0x70) 8
  let slot (k i : Nat) : RingSlot :=
    match bitsNat states (2 * (16 * k + i)) 2 with
    | 0 => .empty
    | 1 => .committed (n4 (0x80 + 64 * k + 4 * i))
    | _ => .void
  let tiles := (List.range 16).map fun n => physBytes s (base + 0x1000 + 0x1000 * n) 4096
  { p with
    core := core, num := num, pc := BitVec.ofNat 64 (physNat s base 8), item := n4 0x08, est := (n4 0x0C).toNat % 1024,
    k := (List.range 4).map fun i => n4 (0x10 + 4 * i), w := (List.range 16).map fun i => n4 (0x20 + 4 * i),
    rings := (List.range 2).map fun k => ⟨n4 (0x60 + 8 * k), n4 (0x64 + 8 * k), (List.range 16).map (slot k), (0, 0), List.replicate 16 0⟩,
    tiles := tiles, toggles := tiles.map toggleCount,
    accs := (List.range 8).map fun m => (List.range 4096).map fun i => n4 (0x11000 + 0x4000 * m + 4 * i) }

end Sys2Proof.Machine
end

