-- ==== Sys2Proof/Machine/Placement.lean ====
section
/-!
DEFINITION. The distributor: placement, migration, pre-emption and retirement of pairs and cohorts (R21 to R26, R40, R41,
R46, R48 to R50, R72, R77, R105, R405, R406, R412).
-/

namespace Sys2Proof.Machine

/-! ### What a launch places next (R21, R24, R25) -/

/-- The units of a launch: cohorts, or pairs outside any cohort. -/
def Launch.units (l : Launch) : Nat := if l.kernel.cohort = 0 then l.n else l.n / l.kernel.cohort

/-- The cores of a cohort of size `n` that is placed at a core: that core, or its cluster (R24). -/
def cohortCores (n core : Nat) : List Nat := if n ≤ 16 then [core] else (List.range 4).map (core / 4 * 4 + ·)

/-- The core of member `m` (R25). -/
def memberCore (n core m : Nat) : Nat := if n ≤ 16 then core else core / 4 * 4 + 4 * m / n

/-- The members of a cohort placed one by one; none when one of them does not fit. -/
def placeMembers (s : State) (l : Launch) (j core part cohort : Nat) : List Nat → Option (State × List Nat)
  | [] => some (s, [])
  | m :: ms =>
    let k := memberCore l.kernel.cohort core m
    match choosePart s k (part + m) l.kernel.demand with
    | none => none
    | some p =>
      let (s, id) := placePair s l (l.kernel.cohort * j + m) k p (some cohort) m
      (placeMembers s l j core part cohort ms).map fun x => (x.1, id :: x.2)

/-- A Press context and an allocation on each core of a cohort. -/
def placeParts (s : State) (l : Launch) (cohort : Nat) : List Nat → Option State
  | [] => some s
  | k :: ks =>
    match placeAlloc s k (.cohort cohort) (8192 * l.kernel.scratch) with
    | none => none
    | some s =>
      if l.kernel.pressPc = 0 then placeParts s l cohort ks
      else
        match freePress s k with
        | none => none
        | some n => placeParts (s.onExec fun e => { e with presses := e.presses ++ [PressCtx.fresh k n cohort l.kernel.pressPc] }) l cohort ks

/-- Cohort `j` of a launch placed as a whole (R25). -/
def placeCohort (s : State) (l : Launch) (j core part : Nat) : Option State :=
  let cores := cohortCores l.kernel.cohort core
  let (id, s) := fresh s
  if !(cores.all (coreUsable s l.ctx)) || (l.kernel.usesHoops && 16 ≤ hoopSets s (cores.headD 0)) then none
  else
    match placeMembers s l j core part id (List.range l.kernel.cohort) with
    | none => none
    | some (s, pairs) =>
      (placeParts s l id cores).map fun s =>
        let co : Cohort :=
          { id := id, ctx := l.ctx, launch := l.id, number := j, size := l.kernel.cohort, cores := cores, pairs := pairs,
            st := .resident, hoopDone := List.replicate 16 0, hoopArr := List.replicate 16 0,
            hoopLast := List.replicate 16 (0, 0), units := [], refused := false,
            streams := [] }
        s.onExec fun e => { e with cohorts := e.cohorts ++ [co] }

/-- The next unit of a launch placed on a core, from a partition upward. -/
def placeUnit (s : State) (l : Launch) (core part : Nat) : Option State :=
  if l.kernel.cohort ≠ 0 then placeCohort s l l.placed core part
  else if !coreUsable s l.ctx core then none
  else
    match choosePart s core part l.kernel.demand with
    | none => none
    | some p =>
      let (s, id) := placePair s l l.placed core p none 0
      placeAlloc s core (.pair id) (8192 * l.kernel.scratch)

/-! ### The head launches (R40, R404, R405) -/

/-- The launch at the head of a queue whose dependences hold and that is not wholly placed. -/
def headLaunch (s : State) (q : Nat) : Option Launch :=
  match ((s.host.queues.getD q HwQueue.zero).current).bind (findLaunch s) with
  | some l => if l.met.isSome && !l.barrier && l.placed < l.units then some l else none
  | none => none

/-- Whether saved groups of a launch are to be placed before its unplaced ones (R46, R411). -/
def hasSaved (s : State) (launch : Nat) : Bool :=
  s.exec.pairs.any (fun p => p.launch == launch && !p.resident && p.cohort.isNone && !p.refused) ||
  s.exec.cohorts.any fun c => c.launch == launch && c.st == .saved && !c.refused

/-- Whether a head could be placed on some core of its context now. -/
def placeable (s : State) (l : Launch) : Bool :=
  (getCtx s l.ctx).st == .live && !hasSaved s l.id && (List.range 160).any fun k =>
    (getCore s k).owner == some l.ctx && (placeUnit s l k 0).isSome

/-- Whether a head has waited 1 ms since its last dependence held (R405). -/
def Launch.late (s : State) (l : Launch) : Bool := l.starved || l.met.any fun t => t + 10 ^ 6 ≤ s.tick

/-- Whether another queue's head of the same context goes first (R405): one that could be placed, of higher priority or of equal priority
and earlier in the rotation; or one of equal or higher priority that has waited 1 ms. Of two such heads of equal priority the one whose
dependences held first goes first, the model's choice (log entry 101). -/
def outranked (s : State) (q : Nat) (l : Launch) : Bool :=
  let prio (k : Nat) : Nat := (s.host.queues.getD k HwQueue.zero).prio
  let place (k : Nat) : Nat := (k + 64 - s.host.turn.getD (prio q) 0 % 64) % 64
  let since (x : Launch) (k : Nat) : Nat := 64 * x.met.getD 0 + k
  (List.range 64).any fun k =>
    k != q && match headLaunch s k with
      | some h => h.ctx == l.ctx &&
          ((h.late s && (prio q < prio k || (prio q == prio k && !(l.late s && since l q < since h k)))) ||
           (placeable s h && (prio q < prio k || (prio q == prio k && !l.late s && place k < place q))))
      | none => false

/-- The next unit of a queue's head launch. -/
def placeHead (s : State) (q core part : Nat) : Option State :=
  match headLaunch s q with
  | none => none
  | some l =>
    if (getCtx s l.ctx).st ≠ .live ∨ hasSaved s l.id ∨ outranked s q l then none
    else
      (placeUnit s l core part).map fun s =>
        let s := updLaunch s l.id fun l => { l with placed := l.placed + 1 }
        let s := s.onHost fun h => { h with turn := h.turn.set (s.host.queues.getD q HwQueue.zero).prio ((q + 1) % 64) }
        if l.placed + 1 = l.units then
          s.onHost fun h => { h with queues := h.queues.modify q fun x => { x with current := none } }
        else s

/-! ### Restoring (R49, R72, R105, R413) -/

/-- Whether a saved pair's scratchpad may come back on a core: at the same place in its cluster, so that the cluster addresses which its
groups have formed still name it (R82, R363; log entry 54). -/
def spadReturns (s : State) (p : Pair) (core : Nat) : Bool :=
  (findAlloc s p.core (.pair p.id)).isNone || p.core % 4 == core % 4

/-- A saved pair put on a core, or its area refused. -/
def placeSavedPair (s : State) (p : Pair) (core part : Nat) : Option State :=
  match p.area with
  | none => none
  | some k =>
    if p.resident || p.refused || p.cohort.isSome || (getCtx s p.ctx).st != .live || !coreUsable s p.ctx core ||
       !accessesDone s p.id || !spadReturns s p core then none
    else
      match firstBad (areaChecks s (areaBase (getCtx s p.ctx) k)) with
      | some off => some (updPair (refusalRecord s p.ctx k off) p.id fun p => { p with refused := true })
      | none =>
        match choosePart s core part (pairDemand s p) with
        | none => none
        | some n => returnSpad (restorePair s p k core n) p core

/-- The first bad field of a saved cohort: the index of its unit or pair area, and the offset. -/
def cohortBad (s : State) (co : Cohort) (press : Bool) : Option (Nat × Nat) :=
  let x := getCtx s co.ctx
  match co.units.findSome? fun j => (firstBad (unitChecks s (unitBase x j) x.np press)).map fun o => (j, o) with
  | some b => some b
  | none =>
    co.pairs.findSome? fun i =>
      ((findPair s i).bind (·.area)).bind fun k => (firstBad (areaChecks s (areaBase x k))).map fun o => (k, o)

/-- The members of a saved cohort restored one by one. -/
def restoreMembers (s : State) (co : Cohort) (core part : Nat) : List Nat → Option State
  | [] => some s
  | i :: is =>
    match findPair s i with
    | none => none
    | some p =>
      let k := memberCore co.size core p.member
      match p.area, choosePart s k (part + p.member) (pairDemand s p) with
      | some a, some n => restoreMembers (restorePair s p a k n) co core part is
      | _, _ => none

/-- The scratchpad image and the Press stream of each unit put on its new core. -/
def restoreParts (s : State) (co : Cohort) (scratch : Nat) : List (Nat × Nat × Nat) → Option State
  | [] => some s
  | (old, core, j) :: rest =>
    let base := unitBase (getCtx s co.ctx) j
    match placeAlloc s core (.cohort co.id) scratch with
    | none => none
    | some s =>
      let image := physBytes s (base + 0x32000) scratch
      let s := s.onExec fun e =>
        { e with allocs := e.allocs.map fun a =>
            if a.core == core && a.owner == .cohort co.id then { a with cells := (List.range scratch).zip image } else a }
      match co.streams.find? fun p => p.core == old with
      | none => restoreParts s co scratch rest
      | some p =>
        match freePress s core with
        | none => none
        | some n => restoreParts (s.onExec fun e => { e with presses := e.presses ++ [readStream s p base core n] }) co scratch rest

/-- A saved cohort placed as a whole, or refused (R49, R72). -/
def placeSavedCohort (s : State) (co : Cohort) (core part : Nat) : Option State :=
  let cores := cohortCores co.size core
  let l := findLaunch s co.launch
  let scratch := 8192 * (l.map fun l => l.kernel.scratch).getD 0
  let hoops : Bool := (l.map fun l => l.kernel.usesHoops).getD false
  if co.st != .saved || co.refused || (getCtx s co.ctx).st != .live || !(cores.all (coreUsable s co.ctx)) ||
     !(co.pairs.all (accessesDone s)) || (hoops && 16 ≤ hoopSets s (cores.headD 0)) then none
  else
    match cohortBad s co (!co.streams.isEmpty) with
    | some (k, off) => some (updCohort (refusalRecord s co.ctx k off) co.id fun c => { c with refused := true })
    | none =>
      match restoreMembers s co core part co.pairs with
      | none => none
      | some s =>
        let s := s.onExec fun e => { e with allocs := e.allocs.filter fun a => a.owner != .cohort co.id }
        (restoreParts s co scratch ((co.cores.zip cores).zip co.units |>.map fun x => (x.1.1, x.1.2, x.2))).map fun s =>
          let base := unitBase (getCtx s co.ctx) (co.units.headD 0)
          let done := (List.range 16).map fun h => BitVec.ofNat 32 (physNat s (base + 0x31000 + 4 * h) 4)
          let arr := (List.range 16).map fun h => physNat s (base + 0x31040 + h) 1
          let s := co.pairs.foldl restoreCopies s
          let s := updCohort s co.id fun c =>
            { c with st := .resident, cores := cores, units := [], streams := [], hoopDone := done, hoopArr := arr }
          updCtx s co.ctx fun x => { x with units := x.units.filter fun j => !co.units.contains j }

/-- PLACEMENT: the next group pair or cohort of a queue's head launch, or a saved pair or cohort, is placed (R40). -/
def execPlacement (src : PlaceSrc) (core part : Nat) (s : State) : Host.Outcome State Fault Refusal :=
  if 160 ≤ core ∨ 4 ≤ part then .refused .eventNotEnabled
  else
    match src with
    | .queue q => event (placeHead s q core part)
    | .pair i => event ((findPair s i).bind fun p => placeSavedPair s p core part)
    | .cohort i => event ((findCohort s i).bind fun c => placeSavedCohort s c core part)

/-! ### Migration (R41) -/

/-- Whether a cohort of a context waits for slots. -/
def cohortWaits (s : State) (c : Nat) : Bool :=
  (List.range 64).any (fun q => match headLaunch s q with
    | some l => l.ctx == c && l.kernel.cohort != 0
    | none => false) ||
  s.exec.cohorts.any fun co => co.ctx == c && co.st == .saved && !co.refused

/-- Whether a pair may be migrated. -/
def migratable (s : State) (p : Pair) : Bool :=
  p.cohort.isNone && (findAlloc s p.core (.pair p.id)).isNone && savable s p &&
  (pairGroups s p.id).all fun g =>
    g.oc == ⟨0, 0, 0, 0, 0⟩ && g.paths.all fun q => q.watch.isNone && !q.stopped

/-- MIGRATION: the pair moves through its save area to another core of its context (R41). -/
def execMigration (pair core part : Nat) (s : State) : Host.Outcome State Fault Refusal :=
  match findPair s pair with
  | none => .refused .eventNotEnabled
  | some p =>
    if p.core = core ∨ 160 ≤ core ∨ 4 ≤ part ∨ !migratable s p ∨ !cohortWaits s p.ctx ∨ !accessesDone s pair then .refused .eventNotEnabled
    else event ((savePair s p).bind fun s => (findPair s pair).bind fun p => placeSavedPair s p core part)

/-! ### Pre-emption (R46, R48, R49) -/

/-- What a pre-emption of a pair saves: its cohort as a whole, or itself. -/
def Pair.unit (p : Pair) : PlaceSrc :=
  match p.cohort with
  | some c => .cohort c
  | none => .pair p.id

/-- The pairs that a target holds. -/
def targetPairs (s : State) (t : PlaceSrc) : List Nat :=
  match t with
  | .pair i => [i]
  | .cohort i => ((findCohort s i).map (·.pairs)).getD []
  | .queue _ => []

/-- Whether a debug-stopped path, or a debug-stopped Press stream of the cohort, keeps a target resident (R341, R456). -/
def heldByDebug (s : State) (t : PlaceSrc) : Bool :=
  (targetPairs s t).any (fun i => (pairGroups s i).any fun g => g.paths.any (·.stopped)) ||
  match t with
  | .cohort i => (cohortStreams s i).any fun p => p.st == .debugStopped
  | _ => false

/-- The path of a group whose GROW its pre-emption grants: the one that has waited longest, the lowest entry first (log entry 99). -/
def Group.grantPath (g : Group) : Nat :=
  let since (e : Nat) : Option Nat := (g.path e).grow.map (·.2)
  ((List.range 16).foldl (fun (b : Option (Nat × Nat)) e =>
    match since e, b with
    | some t, some (u, _) => if t < u then some (t, e) else b
    | some t, none => some (t, e)
    | none, _ => b) none).elim 0 (·.2)

/-- The groups of a unit that have not exited; none where one of them can be granted its granules now, or does not wait in GROW (R46). -/
def stuckInGrow (s : State) (core unit : Nat) : List Group :=
  let gs := (unitHolds s core unit).filter fun g => !g.exited
  let canGrow (g : Group) : Bool := g.paths.any fun p => p.grow.any fun n => p.granted || (growNow s g n.1).isSome
  if gs.all fun g => g.growing && !canGrow g then gs else []

/-- GROW_PREEMPTION: every resident group of a unit waits in GROW, and the youngest is pre-empted, with a record of type 0x0D
(R46, R448). -/
def execGrowPreemption (core unit : Nat) (s : State) : Host.Outcome State Fault Refusal :=
  match stuckInGrow s core unit with
  | [] => .refused .eventNotEnabled
  | g :: gs =>
    if 4 < unit then .refused .eventNotEnabled
    else
      let y := gs.foldl (fun b x => if b.age < x.age ∨ (b.age = x.age ∧ b.slot < x.slot) then x else b) g
      match findPair s y.pair with
      | none => .refused .eventNotEnabled
      | some p =>
        if heldByDebug s p.unit then .refused .eventNotEnabled
        else
          let freed := heldGranules s y
          event ((saveTarget (updPath s y.gid y.grantPath fun p => { p with granted := true }) p.unit).map fun s =>
            faultRecord s y.ctx { type := 0x0D, group := some (y, 0), d0 := unit, d1 := freed })

/-- The circles on which paths of a pair have been blocked in CWAIT for more than 100 µs (R48). A group of several paths counts as blocked
when one of them does, the model's choice (log entry 100). -/
def longCwait (s : State) (pair : Nat) : List (Nat × Word) :=
  (pairGroups s pair).flatMap fun g => g.paths.filterMap fun q =>
    match q.cwaitSince with
    | some (t, key) => if q.st == .waiting && t + 100000 < s.tick && !circleOpen s g key then some (g.ctx, key) else none
    | none => none

/-- Whether a saved pair's area would be restored and not refused (R72). -/
def pairGood (s : State) (p : Pair) : Bool := p.area.any fun k => (firstBad (areaChecks s (areaBase (getCtx s p.ctx) k))).isNone

/-- CWAIT_PREEMPTION: a group blocked in CWAIT for more than 100 µs gives its place to a member of its circle that waits for
placement (R48). -/
def execCwaitPreemption (pair : Nat) (s : State) : Host.Outcome State Fault Refusal :=
  match findPair s pair with
  | none => .refused .eventNotEnabled
  | some p =>
    let keys := longCwait s pair
    let waiters := s.exec.groups.filter fun g =>
      !g.exited && !(((findPair s g.pair).map (·.resident)).getD true) && g.circles.any fun k => keys.contains (g.ctx, k.1)
    if heldByDebug s p.unit then .refused .eventNotEnabled
    else
      match saveTarget s p.unit with
      | none => .refused .eventNotEnabled
      | some t =>
        eventIf (waiters.any fun g =>
          match findPair t g.pair with
          | some w => (match w.cohort with
            | some c => (findCohort t c).any fun co => (cohortBad s co (!co.streams.isEmpty)).isNone && (placeSavedCohort t co p.core 0).isSome
            | none => pairGood s w && (placeSavedPair t w p.core 0).isSome)
          | none => false) t

/-- Whether a pair or cohort is to leave its cores: its context is Stopping, or a core of it has been fenced (R411, R447). -/
def mustLeave (s : State) (t : PlaceSrc) : Bool :=
  let of (c : Nat) (cores : List Nat) : Bool := (getCtx s c).st == .stopping || cores.any fun k => (getCore s k).fenced
  match t with
  | .pair i => ((findPair s i).map fun p => of p.ctx [p.core] && p.cohort.isNone).getD false
  | .cohort i => ((findCohort s i).map fun c => of c.ctx c.cores).getD false
  | .queue _ => false

/-- The context of a target. -/
def targetCtx (s : State) (t : PlaceSrc) : Nat :=
  match t with
  | .pair i => ((findPair s i).map (·.ctx)).getD 0
  | .cohort i => ((findCohort s i).map (·.ctx)).getD 0
  | .queue _ => 0

/-- A word of a mailbox slot (R424). -/
def mailWord (s : State) (slot k : Nat) : Dword :=
  (((s.mysko.mail.find? fun x => x.slot == slot).bind fun x => x.words.find? fun w => w.1 == k).map (·.2)).getD 0

/-- Words written into a mailbox slot. -/
def setMail (s : State) (slot : Nat) (ws : List (Nat × Dword)) : State :=
  let old := ((s.mysko.mail.find? fun x => x.slot == slot).map (·.words)).getD []
  s.onMysko fun m =>
    { m with mail := (m.mail.filter fun x => x.slot != slot) ++
        [⟨slot, (old.filter fun w => !(ws.any fun y => y.1 == w.1)) ++ ws⟩] }

/-- Mysko takes the command of a slot, whose go is set until its completion (R424). -/
def mailTake (s : State) (slot : Nat) : State :=
  (setMail s slot [(0, mailWord s slot 0 ||| 2 ^ 63)]).onMysko fun m => { m with goes := m.goes.filter fun k => k != slot }

/-- A command done: the status word with done set, go clear, event bit 0 and vector 16 (R424). -/
def mailDone (s : State) (slot status : Nat) : State :=
  let s := mailTake s slot
  setEvent (setMail s slot [(0, mailWord s slot 0 &&& ~~~(2 ^ 63)), (1, BitVec.ofNat 64 (2 ^ 63 + status))]) 0

/-- A reply written to the operand area of a slot before its completion. -/
def mailReply (s : State) (slot : Nat) (ws : List (Nat × Dword)) : State :=
  mailDone (setMail s slot (ws.map fun w => (w.1 / 8, w.2))) slot 0

/-- Whether Mysko may take a slot's command now: the slots whose go has been written go before, in order (R424). A command whose go
write has not been seen is written and taken in one. -/
def mailTurn (s : State) (slot : Nat) : Bool :=
  match s.mysko.goes with
  | [] => true
  | k :: _ => k == slot

/-- Whether a slot's command has been taken and is not done: a write to it is ignored (R424). -/
def mailWaits (s : State) (slot : Nat) : Bool := (mailWord s slot 0).getLsbD 63 && !s.mysko.goes.contains slot

/-- The commands that wait for a context are done with a status. -/
def finishWaiting (s : State) (c status : Nat) : State :=
  let s' := (getCtx s c).waiting.foldl (fun s k => mailDone s k status) s
  updCtx s' c fun x => { x with waiting := [] }

/-- PREEMPTION: a pair or cohort that is to leave is saved at its boundary. Without a free area a Stopping context is Stopped with
status 5, and what is not saved keeps running (R49, R412, R413). -/
def execPreemption (t : PlaceSrc) (s : State) : Host.Outcome State Fault Refusal :=
  let c := targetCtx s t
  let stopping : Bool := (getCtx s c).st == .stopping
  if !mustLeave s t || (!stopping && heldByDebug s t) then .refused .eventNotEnabled
  else
    match saveTarget s t with
    | some s => .next s
    | none =>
      let ready : Bool := match t with
        | .pair i => (findPair s i).any fun p => savable s p
        | .cohort i => (findCohort s i).any fun co => cohortSavable s co
        | .queue _ => false
      eventIf (ready && stopping) (finishWaiting (updCtx s c fun x => { x with st := .stopped }) c 5)

/-! ### Retirement (R50, R122, R406) -/

/-- Whether a store is formed, or has its data at the store unit (R67). One whose data the execute twin has not pushed is no access yet. -/
def Op.formable (s : State) (o : Op) : Bool :=
  !o.unpaired || s.exec.pairs.any fun p => p.queues.any fun q =>
    q.kind == 1 && (q.addrs.take q.entries.length).any fun a => a.op == o.id

/-- Whether a pair's twins have exited; and whether their counters have drained, and every access and every arrival that the decrement at
retirement covers has been performed (R50, R122). -/
def pairExited (s : State) (pair : Nat) : Bool := (pairGroups s pair).all (·.exited)
@[inherit_doc pairExited] def pairDrained (s : State) (pair : Nat) : Bool :=
  (pairGroups s pair).all fun g =>
    g.exited && g.oc == ⟨0, 0, 0, 0, 0⟩ && !regPending s g.gid && g.taints.all (opPerformed s) &&
    !s.exec.ops.any fun o =>
      o.gid == g.gid && !o.dormant && o.formable s && o.pend != 0 && (o.kind.direct || match o.kind with
        | .harrive _ => true
        | .carrive _ => true
        | _ => false)

/-- A pair gone, with what no longer can complete: unpaired stores, kept poison records with the area that held them, and its
scratchpad. -/
def removePair (s : State) (pair : Nat) : State :=
  let gids := (pairGroups s pair).map (·.gid)
  let s := match findPair s pair with
    | some p => updCtx s p.ctx fun x => { x with areas := x.areas.filter fun a => some a != p.area }
    | none => s
  s.onExec fun e =>
    { e with
      groups := e.groups.filter fun g => g.pair != pair
      pairs := e.pairs.filter fun p => p.id != pair
      allocs := e.allocs.filter fun a => a.owner != .pair pair
      winAcc := e.winAcc.filter fun w => w.pair != pair
      ops := e.ops.filter fun o => !(gids.contains o.gid && (o.unpaired || o.dormant)) }

/-- The regions that a launch registered are removed (R406). -/
def removeRegions (s : State) (l : Launch) : State :=
  (List.range 64).foldl (fun s i =>
    match (getCtx s l.ctx).regions.getD i none with
    | some r => if r.launch = some l.id then removeRegion s l.ctx i else s
    | none => s) s

/-- The queue and index word of a launch in a decrement's record (R408). -/
def Launch.info (l : Launch) : Nat := l.queue + l.index % 2 ^ 32 * 2 ^ 32

/-- The end of the launches whose units have all retired and whose decrements have all been performed: their regions are removed (R152,
R406). -/
def launchesOver (s : State) : State :=
  (s.exec.launches.filter fun l => !l.barrier && l.units ≤ l.retired).foldl (fun s l =>
    if s.exec.sigdecs.any fun d => d.source == 0 && d.ctx == l.ctx && d.info == BitVec.ofNat 64 l.info then s
    else (removeRegions s l).onExec fun e => { e with launches := e.launches.filter fun x => x.id != l.id }) s

/-- The retirement of one unit of a launch: the decrement of its completion signal (R122, R406). -/
def unitRetired (s : State) (launch : Nat) : State :=
  match findLaunch s launch with
  | none => s
  | some l =>
    let s := if l.completion = 0 then s else sendDec s l.ctx l.completion 0 l.info
    launchesOver (updLaunch s launch fun l => { l with retired := l.retired + 1 })

/-- Whether a Press stream is blocked in MHWAIT, or waits in MPOP (R50). -/
def streamBlocked (s : State) (p : PressCtx) (co : Cohort) : Bool :=
  (p.st == .running || p.st == .waiting) && match pressNext s p with
    | some (.mhwait f) => !mhwaitReady p co f
    | some (.mpop _) => (mpopTakes p s.exec.cycle).isNone
    | _ => false

/-- The next state of a cohort (R50). One with several Press streams leaves Awaiting Press when each has ended or is blocked, the model's
choice (log entry 108). -/
def cohortStep (s : State) (co : Cohort) : Option State :=
  let streams := cohortStreams s co.id
  let ended : Bool := streams.all fun p => p.st == .ended
  let become (st : CohortState) (s : State) : State := updCohort s co.id fun c => { c with st := st }
  match co.st with
  | .resident =>
    if !(co.pairs.all (pairExited s)) then none
    else if ended then some (become .draining s) else some (become .awaitingPress s)
  | .awaitingPress =>
    if ended then some (become .draining s)
    else if streams.all fun p => p.st == .ended || streamBlocked s p co then
      some (become .draining ((streams.filter fun p => p.st != .ended).foldl (fun s p =>
        pressOrphan (parkStream s p) p.core p.num) s))
    else none
  | .draining =>
    let ids := streams.flatMap fun p => p.cmds.map (·.id)
    if !(co.pairs.all (pairDrained s)) || !ids.isEmpty then none
    else
      let s := co.pairs.foldl removePair s
      let s := s.onExec fun e =>
        { e with
          cohorts := e.cohorts.filter fun c => c.id != co.id
          presses := e.presses.filter fun p => p.cohort != co.id
          allocs := e.allocs.filter fun a => a.owner != .cohort co.id }
      some (unitRetired s co.launch)
  | _ => none

/-- RETIREMENT: a cohort goes to its next state of R50, or a drained pair outside any cohort retires. -/
def execRetirement (t : PlaceSrc) (s : State) : Host.Outcome State Fault Refusal :=
  match t with
  | .pair i =>
    (match findPair s i with
     | none => .refused .eventNotEnabled
     | some p => eventIf (p.resident && p.cohort.isNone && pairDrained s i) (unitRetired (removePair s i) p.launch))
  | .cohort i => event ((findCohort s i).bind (cohortStep s))
  | .queue _ => .refused .eventNotEnabled

end Sys2Proof.Machine
end

