-- ==== Sys2Proof/Machine/HostIf.lean ====
section
/-!
DEFINITION. The PCI Express side: registers, doorbells, the memory window, launch packets and their acceptance, dependences,
and the device's own decrements of signals (R395 to R409, R424).
-/

namespace Sys2Proof.Machine

/-! ### SIGNAL_DECREMENT (R408) -/

/-- SIGNAL_DECREMENT: the decrement at place `k` of those under way is performed, sent to the device that owns the signal, or dropped
with a record of type 0x0F, which that of an HMSEAL, whose signal was checked at the seal, does not write (log entry 75). After the last
one of a launch the launch is over (R152, R406). -/
def execSignalDecrement (k : Nat) (s : State) : Host.Outcome State Fault Refusal :=
  match s.exec.sigdecs[k]? with
  | none => .refused .eventNotEnabled
  | some d =>
    let s := s.onExec fun e => { e with sigdecs := e.sigdecs.filter fun x => x.id != d.id }
    let drop := launchesOver <| if d.source = 3 then s else faultRecord s d.ctx
      { type := 0x0F, addr := d.addr, d0 := d.source, d1 := d.info.toNat % 2 ^ 32, d2 := d.info.toNat / 2 ^ 32 }
    if !vaOk s d.ctx d.addr then .next drop
    else if !vaLocal s d.addr then
      .next (launchesOver (sendOut (linkSend s d.ctx (vaOwner d.addr) (vaOffset d.addr / 128) 0 1) (vaOwner d.addr) 13
        [d.ctx, d.addr.toNat, d.n, d.source, d.info.toNat]))
    else
      match signalLower s d.ctx d.addr d.n with
      | .ok s => .next (launchesOver (touchLine s d.ctx (vaOffset d.addr / 128) hostParty))
      | .error _ => .next drop

/-! ### BAR0 (R396, R399, R422) -/

/-- Whether BAR0 and BAR2 are served: in Boot their accesses complete with Unsupported Request, and Recovery serves the mailbox only. -/
def barUp (s : State) : Bool := s.mysko.phase == .reduced || s.mysko.phase == .full

def getQueue (s : State) (q : Nat) : HwQueue := s.host.queues.getD q HwQueue.zero
def updHwQueue (s : State) (q : Nat) (f : HwQueue → HwQueue) : State :=
  s.onHost fun h => { h with queues := h.queues.modify q f }

/-- A bit of a queue's QERR set. -/
def setQerr (s : State) (q bit : Nat) : State := updHwQueue s q fun x => { x with err := x.err ||| 2 ^ bit }

/-- A host write that takes effect in the phases that serve BAR0, and on a queue that exists. -/
def hostWrite (s : State) (q : Nat) (t : State) : Host.Outcome State Fault Refusal :=
  if 64 ≤ q then .refused .eventNotEnabled else .next (if barUp s then t else s)

/-- A write of QBASE (R396). -/
def writeQbase (s : State) (q : Nat) (v : Dword) : State :=
  if (getQueue s q).enable then setQerr s q 0 else updHwQueue s q fun x => { x with base := v }

/-- QBASE (R396). -/
def execQbase (q : Nat) (v : Dword) (s : State) : Host.Outcome State Fault Refusal := hostWrite s q (writeQbase s q v)

/-- QCTL as a 64-bit word. -/
def qctlWord (x : HwQueue) : Nat :=
  (if x.enable then 2 ^ 63 else 0) + (if x.feed then 2 ^ 62 else 0) + x.size % 32 * 2 ^ 16 + x.ctx % 16 * 2 ^ 8 + x.prio % 4

/-- A write of QCTL (R396). -/
def writeQctl (s : State) (q w : Nat) : State :=
  let x := getQueue s q
  let en : Bool := w.testBit 63
  let size := bitsNat w 16 5
  let ctx := bitsNat w 8 4
  if bitsNat w 21 41 ≠ 0 ∨ bitsNat w 12 4 ≠ 0 ∨ bitsNat w 2 6 ≠ 0 then setQerr s q 0
  else if x.enable ∧ w % 2 ^ 63 ≠ qctlWord x % 2 ^ 63 then setQerr s q 0
  else
    let ok : Bool := 4 ≤ size && size ≤ 16 && (getCtx s ctx).st != .absent
    let s := updHwQueue s q fun x =>
      { x with enable := en && ok, feed := w.testBit 62, size := size, ctx := ctx, prio := w % 4,
               rd := if en && ok && !x.enable then 0 else x.rd, wr := if en && ok && !x.enable then 0 else x.wr }
    if ok then s else setQerr s q 0

/-- QUEUE_ENABLE: a QCTL write that sets enable and changes nothing else (R396). -/
def execQueueEnable (q : Nat) (s : State) : Host.Outcome State Fault Refusal :=
  hostWrite s q (writeQctl s q (2 ^ 63 + qctlWord (getQueue s q) % 2 ^ 63))

/-- QUEUE_DISABLE: a QCTL write that clears enable and changes nothing else (R396). -/
def execQueueDisable (q : Nat) (s : State) : Host.Outcome State Fault Refusal :=
  hostWrite s q (writeQctl s q (qctlWord (getQueue s q) % 2 ^ 63))

/-- QCTL_CONFIG (R396). -/
def execQctlConfig (q : Nat) (v : Dword) (s : State) : Host.Outcome State Fault Refusal := hostWrite s q (writeQctl s q v.toNat)

/-- A write of QERR: a bit of 1 clears (R396). -/
def writeQerr (s : State) (q : Nat) (v : Dword) : State := updHwQueue s q fun x => { x with err := x.err - (x.err &&& v.toNat) }

/-- QERR (R396). -/
def execQerr (q : Nat) (v : Dword) (s : State) : Host.Outcome State Fault Refusal := hostWrite s q (writeQerr s q v)

/-- A write of a doorbell (R399). -/
def writeDoorbell (s : State) (q : Nat) (w : Word) : State :=
  let x := getQueue s q
  if x.feed then setQerr s q 2
  else if 2 ^ x.size < (w - x.rd).toNat ∨ 2 ^ 31 ≤ (w - x.wr).toNat then setQerr s q 1
  else updHwQueue s q fun x => { x with wr := w }

/-- DOORBELL (R399). -/
def execDoorbell (q : Nat) (w : Word) (s : State) : Host.Outcome State Fault Refusal := hostWrite s q (writeDoorbell s q w)

/-- A word of the MSI-X table written; a pending message goes out when its vector is unmasked (R396). -/
def writeMsix (s : State) (k : Nat) (v : Dword) : State :=
  let n := k / 2
  let s := s.onHost fun h => { h with msixTable := (h.msixTable.filter fun e => e.1 != k) ++ [(k, v)] }
  if s.host.msixPending.getLsbD n && !msixMasked s.host n then
    s.onHost fun h => { h with msixPending := h.msixPending &&& ~~~BitVec.ofNat 2048 (2 ^ n), msix := h.msix ++ [n] }
  else s

/-- A write of SEGBASE, SEGCTL or the MSI-X table; every other offset ignores it (R396). -/
def writeRegister (s : State) (off : Nat) (v : Dword) : State :=
  if 0x3000 ≤ off ∧ off < 0x3400 ∧ off % 8 = 0 then
    let k := (off - 0x3000) / 16
    s.onHost fun h => { h with segments := h.segments.modify k fun x =>
      if off % 16 = 0 then { x with base := v } else { x with enable := v.getLsbD 63, ctx := (v.extractLsb' 8 4).toNat } }
  else if 0x8000 ≤ off ∧ off < 0x10000 ∧ off % 8 = 0 then writeMsix s ((off - 0x8000) / 8) v
  else s

/-- REGISTER_WRITE (R396). -/
def execRegisterWrite (off : Nat) (v : Dword) (s : State) : Host.Outcome State Fault Refusal :=
  .next (if barUp s then writeRegister s off v else s)

/-- A word of the MSI-X table; the standard sets the mask bit of a vector at reset (R396). -/
def msixWord (s : State) (k : Nat) : Dword :=
  ((s.host.msixTable.find? fun e => e.1 == k).map (·.2)).getD (if k % 2 = 1 then 2 ^ 32 else 0)

/-- The register of BAR0 to which a byte belongs: its offset, its width and its value; none where R396 lists none, or lists a byte that is
only written. -/
def bar0Reg (s : State) (off : Nat) : Option (Nat × Nat × Nat) :=
  let at_ (v : Nat) : Option (Nat × Nat × Nat) := some (off / 8 * 8, 8, v)
  if 0x1000 ≤ off ∧ off < 0x1800 then
    let x := getQueue s ((off - 0x1000) / 32)
    match off % 32 / 8 with
    | 0 => at_ x.base.toNat
    | 1 => at_ (qctlWord x)
    | 2 => at_ x.rd.toNat
    | _ => at_ x.err
  else if 0x2000 ≤ off ∧ off < 0x2200 then (if off % 8 < 4 then some (off / 4 * 4, 4, 0) else none)
  else if 0x3000 ≤ off ∧ off < 0x3400 then
    let g := s.host.segments.getD ((off - 0x3000) / 16) ⟨0, false, 0⟩
    at_ (if off % 16 < 8 then g.base.toNat else (if g.enable then 2 ^ 63 else 0) + g.ctx % 16 * 2 ^ 8)
  else if 0x8000 ≤ off ∧ off < 0x10000 then at_ (msixWord s ((off - 0x8000) / 8)).toNat
  else if 0x10000 ≤ off ∧ off < 0x10100 then at_ (bitsNat s.host.msixPending.toNat (8 * ((off - 0x10000) / 8 * 8)) 64)
  else none

/-- Whether `n` bytes at an offset touch a register of BAR0. -/
def bar0Listed (s : State) (off n : Nat) : Bool := (List.range n).any fun i => (bar0Reg s (off + i)).isSome

/-- Whether an access has the width that its register allows: its own, or for the MSI-X structures 4 bytes too, as the standard has it
(R396; log entry 101). -/
def bar0Width (off n : Nat) (r : Nat × Nat × Nat) : Bool :=
  (r.1 == off && r.2.1 == n) || (0x8000 ≤ off && n == 4 && off % 4 == 0)

/-- A host read of BAR0 (R396). -/
def bar0Read (s : State) (off n : Nat) : HostReply :=
  match bar0Reg s off with
  | some r => if bar0Width off n r then .data (leBytes n (r.2.2 / 2 ^ (8 * (off - r.1)))) else .unsupported
  | none => if bar0Listed s off n then .unsupported else .data (List.replicate n 0)

/-- A host write to BAR0: one of a width that its register does not allow has no effect (R396). -/
def bar0Write (s : State) (off : Nat) (bs : List Byte) : State :=
  let q := (off - 0x1000) / 32
  match bar0Reg s off with
  | none => s
  | some r =>
    let v : Dword := BitVec.ofNat 64 (leValue bs)
    if !bar0Width off bs.length r then s
    else if off < 0x1800 then
      (match off % 32 / 8 with
       | 0 => writeQbase s q v
       | 1 => writeQctl s q v.toNat
       | 2 => s
       | _ => writeQerr s q v)
    else if off < 0x2200 then writeDoorbell s ((off - 0x2000) / 8) (BitVec.ofNat 32 (leValue bs))
    else if bs.length = 4 then
      let old := r.2.2
      let h := 2 ^ (8 * (off - r.1))
      writeRegister s r.1 (BitVec.ofNat 64 (old - old / h % 2 ^ 32 * h + leValue bs * h))
    else writeRegister s off v

/-! ### BAR4 (R424) -/

/-- A word of the status page. The order of two figures within a word, the first one lower, is the model's choice (log entry 101). -/
def statusWord (s : State) (k : Nat) : Nat :=
  let m := s.mysko
  match k with
  | 0 => (match m.phase with
    | .boot => 0
    | .recovery => 1
    | .reduced => 2
    | .full => 3)
  | 1 => m.running + m.fused * 2 ^ 32
  | 2 => m.stacksTrained.toNat + m.stacksFenced.toNat * 2 ^ 12 + (if m.rings then 2 ^ 24 else 0) + (if m.selfTest then 2 ^ 25 else 0)
  | 3 => m.events.toNat
  | 4 => m.clock
  | 5 => m.samples.sum / max 1 m.samples.length
  | 6 => m.junction % 2 ^ 16 + m.inlet % 2 ^ 16 * 2 ^ 16
  | 7 => m.limit + m.q * 2 ^ 32
  | _ => 0

/-- A byte of the mailbox. -/
def mailByte (s : State) (off : Nat) : Byte :=
  let slot := off / 1024
  let k := off % 1024 / 8
  BitVec.ofNat 8 ((if slot = 0 then statusWord s k else (mailWord s slot k).toNat) / 2 ^ (8 * (off % 8)))

/-- Bits of the event word cleared (R424). -/
def clearEvents (s : State) (v : Dword) : State := s.onMysko fun m => { m with events := m.events &&& ~~~v }

/-- Bytes written into one slot from an offset within it: a slot whose command is not done keeps what it holds, and a command word with go
set joins those that Mysko takes. Slot 0 takes only the clearing of event bits. -/
def slotWrite (s : State) (slot off : Nat) (bs : List Byte) : State :=
  let put (k : Nat) : Nat := leValue ((List.range 8).map fun j =>
    let i := 8 * k + j
    if off ≤ i ∧ i < off + bs.length then bs.getD (i - off) 0 else if slot = 0 then 0 else mailByte s (1024 * slot + i))
  let ks := (List.range 128).filter fun k => off < 8 * k + 8 && 8 * k < off + bs.length
  if slot = 0 then (if ks.contains 3 then clearEvents s (BitVec.ofNat 64 (put 3)) else s)
  else if (mailWord s slot 0).getLsbD 63 then s
  else
    let t := setMail s slot (ks.map fun k => (k, BitVec.ofNat 64 (put k)))
    if (mailWord t slot 0).getLsbD 63 then t.onMysko fun m => { m with goes := m.goes ++ [slot] } else t

/-- A host write to the mailbox; the slots that it covers take it in order (R424, R431). -/
def mailWrite (s : State) (off : Nat) (bs : List Byte) : State :=
  (List.range 64).foldl (fun s k =>
    let lo := max off (1024 * k)
    let hi := min (off + bs.length) (1024 * (k + 1))
    if lo < hi then slotWrite s k (lo - 1024 * k) ((bs.drop (lo - off)).take (hi - lo)) else s) s

/-! ### Host accesses (R395 to R398, R422, R424) -/

/-- The BAR of a place `x` of the model's host accesses, and the offset there: BAR2 from 0, BAR0 from 2^36, BAR4 from 2^37 (log entry 101). -/
def barOf (x : Nat) : Option (Nat × Nat) :=
  if x < 2 ^ 36 then some (2, x)
  else if x < 2 ^ 36 + 2 ^ 20 then some (0, x - 2 ^ 36)
  else if 2 ^ 37 ≤ x ∧ x < 2 ^ 37 + 2 ^ 16 then some (4, x - 2 ^ 37)
  else none

/-- Whether a BAR is served: in Boot none, in Recovery the mailbox alone (R422). -/
def barServed (s : State) (bar : Nat) : Bool := if bar = 4 then s.mysko.phase != .boot else barUp s

/-- Whether a request of `n` bytes at a place exists: PCI Express requests stay within 4 KiB (R395). -/
def hostSpan (x n : Nat) : Bool := n != 0 && x % 4096 + n ≤ 4096

/-- The context and virtual address of a window offset, when its segment is enabled and names this device. -/
def windowTarget (s : State) (x : Nat) : Option (Nat × Dword) :=
  let g := s.host.segments.getD (x / 2 ^ 30) ⟨0, false, 0⟩
  let a := g.base + BitVec.ofNat 64 (x % 2 ^ 30)
  if g.enable && (getCtx s g.ctx).st != .absent && vaOk s g.ctx a && vaLocal s a then some (g.ctx, a) else none

/-- A host read completed. -/
def replyHost (s : State) (r : HostReply) : State := s.onHost fun h => { h with readData := r }

/-- HOST_WINDOW_READ: a host read of BAR2, which where it is refused completes with Completer Abort, or of BAR0 or BAR4; a BAR that is not
served answers Unsupported Request (R396, R397, R422, R424). -/
def execHostWindowRead (x width : Nat) (s : State) : Host.Outcome State Fault Refusal :=
  match (if hostSpan x width then barOf x else none) with
  | none => .refused .eventNotEnabled
  | some (bar, off) =>
    if !barServed s bar then .next (replyHost s .unsupported)
    else if bar = 0 then .next (replyHost s (bar0Read s off width))
    else if bar = 4 then .next (replyHost s (.data ((List.range width).map fun i => mailByte s (off + i))))
    else
      match windowTarget s x with
      | none => .next (replyHost s .completerAbort)
      | some (c, a) =>
        if veiledOutside s c a.toNat width then .refused .eventNotEnabled
        else
          match loadBytes s c (vaOffset a) width with
          | .error _ => .next (replyHost s .completerAbort)
          | .ok (s, bs) => .next (replyHost ((linesOf (vaOffset a) width).foldl (fun s l => homeRead s c l hostParty) s) (.data bs))

/-- HOST_WINDOW_WRITE: a host write of `width` bytes, of which `v` is the little-endian value, to BAR2, performed at the home slice, or
dropped, or to BAR0 or BAR4 (R396, R397, R424). -/
def execHostWindowWrite (x width v : Nat) (s : State) : Host.Outcome State Fault Refusal :=
  let bs := leBytes width v
  match (if hostSpan x width then barOf x else none) with
  | none => .refused .eventNotEnabled
  | some (bar, off) =>
    if !barServed s bar then .next s
    else if bar = 0 then .next (bar0Write s off bs)
    else if bar = 4 then .next (mailWrite s off bs)
    else
      match windowTarget s x with
      | none => .next s
      | some (c, a) =>
        match storeBytes (snoop s c (vaOffset a) width none) c (vaOffset a) bs with
        | .error _ => .next s
        | .ok s => .next ((linesOf (vaOffset a) width).foldl (fun s l => touchLine s c l hostParty) s)

/-! ### Packets and kernel descriptors (R401 to R403) -/

/-- The little-endian field of `n` bytes at an offset of a byte string. -/
def field (bs : List Byte) (o n : Nat) : Nat := leValue ((bs.drop o).take n)

/-- Bytes of a local range of a context. -/
def readLocal (s : State) (c : Nat) (a : Dword) (n : Nat) : Option (State × List Byte) :=
  if n = 0 then some (s, [])
  else if !vaOk s c a || !vaLocal s a then none
  else
    match loadBytes s c (vaOffset a) n with
    | .error _ => none
    | .ok (s, bs) =>
      let lines := (List.range (n / 128 + 2)).map (vaOffset a / 128 + ·)
      some ((lines.filter fun l => 128 * l < vaOffset a + n).foldl (fun s l => homeRead s c l hostParty) s, bs)

/-- A kernel from the first 128 bytes of its descriptor (R403). -/
def parseKernel (kd : List Byte) : Kernel :=
  let r := field kd 0x20 8
  { accessPc := BitVec.ofNat 64 (field kd 0x08 8), executePc := BitVec.ofNat 64 (field kd 0x10 8),
    pressPc := BitVec.ofNat 64 (field kd 0x18 8), regions := bitsNat r 56 8, cohort := bitsNat r 48 8, window := bitsNat r 40 8,
    scratch := bitsNat r 32 8, ans := bitsNat r 24 8, anv := bitsNat r 16 8, ens := bitsNat r 8 8, env := r % 256,
    queues := (List.range 16).map fun q =>
      let w := field kd (0x28 + 2 * q) 2
      (w.testBit 15, if w.testBit 15 then bitsNat w 13 2 else 0, if w.testBit 15 then w % 128 else 0)
    hoops := (List.range 16).map fun h => field kd (0x48 + h) 1 }

/-- Whether a descriptor's version and reserved fields are as R403 has them. -/
def kernelFormOk (kd : List Byte) : Bool :=
  field kd 0 8 == 1 && field kd 0x58 40 == 0 && bitsNat (field kd 0x20 8) 56 8 ≤ 64 &&
  (List.range 16).all fun q =>
    let w := field kd (0x28 + 2 * q) 2
    bitsNat w 7 6 == 0 && !(w.testBit 15 && bitsNat w 13 2 == 3)

/-- The limits of status 0x13 (R402). A kernel with both slices may declare no window, the model's choice (log entry 106). -/
def kernelCountsOk (k : Kernel) : Bool :=
  let both : Bool := k.accessPc != 0 && k.executePc != 0
  let declared := k.queues.filter fun q => q.1
  let slots := (declared.map fun q => if q.2.1 = 1 then 3 * q.2.2 else q.2.2).sum
  k.cohort ≤ 64 && k.window ≤ 16 && k.scratch ≤ 64 && k.anv ≤ 64 && k.env ≤ 240 && k.ans ≤ 64 && k.ens ≤ 64 &&
  declared.all (fun q => 1 ≤ q.2.2 && q.2.2 ≤ 64) && slots ≤ 16 * k.window &&
  (both || (declared.isEmpty && k.window == 0)) && (k.pressPc == 0 || k.cohort != 0) &&
  k.hoops.all (fun n => n ≤ 128) && (!k.usesHoops || k.cohort != 0) && (k.accessPc != 0 || k.executePc != 0)

/-- Whether the selectors of a region entry are legal (R403). -/
def regionFormOk (e : List Byte) : Bool :=
  (List.range 5).all (fun i =>
    let x := field e (1 + i) 1
    x == 0x80 || (x % 2 == 0 && x ≤ 62)) && field e 6 2 == 0

/-- A region of a descriptor, with its fields taken from the argument words where its selectors say so. -/
def parseRegion (e : List Byte) (args : List Word) (launch : Nat) : Region :=
  let f (i : Nat) : Nat :=
    let x := field e (1 + i) 1
    if x = 0x80 then field e (8 + 8 * i) 8 else (args.getD x 0).toNat + (args.getD (x + 1) 0).toNat * 2 ^ 32
  ⟨field e 0 1, f 0, f 1, f 2, f 3, f 4, some launch⟩

/-- The lowest disabled entries of a context's region table. -/
def freeRegions (s : State) (c : Nat) : List Nat :=
  (List.range 64).filter fun k => ((getCtx s c).regions.getD k none).isNone

/-- Regions registered in the lowest free entries; none when one is refused or none is free. -/
def registerAll (s : State) (c : Nat) : List Region → Option State
  | [] => some s
  | r :: rs =>
    match freeRegions s c with
    | [] => none
    | k :: _ => (registerRegion s c k r).bind fun s => registerAll s c rs

/-- The state in which a context's cores are all free. -/
def allFree (s : State) : State :=
  s.onExec fun e => { e with groups := [], pairs := [], cohorts := [], presses := [], allocs := [], ops := [] }

/-- Whether a cohort could ever fit the cores that its context owns. -/
def cohortFits (s : State) (l : Launch) : Bool :=
  l.kernel.cohort == 0 || (List.range 160).any fun k =>
    (getCore s k).owner == some l.ctx && (placeUnit (allFree s) { l with placed := 0 } k 0).isSome

/-- Whether a signal's address is aligned and translates with the permission needed (R402); of another device's address its owner answers,
whose answer is a free value. -/
def signalOk (s : State) (c : Nat) (a : Dword) (n : Need) : Bool :=
  a.toNat % 8 == 0 && vaOk s c a && if vaLocal s a then (match translate s c (vaOffset a) with
    | .ok (_, t) => n.met t.r t.w t.x
    | .error _ => false) else Config.peerTranslates s.exec.seq a (n == .both)

/-- The dependences of a packet that are used. -/
def packetDeps (p : List Byte) : List (Dword × Dword) :=
  ((List.range 4).map fun i =>
    (BitVec.ofNat 64 (field p (0x40 + 16 * i) 8), BitVec.ofNat 64 (field p (0x48 + 16 * i) 8))).filter fun d => d.1 != 0

/-- The checks of R402 in order: the status that refuses a packet, or the launch with the state that has registered its regions. -/
def acceptPacket (s : State) (q c : Nat) (index : Nat) (p : List Byte) : Except Nat (State × Launch) :=
  let h := field p 0 8
  let type := h % 256
  let argc := bitsNat h 16 7
  let barrier : Bool := type == 2
  let kd : Dword := BitVec.ofNat 64 (field p 0x08 8)
  let n := field p 0x10 8
  let completion : Dword := BitVec.ofNat 64 (field p 0x20 8)
  let deps := packetDeps p
  let argAt : Dword := BitVec.ofNat 64 (field p 0x18 8)
  if !(type == 1 || type == 2) || h != type + argc * 2 ^ 16 || 64 < argc || field p 0x30 16 ≠ 0 then .error 0x10
  else
    let desc : Option (List Byte) :=
      if barrier then (if kd = 0 then some (List.replicate 128 0) else none)
      else if kd.toNat % 128 ≠ 0 then none
      else
        (readLocal s c kd 128).bind fun x =>
          (readLocal s c kd (128 + 48 * min 64 (bitsNat (field x.2 0x20 8) 56 8))).map (·.2)
    match desc with
    | none => .error 0x11
    | some d =>
      let k := parseKernel d
      let entry (i : Nat) : List Byte := (d.drop (128 + 48 * i)).take 48
      if !barrier && (!kernelFormOk d || !((List.range k.regions).all fun i => regionFormOk (entry i))) then .error 0x12
      else if !barrier && !kernelCountsOk k then .error 0x13
      else if (if barrier then n != 0 else n == 0 || 2 ^ 32 ≤ n || (k.cohort != 0 && n % k.cohort != 0)) then .error 0x14
      else if argc ≠ 0 ∧ argAt.toNat % 8 ≠ 0 then .error 0x15
      else
        match readLocal s c argAt (4 * argc) with
        | none => .error 0x15
        | some (s, ab) =>
          let args : List Word := (List.range argc).map fun i => BitVec.ofNat 32 (field ab (4 * i) 4)
          let (id, s) := fresh s
          let l : Launch :=
            { id := id, ctx := c, queue := q, index := index, barrier := barrier, kernel := k, n := n, args := args,
              completion := completion, deps := deps, met := none, placed := 0, retired := 0, starved := false }
          match registerAll s c ((List.range k.regions).map fun i => parseRegion (entry i) args id) with
          | none => .error 0x16
          | some t =>
            if !cohortFits s l then .error 0x17
            else if (completion != 0 && !signalOk s c completion .both) || !(deps.all fun x => signalOk s c x.1 .read) then .error 0x18
            else .ok (t, l)

/-- A status word written into a packet. -/
def writeStatus (s : State) (c : Nat) (a : Dword) (status : Nat) : State :=
  match homeStore s c (vaOffset (a + 0x28)) (leBytes 8 status) hostParty with
  | .ok s => s
  | .error _ => s

/-- The address of a packet in its ring (R399). -/
def packetAt (x : HwQueue) (n : Word) : Dword := x.base + BitVec.ofNat 64 (128 * (n.toNat % 2 ^ x.size))

/-- PACKET_READ: the packet at QRD is accepted or refused, its status is written and QRD advances; a packet that cannot be read
disables its queue (R399, R402). An accepted one invalidates the context's lines in the instruction caches of its cores (R85). -/
def execPacketRead (q : Nat) (s : State) : Host.Outcome State Fault Refusal :=
  let x := getQueue s q
  let c := x.ctx
  let st := (getCtx s c).st
  if 64 ≤ q ∨ !barUp s ∨ !x.enable ∨ x.rd = x.wr ∨ x.current.isSome ∨ st = .absent ∨ st = .ending then .refused .eventNotEnabled
  else
    let a := packetAt x x.rd
    match readLocal s c a 128 with
    | none =>
      let s := updHwQueue (setQerr s q 3) q fun x => { x with enable := false }
      .next (faultRecord s c { type := 0x09, addr := a, d0 := q, d1 := x.rd.toNat })
    | some (s, p) =>
      match acceptPacket s q c x.rd.toNat p with
      | .error status =>
        let s := faultRecord (writeStatus s c a status) c { type := 0x08, addr := a, d0 := q, d1 := x.rd.toNat, d2 := status }
        .next (updHwQueue s q fun x => { x with rd := x.rd + 1 })
      | .ok (s, l) =>
        let s := s.onExec fun e => { e with launches := e.launches ++ [l] }
        let s := s.onMemory fun m => { m with icache := m.icache.filter fun y => y.ctx != c || (getCore s y.core).owner != some c }
        .next (updHwQueue (writeStatus s c a 1) q fun x => { x with rd := x.rd + 1, current := some l.id })

/-- LAUNCH_PACKET_READ: a LAUNCH's packet is read and enqueued, or refused with a record (R348, R400): reasons 1 a queue that the
context does not own, 2 a full queue, 3 a packet that cannot be read, 4 a ring that cannot be written. -/
def execLaunchPacketRead (op : Nat) (s : State) : Host.Outcome State Fault Refusal :=
  match findOp s op with
  | none => .refused .eventNotEnabled
  | some o =>
    match o.kind with
    | .launch q =>
      if o.todo = 0 ∨ !o.orderMet s then .refused .eventNotEnabled
      else
        let c := o.ctx
        let a := o.addrs.get 0
        let x := getQueue s q
        let done (s : State) : State := finishOp (updOp s op fun o => { o with todo := 0 }) op
        let refuse (n : Nat) : State :=
          let g := (findGroup s o.gid).map fun g => (g, o.entry)
          done (faultRecord s c { type := 0x08, group := g, pc := o.pc, addr := a, d0 := q, d2 := n })
        if 64 ≤ q ∨ !x.feed ∨ x.ctx ≠ c then .next (refuse 1)
        else if 2 ^ x.size ≤ (x.wr - x.rd).toNat then .next (refuse 2)
        else
          match readLocal s c a 128 with
          | none => .next (refuse 3)
          | some (t, p) =>
            let slot := packetAt x x.wr
            match homeStore t c (vaOffset slot) p hostParty with
            | .error _ => .next (refuse 4)
            | .ok t => .next (done (updHwQueue t q fun x => { x with wr := x.wr + 1 }))
    | _ => .refused .eventNotEnabled

/-! ### Dependences and priorities (R404, R405) -/

/-- Whether a dependence holds: a local signal's value is at most c. The event stands for the answer of a remote owner. -/
def depHolds (s : State) (c : Nat) (d : Dword × Dword) : Bool :=
  !vaLocal s d.1 || (!veiledOutside s c d.1.toNat 8 && match loadBytes s c (vaOffset d.1) 8 with
    | .ok (_, bs) => sextNat 64 (leValue bs) ≤ d.2.toInt
    | .error _ => false)

/-- The local dependences of a launch read at their homes (R93 to R95, R404). -/
def depReads (s : State) (l : Launch) : State :=
  (l.deps.filter fun d => vaLocal s d.1).foldl (fun s d => homeRead s l.ctx (vaOffset d.1 / 128) hostParty) s

/-- DEPENDENCE_MET: every dependence of the launch at the head of its queue holds; a barrier packet decrements its signal and is
over (R404). -/
def execDependenceMet (launch : Nat) (s : State) : Host.Outcome State Fault Refusal :=
  match findLaunch s launch with
  | none => .refused .eventNotEnabled
  | some l =>
    if (getQueue s l.queue).current ≠ some launch ∨ l.met.isSome ∨ !(l.deps.all (depHolds s l.ctx)) then .refused .eventNotEnabled
    else
    let s := depReads s l
    if l.barrier then
      let s := if l.completion = 0 then s else sendDec s l.ctx l.completion 1 (l.queue + l.index % 2 ^ 32 * 2 ^ 32)
      let s := s.onExec fun e => { e with launches := e.launches.filter fun x => x.id != launch }
      .next (updHwQueue s l.queue fun x => { x with current := none })
    else .next (updLaunch s launch fun l => { l with met := some s.tick })

/-- PRIORITY_STARVATION: a head whose dependences held 1 ms ago has not been placed (R405). -/
def execPriorityStarvation (q : Nat) (s : State) : Host.Outcome State Fault Refusal :=
  match headLaunch s q with
  | none => .refused .eventNotEnabled
  | some l =>
    eventIf (!l.starved && match l.met with
      | some t => t + 10 ^ 6 ≤ s.tick
      | none => false) (updLaunch s l.id fun l => { l with starved := true })

/-- EVENT_WORD_CLEAR: a write of 1 clears (R424). -/
def execEventWordClear (v : Dword) (s : State) : Host.Outcome State Fault Refusal :=
  .next (if s.mysko.phase = .boot then s else clearEvents s v)

end Sys2Proof.Machine
end

