-- ==== Sys2Proof/Machine/Sha3.lean ====
section
/-!
DEFINITION. SHA3-512, the digest of firmware images and of signed records (R7, R423, R438, R440). The manual names the function and
does not restate it; it is that of FIPS 202 (log entry 5).
-/

namespace Sys2Proof.Machine

/-- A lane of the permutation's state by column and row, with both taken modulo 5. -/
def keccakLane (a : List (BitVec 64)) (x y : Nat) : BitVec 64 := a.getD (x % 5 + 5 * (y % 5)) 0

/-- The state built lane by lane from a function of column and row. -/
def keccakBuild (f : Nat → Nat → BitVec 64) : List (BitVec 64) := (List.range 25).map fun i => f (i % 5) (i / 5)

/-- The rotation of each lane, by column and then row. -/
def keccakTurns : List Nat :=
  [0, 1, 62, 28, 27, 36, 44, 6, 55, 20, 3, 10, 43, 25, 39, 41, 45, 15, 21, 8, 18, 2, 61, 56, 14]

/-- The constants of the 24 rounds. -/
def keccakRounds : List (BitVec 64) :=
  [0x0000000000000001, 0x0000000000008082, 0x800000000000808A, 0x8000000080008000, 0x000000000000808B, 0x0000000080000001,
   0x8000000080008081, 0x8000000000008009, 0x000000000000008A, 0x0000000000000088, 0x0000000080008009, 0x000000008000000A] ++
  [0x000000008000808B, 0x800000000000008B, 0x8000000000008089, 0x8000000000008003, 0x8000000000008002, 0x8000000000000080,
   0x000000000000800A, 0x800000008000000A, 0x8000000080008081, 0x8000000000008080, 0x0000000080000001, 0x8000000080008008]

/-- The column parities spread over their neighbours. -/
def keccakTheta (a : List (BitVec 64)) : List (BitVec 64) :=
  let c := (List.range 5).map fun x => (List.range 5).foldl (fun v y => v ^^^ keccakLane a x y) 0
  keccakBuild fun x y => keccakLane a x y ^^^ c.getD ((x + 4) % 5) 0 ^^^ (c.getD ((x + 1) % 5) 0).rotateLeft 1

/-- Each lane rotated and moved: the lane that comes to column x of row y stood in column x + 3y of row x. -/
def keccakMove (a : List (BitVec 64)) : List (BitVec 64) :=
  keccakBuild fun x y =>
    let i := (x + 3 * y) % 5 + 5 * x
    (a.getD i 0).rotateLeft (keccakTurns.getD i 0)

/-- The rows combined, and the round's constant added to the first lane. -/
def keccakMix (rc : BitVec 64) (a : List (BitVec 64)) : List (BitVec 64) :=
  (keccakBuild fun x y => keccakLane a x y ^^^ (~~~keccakLane a (x + 1) y &&& keccakLane a (x + 2) y)).modify 0 (· ^^^ rc)

/-- The permutation of 24 rounds. -/
def keccak (a : List (BitVec 64)) : List (BitVec 64) :=
  keccakRounds.foldl (fun a rc => keccakMix rc (keccakMove (keccakTheta a))) a

/-- Blocks of 72 bytes absorbed one after another. -/
def sha3Absorb : Nat → List Byte → List (BitVec 64) → List (BitVec 64)
  | 0, _, a => a
  | n + 1, bs, a =>
    let lane (i : Nat) : BitVec 64 := if i < 9 then BitVec.ofNat 64 (leValue ((bs.drop (8 * i)).take 8)) else 0
    sha3Absorb n (bs.drop 72) (keccak (keccakBuild fun x y => keccakLane a x y ^^^ lane (x + 5 * y)))

/-- SHA3-512 of a byte string. -/
def sha3_512 (bs : List Byte) : List Byte :=
  let fill := 72 - bs.length % 72
  let pad : List Byte := if fill = 1 then [0x86] else [0x06] ++ List.replicate (fill - 2) 0 ++ [0x80]
  let m := bs ++ pad
  ((sha3Absorb (m.length / 72) m (List.replicate 25 0)).take 8).flatMap fun v => leBytes 8 v.toNat

end Sys2Proof.Machine
end

