-- ==== Sys2Proof/Machine/Contexts.lean ====
section
/-!
DEFINITION. Mysko's commands on contexts: creation, cores, stopping, resuming and ending, invalidation, range entries, MX
regions, reduce windows, member masks and peer tables (R83, R179, R410 to R412, R416 to R419, R425, R429, R440).
-/

namespace Sys2Proof.Machine

/-! ### Mailbox commands (R424, R425) -/

/-- A command in one of the slots 1 to 63 whose result is its status, or `run` where nothing has been found against it. In Recovery only
FW_STAGE is accepted, and a phase that the command is not for gives status 7. A write to slot 0, to a slot whose command is not done, or
in Boot has no effect (R422, R424). -/
def command (s : State) (slot : Nat) (phases : List Phase) (status : Nat) (run : State) : Host.Outcome State Fault Refusal :=
  if 64 ≤ slot then .refused .eventNotEnabled
  else if slot = 0 ∨ s.mysko.phase = .boot ∨ mailWaits s slot then .next s
  else if !mailTurn s slot then .refused .eventNotEnabled
  else if !phases.contains s.mysko.phase then .next (mailDone s slot 7)
  else if status ≠ 0 then .next (mailDone s slot status)
  else .next run

/-- The phases in which a command that R411 lists runs. -/
def served : List Phase := [.reduced, .full]

/-- Whether `n` bytes at a physical address of 40 bits lie in installed memory (R410). -/
def physOk (s : State) (a n : Nat) : Bool := a < 2 ^ 40 && physExists s a n

/-! ### Member lists (R440) -/

/-- The digest of a member's identity key; zero without a formed session. -/
def memberDigest (s : State) (i : Nat) : List Byte :=
  if i = s.fabric.index then sha3_512 Config.identityKey
  else if s.fabric.formed && (match findLink s i with
    | some l => !l.down
    | none => false) then sha3_512 (Config.peerKey i)
  else List.replicate 64 0

/-- A context's member list formed anew. -/
def formMembers (s : State) (c : Nat) : State :=
  let x := getCtx s c
  let ms := (List.range 1024).filter fun i => x.members.getLsbD i
  updCtx s c fun x => { x with memberKeys := ms.map fun i => (i, memberDigest s i), formTick := s.tick }

/-! ### CTX_CREATE (R410, R411, R432) -/

/-- The core numbers of a mask. -/
def maskCores (m : BitVec 160) : List Nat := (List.range 160).filter fun k => m.getLsbD k

/-- A context as its block describes it. -/
def blockCtx (s : State) (block : Nat) (cores : BitVec 160) : Ctx :=
  let w (o n : Nat) : Nat := physNat s (block + o) n
  { Ctx.zero with
    st := .live, created := true, cores := cores, block := block, root := w 0x00 8, saveBase := w 0x08 8, np := w 0x10 4,
    nc := w 0x14 4, fqBase := w 0x28 8 / 64 * 64, fqLog := w 0x28 8 % 32, regionBase := w 0x70 8, windowBase := w 0x78 8,
    replayBase := w 0x80 8, replayCount := w 0x88 4, createTick := s.tick,
    members := BitVec.ofNat 1024 (2 ^ s.fabric.index) }

/-- The checks of R410 on a block: alignment, reserved bytes and installed memory. -/
def blockOk (s : State) (block : Nat) : Bool :=
  let w (o n : Nat) : Nat := physNat s (block + o) n
  let at_ (o align n : Nat) : Bool := w o 8 % align == 0 && physOk s (w o 8) n
  let fq := w 0x28 8
  block % 256 == 0 && physOk s block 256 && at_ 0x00 8192 8192 && at_ 0x08 8192 (176 * 1024 * w 0x10 4 + 712 * 1024 * w 0x14 4) &&
  bitsNat fq 5 1 == 0 && 4 ≤ fq % 32 && fq % 32 ≤ 16 && physOk s (fq / 64 * 64) (64 * 2 ^ (fq % 32)) && w 0x3C 4 == 0 &&
  (List.range 3).all (fun k =>
    let b := w (0x40 + 16 * k) 8
    bitsNat b 5 7 == 0 && b % 32 ≤ 20 && physOk s (b / 4096 * 4096) (8 * 2 ^ (b % 32))) &&
  at_ 0x70 4096 4096 && at_ 0x78 4096 4096 && at_ 0x80 4096 (64 * w 0x88 4) && 4096 ≤ w 0x88 4 && zeroAt s (block + 0x8C) 116

/-- Whether a core may be given to a context: it exists in this phase and is not fenced (R422, R447). -/
def coreGivable (s : State) (k : Nat) : Bool := !s.mysko.deviceFenced && !(getCore s k).fenced && (s.mysko.phase == .full || k < 40)

/-- Every line and page-TLB entry of a context gone, the lines of its page tables among them; dirty lines are written back, and no
shared line serves the context before it has been translated anew (R89, R92, R411). -/
def dropContextLines (s : State) (c : Nat) : State :=
  let s := (s.memory.l2.filter fun l => l.tag == c).foldl l2Leave s
  s.onMemory fun m =>
    { m with tlb := m.tlb.filter fun t => t.ctx != c, l1 := m.l1.filter fun l => l.tag != c,
             l2 := m.l2.map fun l => { l with users := l.users.filter fun u => u != c } }

/-- Some cores given to a context, with their contention counters zero (R95). A core that it owns already stays as it is. -/
def giveCores (s : State) (cores : List Nat) (c : Nat) : State :=
  cores.foldl (fun s k => updCore s k fun x =>
    if x.owner = some c then x else { x with owner := some c, predictor := List.replicate 256 0 }) s

/-- The status of CTX_CREATE. -/
def createStatus (s : State) (c : Nat) (block : Nat) (cores : BitVec 160) : Nat :=
  if 16 ≤ c ∨ !blockOk s block ∨ !((maskCores cores).all (coreGivable s)) then 1
  else if (getCtx s c).st ≠ .absent then 3
  else if (maskCores cores).any fun k => (getCore s k).owner.isSome then 2
  else 0

/-- Whether an HM_SEAL or DOM_ATTEST of a context is queued: Mysko performs commands for one context in order (R411, R444). -/
def sealQueued (s : State) (c : Nat) : Bool :=
  s.mysko.seals.any fun q => match q with
    | .hmSeal _ x _ => x == c
    | .domAttest _ x _ => x == c
    | .hmseal _ => false

/-- CTX_CREATE (R411, R432, R440). -/
def execCtxCreate (slot c : Nat) (block : Dword) (cores : BitVec 160) (s : State) : Host.Outcome State Fault Refusal :=
  let s' := dropContextLines s c
  let old := getCtx s c
  let x := { blockCtx s' block.toNat cores with prevSeq := old.prevSeq, windowWait := old.windowWait, invalWait := old.invalWait }
  let s' := giveCores (updCtx s' c fun _ => x) (maskCores cores) c
  if sealQueued s c then .refused .eventNotEnabled
  else command s slot served (createStatus s c block.toNat cores) (mailDone (formMembers s' c) slot 0)

/-! ### CTX_CORES (R411, R453) -/

/-- The oldest record of a core's trace FIFO written into its ring; none while the ring is full or off, or the FIFO empty (R453). -/
def drainRecord (s : State) (core : Nat) : Option State :=
  let k := getCore s core
  match k.fifo with
  | [] => none
  | r :: rs =>
    let cap := 2 ^ k.ringLog
    let wr := physNat s (k.ringBase - 8) 4
    let rd := physNat s (k.ringBase - 4) 4
    if !k.ringOn || cap ≤ (wr + 2 ^ 32 - rd) % 2 ^ 32 then none
    else
      let bytes := le8 r.word0.toNat ++ le8 r.w1.toNat ++ le8 r.w2.toNat ++ le8 r.w3.toNat
      let s := physWrite s (k.ringBase + 32 * (k.ringIndex % cap)) bytes
      let s := physWrite s (k.ringBase - 8) (leBytes 4 ((wr + 1) % 2 ^ 32))
      some (updCore s core fun k => { k with fifo := rs, ringIndex := k.ringIndex + 1 })

/-- How many of the newest records, newest first, are those of the newest record's tick (R451, R452). -/
def openRecords : List TraceRec → Nat
  | [] => 0
  | x :: xs =>
    let t := bitsNat x.word0.toNat 60 4
    if t = 2 then (if (xs.head?.map fun y => bitsNat y.word0.toNat 60 4) = some 3 then 2 else 1)
    else if t = 3 then 0
    else if bitsNat x.word0.toNat 44 16 = 0 then 1 + openRecords xs
    else 1

/-- TRACE_DRAIN's record: the records of a tick leave once the tick has passed, since one of a lower unit may still enter before them
(R451). -/
def drainOne (s : State) (core : Nat) : Option State :=
  let k := getCore s core
  if k.lastTick = s.tick ∧ k.fifo.length ≤ openRecords k.fifo.reverse then none else drainRecord s core

/-- A FIFO that receives nothing more drained while its ring has room. -/
def drainAll : Nat → State → Nat → State
  | 0, s, _ => s
  | n + 1, s, core =>
    match drainRecord s core with
    | some s => drainAll n s core
    | none => s

/-- A core leaves its context: its FIFO has drained, and tracing is off (R453). -/
def leaveCore (s : State) (core : Nat) : State :=
  updCore s core fun k => { k with owner := none, ringOn := false, shift := 0, fifo := [], needFull := false }

/-- Whether a core holds a resident pair or cohort of a context. -/
def coreBusy (s : State) (c core : Nat) : Bool :=
  s.exec.pairs.any (fun p => p.ctx == c && p.core == core && p.resident) ||
  s.exec.cohorts.any fun co => co.ctx == c && co.st != .saved && co.cores.contains core

/-- The status of CTX_CORES. -/
def coresStatus (s : State) (c : Nat) (add rem : BitVec 160) : Nat :=
  let x := getCtx s c
  if 16 ≤ c ∨ !((maskCores add).all (coreGivable s)) then 1
  else if !(x.st = .stopped ∨ (x.st = .live ∧ rem = 0)) then 3
  else if (maskCores add).any fun k => (match (getCore s k).owner with
    | some o => o != c
    | none => false) then 2
  else if (maskCores rem).any fun k => coreBusy s c k then 3
  else 0

/-- CTX_CORES: it waits until the trace FIFOs of the leaving cores have drained (R411, R453). -/
def execCtxCores (slot c : Nat) (add rem : BitVec 160) (s : State) : Host.Outcome State Fault Refusal :=
  let gone := (maskCores rem).filter fun k => (getCore s k).owner == some c
  let drained := gone.foldl (fun s k => drainAll 4096 s k) s
  let left : Bool := gone.any fun k => (getCore drained k).ringOn && !(getCore drained k).fifo.isEmpty
  let s' := giveCores (gone.foldl leaveCore drained) (maskCores add) c
  let s' := updCtx s' c fun x => { x with cores := (x.cores &&& ~~~rem) ||| add }
  if coresStatus s c add rem = 0 ∧ left then .refused .eventNotEnabled
  else command s slot served (coresStatus s c add rem) (mailDone s' slot 0)

/-! ### CTX_STOP, CTX_RESUME, CTX_END (R411, R412) -/

/-- The status 1 of a context number beyond 15, or 3 for a state that does not list the command. -/
def stateStatus (s : State) (c : Nat) (ok : List CtxState) : Nat :=
  if 16 ≤ c then 1 else if ok.contains (getCtx s c).st then 0 else 3

/-- CTX_STOP: done when nothing is resident (R411). -/
def execCtxStop (slot c : Nat) (s : State) : Host.Outcome State Fault Refusal :=
  command s slot served (stateStatus s c [.live]) (mailTake (updCtx s c fun x => { x with st := .stopping, waiting := x.waiting ++ [slot] }) slot)

/-- Whether something of a context is resident. -/
def anyResident (s : State) (c : Nat) : Bool :=
  s.exec.pairs.any (fun p => p.ctx == c && p.resident) || s.exec.cohorts.any fun co => co.ctx == c && co.st != .saved

/-- CONTEXT_STOPPED (R412). -/
def execContextStopped (c : Nat) (s : State) : Host.Outcome State Fault Refusal :=
  eventIf (c < 16 && (getCtx s c).st == .stopping && !anyResident s c)
    (finishWaiting (updCtx s c fun x => { x with st := .stopped }) c 0)

/-- CTX_RESUME (R411). -/
def execCtxResume (slot c : Nat) (s : State) : Host.Outcome State Fault Refusal :=
  command s slot served (stateStatus s c [.stopped]) (mailDone (updCtx s c fun x => { x with st := .live }) slot 0)

/-- The groups of a context that stand at boundaries end, and replay records are discarded (R184, R411). -/
def endIdleGroups (s : State) (c : Nat) : State :=
  (s.exec.groups.filter fun g => g.ctx == c && !(s.exec.runs.any fun r => r.unit ≤ 4 && r.gid == g.gid)).foldl
    (fun s g => discardEnded (if g.exited then s else groupEnd s g.gid) g.gid fun _ => true) s

/-- Saved state discarded: pairs, cohorts and their areas. -/
def discardSaved (s : State) (c : Nat) : State :=
  let saved := s.exec.pairs.filter fun p => p.ctx == c && !p.resident
  let s := saved.foldl (fun s p => removePair s p.id) s
  let s := s.onExec fun e => { e with cohorts := e.cohorts.filter fun co => !(co.ctx == c && co.st == .saved) }
  updCtx s c fun x => { x with areas := [], units := [] }

/-- The leases, regions and windows of a context gone (R153, R171, R411). The receiver of a lease that holds lanes is sent its release. -/
def dropHoldings (s : State) (c : Nat) : State :=
  let s := ((getCtx s c).leases.filter Lease.live).foldl (fun s l =>
    let s := if l.st = .pending then s else leaseOut s l.peer 5 [l.held]
    resolveCtl (endLease s c l.slot) fun o => o.onTicket c l.ticket) s
  let s := (List.range 64).foldl (fun s i => removeRegion s c i) s
  let s := s.onFabric fun x => { x with staging := x.staging.filter fun y => y.ctx != c }
  let s := (List.range 64).foldl (fun s k =>
    if ((getCtx s c).windows.getD k none).isSome then markEntry s ((getCtx s c).windowBase + 64 * k) false else s) s
  updCtx s c fun x => { x with windows := List.replicate 64 none }

/-- The launches of a context gone, with the Press streams stopped. -/
def dropLaunches (s : State) (c : Nat) : State :=
  let mine := s.exec.presses.filter fun p => ((findCohort s p.cohort).map (·.ctx)) == some c
  let s := mine.foldl (fun s p => updPress (parkStream s p) p.core p.num fun p => { p with st := .ended, cause := none, taken := none }) s
  s.onHost fun h => { h with queues := h.queues.map fun x =>
    match x.current with
    | some id => if ((findLaunch s id).map (·.ctx)) == some c then { x with current := none } else x
    | none => x }

/-- A context begins to end (R411). -/
def endContext (s : State) (c : Nat) : State :=
  let s := updCtx s c fun x => { x with st := .ending }
  dropHoldings (discardSaved (dropLaunches (endIdleGroups s c) c) c) c

/-- CTX_END: done when every operation in flight has completed (R411). -/
def execCtxEnd (slot c : Nat) (s : State) : Host.Outcome State Fault Refusal :=
  command s slot served (stateStatus s c [.live, .stopping, .stopped])
    (mailTake (endContext (updCtx s c fun x => { x with waiting := x.waiting ++ [slot] }) c) slot)

/-- Whether an operation of a context is still on its way into memory. -/
def inFlight (s : State) (c : Nat) : Bool :=
  s.exec.ops.any (fun o => o.ctx == c && !o.dormant && o.formable s && o.todo != 0) || s.exec.sigdecs.any (·.ctx == c) ||
  s.exec.presses.any fun p => !p.cmds.isEmpty && ((findCohort s p.cohort).map (·.ctx)) == some c

/-- CONTEXT_DRAINED: the context is Absent, and its cores are free (R412). -/
def execContextDrained (c : Nat) (s : State) : Host.Outcome State Fault Refusal :=
  let busy : Bool := s.exec.runs.any fun r => ((findGroup s r.gid).map (·.ctx)) == some c && r.unit ≤ 4
  let s := endIdleGroups s c
  if 16 ≤ c ∨ (getCtx s c).st ≠ .ending ∨ busy ∨ inFlight s c then .refused .eventNotEnabled
  else
    let cohorts := (s.exec.cohorts.filter fun co => co.ctx == c).map (·.id)
    let pairs := (s.exec.pairs.filter fun p => p.ctx == c).map (·.id)
    let s := pairs.foldl removePair s
    let s := s.onExec fun e =>
      { e with
        cohorts := e.cohorts.filter fun co => co.ctx != c
        presses := e.presses.filter fun p => !cohorts.contains p.cohort
        allocs := e.allocs.filter fun a => match a.owner with
          | .cohort i => !cohorts.contains i
          | _ => true
        launches := e.launches.filter fun l => l.ctx != c
        ops := e.ops.filter fun o => o.ctx != c }
    let mine := (List.range 160).filter fun k => (getCore s k).owner == some c
    let s := mine.foldl (fun s k => leaveCore (drainAll 4096 s k) k) s
    .next (finishWaiting (updCtx s c fun x => { x with st := .absent, cores := 0, debug := false }) c 0)

/-! ### INVAL and range entries (R416, R417) -/

/-- The effect of INVAL: the TLB entries and lines of a context over `[o, o + n)`; where asked, every global entry of any context, and the
shared lines of the interval (R417). -/
def invalidate (s : State) (c o n : Nat) (glob : Bool) : State :=
  let s := s.onMemory fun m =>
    { m with tlb := m.tlb.filter fun t => !((t.ctx == c && rangesMeet t.base t.size o n) || (glob && t.global)) }
  let s := evictRange s c o n
  if glob then evictRange s 16 o n else s

/-- Whether a contribution has been checked at its slice and not been performed there (R154, R417). -/
def Contrib.checked (x : Contrib) : Bool := x.st == .parked || x.st == .held || x.st == .loading || x.st == .input

/-- The contributions to an interval that were checked and are not performed. Every other access is a whole step of the model, so none is
still under way. -/
def checkedIn (s : State) (c o n : Nat) (glob : Bool) : List (Nat × Nat) :=
  s.exec.ops.flatMap fun x =>
    match x.kind with
    | .crux _ _ _ _ cs => ((List.range cs.length).zip cs).filterMap fun k =>
        if (x.ctx == c || glob) && k.2.checked && rangesMeet (vaOffset k.2.addr) 128 o n then some (x.id, k.1) else none
    | _ => []

/-- An invalidation in a mailbox slot: done at once, or when the contributions checked before it have been performed (R417). -/
def runInval (s : State) (slot c o n : Nat) (glob : Bool) : State :=
  let t := invalidate s c o n glob
  let left := checkedIn s c o n glob
  if left.isEmpty then mailDone t slot 0
  else mailTake (updCtx t c fun x => { x with invalWait := x.invalWait ++ [(slot, left)] }) slot

/-- The invalidation that waits in a mailbox slot: its context and the contributions. -/
def invalWaiting (s : State) (slot : Nat) : Option (Nat × List (Nat × Nat)) :=
  (List.range 16).findSome? fun c => ((getCtx s c).invalWait.find? fun w => w.1 == slot).map fun w => (c, w.2)

/-- A waiting invalidation is done once every contribution that it waits for has been performed (R417). -/
def invalDone (s : State) (slot c : Nat) (left : List (Nat × Nat)) : Host.Outcome State Fault Refusal :=
  eventIf (left.all fun y => ((contribAt s y.1 y.2).map fun x => !x.2.checked).getD true)
    (mailDone (updCtx s c fun x => { x with invalWait := x.invalWait.filter fun w => w.1 != slot }) slot 0)

/-- INVAL (R417): the command, and where it waits its completion by a second such event. -/
def execInval (slot c : Nat) (off len : Dword) (glob : Bool) (s : State) : Host.Outcome State Fault Refusal :=
  let bad : Bool := 16 ≤ c || off.toNat % 8192 != 0 || len.toNat % 8192 != 0
  match invalWaiting s slot with
  | some (d, left) => invalDone s slot d left
  | none =>
    command s slot served (if bad then 1 else stateStatus s c [.live, .stopping, .stopped, .ending])
      (runInval s slot c off.toNat len.toNat glob)

/-- A range entry's fields from its 32 bytes. -/
def parseRange (e : BitVec 256) : RangeEntry :=
  let f : Nat := (e.extractLsb' 128 64).toNat
  { ctx := (e.extractLsb' 192 4).toNat, base := (e.extractLsb' 0 64).toNat, limit := (e.extractLsb' 64 64).toNat,
    frame := bitsNat f 13 35 * 8192, r := f.testBit 56, w := f.testBit 57, x := f.testBit 58, global := f.testBit 59 }

/-- The checks of R416. Base and limit are offsets of 53 bits (R83), of which the limit is one more than the last. -/
def rangeOk (s : State) (e : BitVec 256) : Bool :=
  let r := parseRange e
  let f : Nat := (e.extractLsb' 128 64).toNat
  let c : Nat := (e.extractLsb' 192 64).toNat
  r.base % 8192 == 0 && r.limit % 8192 == 0 && r.base < r.limit && r.limit ≤ 2 ^ 53 && f % 8192 == 0 && bitsNat f 48 8 == 0 && bitsNat f 60 4 == 0 &&
  bitsNat c 4 59 == 0 && physExists s r.frame (r.limit - r.base)

/-- RANGE_SET (R416). -/
def execRangeSet (slot k : Nat) (e : BitVec 256) (s : State) : Host.Outcome State Fault Refusal :=
  let v : Option RangeEntry := if e.getLsbD 255 then some (parseRange e) else none
  command s slot served (if 32 ≤ k ∨ !rangeOk s e then 1 else 0)
    (mailDone (s.onMemory fun m => { m with ranges := m.ranges.set k v }) slot 0)

/-- RANGE_CLEAR: the entry is cleared, and its interval invalidated (R411), which a second such event completes where it waits. -/
def execRangeClear (slot k : Nat) (s : State) : Host.Outcome State Fault Refusal :=
  let s' := s.onMemory fun m => { m with ranges := m.ranges.set k none }
  match invalWaiting s slot with
  | some (d, left) => invalDone s slot d left
  | none =>
    command s slot served (if 32 ≤ k then 1 else 0) (match s.memory.ranges.getD k none with
      | some r => runInval s' slot r.ctx r.base (r.limit - r.base) r.global
      | none => mailDone s' slot 0)

/-! ### Regions and windows (R153, R179, R418, R419) -/

/-- The region of a table entry; none for reserved bits that are not zero. -/
def tableRegion (s : State) (a : Nat) : Option Region :=
  let w (o : Nat) : Nat := physNat s (a + o) 8
  if w 0 % 2 ^ 63 ≠ w 0 % 32 ∨ w 0x30 ≠ 0 ∨ w 0x38 ≠ 0 then none
  else some ⟨w 0 % 32, w 8, w 0x10, w 0x18, w 0x20, w 0x28, none⟩

/-- REGION_ENABLE (R153, R419). -/
def execRegionEnable (slot c k : Nat) (s : State) : Host.Outcome State Fault Refusal :=
  let a := (getCtx s c).regionBase + 64 * k
  let st := if 64 ≤ k then 1 else stateStatus s c [.live, .stopping, .stopped]
  match (tableRegion s a).bind (registerRegion s c k) with
  | some t => command s slot served st (mailDone t slot 0)
  | none => command s slot served (if st ≠ 0 then st else 4) s

/-- REGION_DISABLE (R153). -/
def execRegionDisable (slot c k : Nat) (s : State) : Host.Outcome State Fault Refusal :=
  let st := if 64 ≤ k then 1 else stateStatus s c [.live, .stopping, .stopped]
  command s slot served (if st ≠ 0 then st else if ((getCtx s c).regions.getD k none).isNone then 4 else 0)
    (mailDone (removeRegion s c k) slot 0)

/-- The window of a table entry; none for reserved bits or a field that R179 refuses. -/
def tableWindow (s : State) (c a : Nat) : Option Window :=
  let w (o : Nat) : Nat := physNat s (a + o) 8
  let h := w 0
  let m := bitsNat h 10 11
  let fmt := bitsNat h 21 5
  let list := w 0x20
  let raw := (List.range m).map fun i => physNat s (list + 2 * i) 2
  let ok : Bool := bitsNat h 26 37 == 0 && w 0x28 == 0 && w 0x30 == 0 && w 0x38 == 0 && 2 ≤ m && m ≤ 1024 && physOk s list (2 * m) &&
    raw.all (fun i => i < 1024 && (getCtx s c).members.getLsbD i) && raw.Nodup && raw.contains (h % 1024) &&
    (fmt == 8 || fmt == 9 || fmt == 0xA || fmt == 4) && w 8 % 256 == 0 && 256 ≤ w 8 && w 8 ≤ 2 ^ 24 && w 0x10 % 256 == 0 &&
    w 0x18 % 8 == 0 && w 0x10 + w 8 ≤ 2 ^ 53 && w 0x18 + 8 ≤ 2 ^ 53
  if ok then some ⟨h % 1024, raw, fmt, w 8, w 0x10, w 0x18⟩ else none

/-- Whether the staging space of the windows that this device combines, 2 × M × L bytes each, fits in its installed memory with
one more window (R179). -/
def stagingRoom (s : State) (x : Window) : Bool :=
  let size (y : Window) : Nat := if y.home = s.fabric.index then 2 * y.members.length * y.len else 0
  ((s.ctxs.flatMap fun c => c.windows.filterMap id).map size).sum + size x ≤ installedBytes s

/-- A window command that every other member has carried out (R411). -/
def windowDone (s : State) (slot c k : Nat) : State :=
  mailDone (updCtx s c fun y => { y with windowWait := y.windowWait.filter fun z => z != (slot, k) }) slot 0

/-- WINDOW_ENABLE: this member takes the entry (R179), and the command is done, by a second such event, when every member has taken it
(R411). -/
def execWindowEnable (slot c k : Nat) (s : State) : Host.Outcome State Fault Refusal :=
  let a := (getCtx s c).windowBase + 64 * k
  let st := if 64 ≤ k then 1 else stateStatus s c [.live, .stopping, .stopped]
  let taken : Bool := ((getCtx s c).windows.getD k none).isSome
  if (getCtx s c).windowWait.contains (slot, k) then .next (windowDone s slot c k)
  else match tableWindow s c a with
  | some x =>
    command s slot served (if st ≠ 0 then st else if taken || !stagingRoom s x then 4 else 0)
      (mailTake (markEntry (updCtx s c fun y => { y with windows := y.windows.set k (some x), windowWait := y.windowWait ++ [(slot, k)] }) a true) slot)
  | none => command s slot served (if st ≠ 0 then st else 4) s

/-- WINDOW_DISABLE: this member drops the entry, and the home its contributions (R179); the command is done, by a second such event, when
every member has dropped it (R411). -/
def execWindowDisable (slot c k : Nat) (s : State) : Host.Outcome State Fault Refusal :=
  let a := (getCtx s c).windowBase + 64 * k
  let st := if 64 ≤ k then 1 else stateStatus s c [.live, .stopping, .stopped]
  let s' := updCtx s c fun y => { y with windows := y.windows.set k none, windowWait := y.windowWait ++ [(slot, k)] }
  let s' := s'.onFabric fun x => { x with staging := x.staging.filter fun y => !(y.ctx == c && y.win == k) }
  if (getCtx s c).windowWait.contains (slot, k) then .next (windowDone s slot c k)
  else command s slot served (if st ≠ 0 then st else if ((getCtx s c).windows.getD k none).isNone then 4 else 0)
    (mailTake (markEntry s' a false) slot)

/-! ### Members and peers (R83, R425, R429) -/

/-- CTX_MEMBERS: the own index must be set (R425). -/
def execCtxMembers (slot c : Nat) (mask : BitVec 1024) (s : State) : Host.Outcome State Fault Refusal :=
  let st := stateStatus s c [.live, .stopping, .stopped]
  if sealQueued s c then .refused .eventNotEnabled
  else command s slot [.full] (if st ≠ 0 then st else if mask.getLsbD s.fabric.index then 0 else 1)
    (mailDone (formMembers (updCtx s c fun x => { x with members := mask }) c) slot 0)

/-- PEER_TABLE (R425, R429). -/
def execPeerTable (slot c : Nat) (base : Dword) (n : Nat) (s : State) : Host.Outcome State Fault Refusal :=
  let st := stateStatus s c [.live, .stopping, .stopped]
  let bad : Bool := base.toNat % 4096 != 0 || n == 0 || 4096 < n || !physOk s base.toNat (32 * n)
  command s slot [.full] (if st ≠ 0 then st else if bad then 1 else 0)
    (mailDone (updCtx s c fun x => { x with peerBase := base.toNat, peerCount := n }) slot 0)

end Sys2Proof.Machine
end

