-- ==== Sys2Proof/Machine/Bringup.lean ====
section
/-!
DEFINITION. Bring-up and phases, firmware images, the domain, Ultra Ethernet ports, power and temperature, the timebase and its
reference (R165 to R168, R422 to R431, R450).
-/

namespace Sys2Proof.Machine

/-! ### Firmware images (R423) -/

/-- Exactly `n` bytes of a list, with zero behind a shorter one. -/
def fitBytes (n : Nat) (bs : List Byte) : List Byte := (bs ++ List.replicate n 0).take n

/-- A little-endian field of a list of bytes. -/
def fieldOf (bs : List Byte) (off n : Nat) : Nat := leValue ((bs.drop off).take n)

/-- Whether an image passes R423 against the fused rollback counter. -/
def imagePasses (fused : Nat) (img : List Byte) : Bool :=
  let body := fieldOf img 8 8
  0x1300 + body ≤ img.length && body ≤ 2 ^ 24 && fieldOf img 6 2 == 0 && fused ≤ fieldOf img 4 2 &&
  Config.vendorVerify (sha3_512 (img.take 0x50)) ((img.drop 0x50).take 4627) &&
  sha3_512 ((img.drop 0x1300).take body) == (img.drop 0x10).take 64

/-- The slot of an image's header and bytes. -/
def slotOf (img : List Byte) : FwSlot := ⟨fieldOf img 0 4, fieldOf img 4 2, img⟩

/-- The slots in the order in which the ROM tries them: the higher version first, the first slot on a tie. -/
def romOrder (m : Mysko) : List FwSlot :=
  match m.fw with
  | [a, b] => if a.version < b.version then [b, a] else [a, b]
  | l => l

/-- The image that the ROM starts. -/
def romChoice (m : Mysko) : Option FwSlot := (romOrder m).find? fun f => imagePasses m.fused f.image

/-- The slot that FW_STAGE writes: the lower version, the second slot on a tie. -/
def stageSlot (m : Mysko) : Nat :=
  if (m.fw.getD 0 ⟨0, 0, []⟩).version < (m.fw.getD 1 ⟨0, 0, []⟩).version then 0 else 1

/-- FW_STAGE: the image in device memory, or in Recovery the pieces in the mailbox slots, is checked and written (R425). -/
def execFwStage (slot : Nat) (addr : Dword) (len : Nat) (pieces : List Byte) (s : State) : Host.Outcome State Fault Refusal :=
  let recovery : Bool := s.mysko.phase == .recovery
  let img := if recovery then pieces.take len else physBytes s addr.toNat len
  let st := if !recovery && !physOk s addr.toNat len then 1 else if imagePasses s.mysko.fused img then 0 else 6
  command s slot [.recovery, .reduced, .full] st
    (mailDone (s.onMysko fun m => { m with fw := m.fw.set (stageSlot m) (slotOf img) }) slot 0)

/-! ### Phases (R422, R425) -/

/-- A phase entered and reported on vector 16 (R422). -/
def enterPhase (s : State) (p : Phase) : State := sendMsix (s.onMysko fun m => { m with phase := p }) 16

/-- POWER_ON_RESET: everything but Mysko's flash takes its reset value; what comes from outside still comes. The
ROM starts an image, and the machine stays in Boot, or enters Recovery where no image passes, or the device was fenced (R422, R423, R442, R447). -/
def execPowerOnReset (s : State) : Host.Outcome State Fault Refusal :=
  let kept : Mysko := { Mysko.zero with fw := s.mysko.fw, fused := s.mysko.fused, sequence := s.mysko.sequence }
  let boot : State := { State.reset with mysko := kept, agenda := s.agenda }
  match romChoice kept with
  | some f =>
    if s.mysko.deviceFenced then .next (enterPhase boot .recovery)
    else .next (boot.onMysko fun m => { m with running := f.version, fused := max m.fused f.rollback })
  | none => .next (enterPhase boot .recovery)

/-- Whether the ROM has started an image. -/
def started (s : State) : Bool := s.mysko.fw.any fun f => !f.image.isEmpty && f.version == s.mysko.running

/-- STACK0_TRAINED: Reduced service (R422). -/
def execStack0Trained (s : State) : Host.Outcome State Fault Refusal :=
  eventIf (s.mysko.phase == .boot && started s)
    (enterPhase (s.onMysko fun m => { m with stacksTrained := 1 }) .reduced)

/-- Whether a context is Live. -/
def anyLive (s : State) : Bool := s.ctxs.any fun x => x.st == .live

/-- SERVICE_FULL: the contents of the memory of Reduced service are undefined from now on (R422, R425, R431). -/
def execServiceFull (slot : Nat) (s : State) : Host.Outcome State Fault Refusal :=
  let m := s.mysko
  let ready : Bool := (m.stacksTrained ||| m.stacksFenced) == BitVec.allOnes 12 && m.rings && m.selfTest && !anyLive s
  let s' := enterPhase (s.onMysko fun m => { m with clock := 1000, serviceEpoch := m.serviceEpoch + 1 }) .full
  let s' := { s' with mem := [] }.onMemory fun m => { m with l2 := [], tlb := [], l1 := [], icache := [] }
  command s slot [.reduced] (if ready then 0 else 7) (mailDone s' slot 0)

/-! ### The domain (R165, R168, R425, R426) -/

/-- The default floor of a domain of `n` devices (R168). -/
def defaultFloor (n : Nat) : Nat := if n ≤ 512 then 8 else 4

/-- A floor of the floor table. -/
def tableFloor (s : State) (floors count i : Nat) : Nat :=
  let v := physNat s (floors + 2 * i) 2
  if v = 0 then defaultFloor count else v

/-- The pairs of a device: peer, floor out, floor in. -/
def domainPairs (s : State) (index count floors : Nat) : List (Nat × Nat × Nat) :=
  ((List.range count).filter fun b => b != index).map fun b => (b, tableFloor s floors count b, tableFloor s floors count (1024 + b))

/-- The lane map read from memory. -/
def readLaneMap (s : State) (a : Nat) : List (BitVec 16) := (List.range 8192).map fun i => BitVec.ofNat 16 (physNat s (a + 2 * i) 2)

/-- Whether a lane-map entry has its reserved bits zero. -/
def laneEntryOk (e : BitVec 16) : Bool := bitsNat e.toNat 10 5 == 0

/-- The floors of R168, reachable through the valid entries of the lane map (R426). -/
def floorsOk (lanes : List (BitVec 16)) (ps : List (Nat × Nat × Nat)) : Bool :=
  let legal (f : Nat) : Bool := f % 4 == 0 && 4 ≤ f && f ≤ 2048
  lanes.all laneEntryOk && ps.all (fun p => legal p.2.1 && legal p.2.2 &&
    p.2.1 ≤ (lanes.filter fun e => e.getLsbD 15 && e.toNat % 1024 == p.1).length) &&
  (ps.map fun p => p.2.1).sum ≤ 4096 && (ps.map fun p => p.2.2).sum ≤ 4096

/-- Every context's member mask holds one device alone: outside a domain bit 0, and in a new domain the own index, until CTX_MEMBERS
installs another (R83, R422, R425). -/
def resetMasks (s : State) (index : Nat) : State :=
  { s with ctxs := s.ctxs.map fun x => { x with members := BitVec.ofNat 1024 (2 ^ index) } }

/-- No offset from a reference, and none that is slewed away (R450). -/
def clearOffset (s : State) : State :=
  s.onMysko fun m => { m with slew := 0, offset := 0, offsetSince := none, alerted := false }

/-- Every pair and lease ended. -/
def endDomain (s : State) : State :=
  let s := s.fabric.links.foldl (fun s l => dropPeerLeases s l.peer) s
  (clearOffset (resetMasks s 0)).onFabric fun x =>
    { x with formed := false, index := 0, count := 1, laneMap := [], links := [], sets := [], reqs := [], served := [], notices := [],
             rxPool := 0, txPool := 0, staging := [] }

/-- A domain installed: a link for every other device, with the floor lane sets of the pairs to it and from it. -/
def installDomain (s : State) (index count : Nat) (lanes : List (BitVec 16)) (ps : List (Nat × Nat × Nat)) : State :=
  let tick := s.tick
  (resetMasks (endDomain s) index).onFabric fun x =>
    { x with
      formed := true, index := index, count := count, laneMap := lanes
      links := ps.map fun p => ⟨p.1, p.2.1, p.2.2, p.2.1 / 4, none, 0, [], 0, 0, false⟩
      sets := ps.flatMap fun p =>
        ((List.range (p.2.1 / 4)).map fun k => LaneSet.fresh p.1 true k 0 0 tick) ++
        (List.range (p.2.2 / 4)).map fun k => LaneSet.fresh p.1 false k 0 0 tick
      rxPool := 8192 - (ps.map fun p => p.2.2).sum
      txPool := 8192 - (ps.map fun p => p.2.1).sum }

/-- A probe flit sent on every floor lane set, with the index that its answer is to carry (R426). -/
def sendProbes (s : State) (ps : List (Nat × Nat × Nat)) : State :=
  ps.foldl (fun s p => (List.range (p.2.1 / 4)).foldl (fun s k => sendOut s p.1 18 [k, p.1]) s) s

/-- DOMAIN_FORM: `mismatch` is the peer of the domain that has answered a probe with another index, if any; the probes have then been sent,
and nothing is installed (R426). -/
def execDomainForm (slot index count : Nat) (laneMap floors : Dword) (mismatch : Option Nat) (s : State) : Host.Outcome State Fault Refusal :=
  let lanes := readLaneMap s laneMap.toNat
  let ps := domainPairs s index count floors.toNat
  let bad : Bool := count == 0 || 1024 < count || count ≤ index || !physOk s laneMap.toNat 16384 || !physOk s floors.toNat 4096
  let st := if anyLive s then 7 else if bad then 1 else if !floorsOk lanes ps then 9 else 0
  match mismatch with
  | none => command s slot [.full] st (mailDone (installDomain (sendProbes s ps) index count lanes ps) slot 0)
  | some b =>
    if st = 0 && !(ps.map (·.1)).contains b then .refused .eventNotEnabled
    else command s slot [.full] st (mailDone (sendProbes s ps) slot (8 + b * 2 ^ 16))

/-- DOMAIN_LEAVE (R425). -/
def execDomainLeave (slot : Nat) (s : State) : Host.Outcome State Fault Refusal :=
  command s slot [.full] (if anyLive s then 7 else 0) (mailDone (endDomain s) slot 0)

/-! ### Scale-out ports and power settings (R425, R429, R430) -/

/-- UE_PORT: a port comes up or goes down; a fenced port stays down (R429, R447). -/
def execUePort (slot port : Nat) (entry : BitVec 512) (s : State) : Host.Outcome State Fault Refusal :=
  let bad : Bool := 8 ≤ port || entry.extractLsb' 0 63 != 0 || entry.extractLsb' 256 256 != 0 ||
    (entry.getLsbD 63 && s.mysko.fencedUnits.contains (5, port))
  command s slot [.full] (if bad then 1 else 0)
    (mailDone (s.onFabric fun x => { x with ports := x.ports.set port entry }) slot 0)

/-- POWER_SET: the new Q applies from the next refill (R430, R431). -/
def execPowerSet (slot limit q : Nat) (s : State) : Host.Outcome State Fault Refusal :=
  let bad : Bool := limit < 1200 || 3200 < limit || q < 16384 || 262144 < q
  command s slot served (if bad then 1 else 0) (mailDone (s.onMysko fun m => { m with limit := limit, q := q }) slot 0)

/-! ### Power and temperature (R430) -/

/-- The clock after a sample: down a step where the mean exceeds the limit or the junction 95 °C, up a step where the mean has been below
95 % of the limit for 1 ms. Temperatures are in 0.125 °C. -/
def clockStep (m : Mysko) : Mysko :=
  let n := m.samples.length
  let sum := m.samples.sum
  let below := if 100 * sum < 95 * m.limit * n then m.below + 1 else 0
  if m.phase ≠ .full then { m with below := 0 }
  else if m.limit * n < sum ∨ 760 < m.junction then { m with clock := max 500 (m.clock - 50), below := 0 }
  else if 10 ≤ below then { m with clock := min 1000 (m.clock + 50), below := 0 }
  else { m with below := below }

/-- POWER_SAMPLE: every 100 µs; the mean is that of the last ten samples (R430). -/
def execPowerSample (watts junction inlet : Nat) (s : State) : Host.Outcome State Fault Refusal :=
  eventIf (s.tick % 100000 == 0)
    (s.onMysko fun m => clockStep { m with samples := (watts :: m.samples).take 10, junction := junction, inlet := inlet })

/-- Every context that stands ends as under CTX_END. -/
def endAllContexts (s : State) : State :=
  (List.range 16).foldl (fun s c =>
    if [CtxState.live, .stopping, .stopped].contains (getCtx s c).st then endContext s c else s) s

/-- Whether every context is Absent. -/
def allAbsent (s : State) : Bool := s.ctxs.all fun x => x.st == .absent

/-- THERMAL_TRIP: at a junction of 110 °C every context ends as under CTX_END; once all have ended the clock stops until a reset, and the
trip is recorded (R430; log entry 68). -/
def execThermalTrip (s : State) : Host.Outcome State Fault Refusal :=
  let t := (endAllContexts s).onMysko fun m => { m with tripped := true }
  let last := allAbsent s
  let running : Bool := s.ctxs.any fun x => [CtxState.live, .stopping, .stopped].contains x.st
  let due : Bool := (!s.mysko.tripped && 880 ≤ s.mysko.junction) || (s.mysko.tripped && (last || running))
  eventIf (due && !s.mysko.stopped)
    (if last then (errorRecord t 3 6 0 15 0 0).onMysko fun m => { m with stopped := true } else t)

/-! ### The timebase (R16, R450) -/

/-- Whether this device corrects its counter: a device of a formed domain that is not the reference (R450). -/
def slews (s : State) : Bool := s.fabric.formed && s.fabric.index != 0

/-- How far the counter advances in a tick: by 0 or 2 in at most one of every 1,000 ticks while an offset is slewed away; no multiple of
1,000 is passed over, and none is counted twice, so that what is due there happens once (log entry 68). -/
def tickAdvance (s : State) : Nat :=
  let m := s.mysko
  if !slews s ∨ m.slewWait ≠ 0 ∨ m.slew = 0 then 1
  else if 0 < m.slew then (if (s.tick + 1) % 1000 = 0 then 1 else 2)
  else if s.tick % 1000 = 0 then 1 else 0

/-- One tick of the timebase. -/
def timeStep (s : State) : State :=
  let n := tickAdvance s
  if n = 1 then { s with tick := s.tick + 1 }.onMysko fun m => { m with slewWait := m.slewWait - 1 }
  else { s with tick := s.tick + n }.onMysko fun m => { m with slewWait := 999, slew := if 0 < m.slew then m.slew - 1 else m.slew + 1 }

/-- TIME_EXCHANGE: the offset from the reference, in ticks, and the slewing that removes it (R450). -/
def execTimeExchange (offset : Int) (s : State) : Host.Outcome State Fault Refusal :=
  let far : Bool := 100 < offset || offset < -100
  eventIf (slews s && s.tick % 100000 == 0)
    (s.onMysko fun m =>
      { m with offset := offset, slew := -offset, alerted := far && m.alerted,
               offsetSince := if far then some (m.offsetSince.getD s.tick) else none })

/-- TIME_OFFSET_ALERT: the offset has exceeded 100 ns for more than 10 ms (R450). -/
def execTimeOffsetAlert (s : State) : Host.Outcome State Fault Refusal :=
  eventIf (slews s && !s.mysko.alerted && match s.mysko.offsetSince with
    | some t => t + 10000000 < s.tick
    | none => false)
    (errorRecord (setEvent (s.onMysko fun m => { m with alerted := true }) 3) 2 6 0 15 0 0)

end Sys2Proof.Machine
end

