-- ==== Sys2Proof/Machine/Records.lean ====
section
/-!
DEFINITION. Hallmark and membership records, error reports and fencing, trace and sampling, and the debugger's commands
(R351, R432 to R456).
-/

namespace Sys2Proof.Machine

/-! ### Records (R438 to R442) -/

/-- The header word of a record (R439). -/
def recordHeader (s : State) (c type : Nat) : Nat :=
  s.fabric.index * 2 ^ 32 + (if (getCtx s c).st = .absent then 2 ^ 28 else 0) + c * 2 ^ 24 + type * 2 ^ 16 + 1

/-- The entries of a context's member list (R440). -/
def memberEntries (x : Ctx) : List Byte := x.memberKeys.flatMap fun m => leBytes 2 m.1 ++ fitBytes 64 m.2

/-- The member-list digest (R440). -/
def memberListDigest (x : Ctx) : List Byte :=
  fitBytes 64 (sha3_512 (leBytes 32 x.job.toNat ++ leBytes 2 x.memberKeys.length ++ memberEntries x))

/-- The digest of this device's identity key. -/
def ownDigest : List Byte := fitBytes 64 (sha3_512 Config.identityKey)

/-- A signature over the bytes before it (R442). -/
def signatureOf (bs : List Byte) : List Byte := fitBytes 4627 (Config.sign (sha3_512 bs))

/-- A Hallmark record with a sequence number (R438). -/
def hallmarkBytes (s : State) (c seq : Nat) : List Byte :=
  let x := getCtx s c
  let body := le8 (recordHeader s c 1) ++ le8 seq ++ le8 s.tick ++ le8 x.createTick ++ le8 x.formTick ++ le8 x.prevSeq ++
    leBytes 32 x.job.toNat ++ memberListDigest x ++ ownDigest ++ le8 x.satMask.toNat ++ List.replicate 40 0 ++
    x.counters.flatMap le8
  body ++ signatureOf body ++ List.replicate 237 0

/-- The bytes of a membership record before its signature, for a list of `m` entries (R441). -/
def membershipSize (m : Nat) : Nat := 0x100 + 8 * ((66 * m + 7) / 8)

/-- A membership record with a sequence number (R441). -/
def membershipBytes (s : State) (c seq : Nat) : List Byte :=
  let x := getCtx s c
  let n := x.memberKeys.length
  let body := fitBytes (membershipSize n)
    (le8 (recordHeader s c 2) ++ le8 seq ++ le8 s.tick ++ le8 x.formTick ++ leBytes 32 x.job.toNat ++ memberListDigest x ++ ownDigest ++
      leBytes 2 n ++ List.replicate 62 0 ++ memberEntries x)
  body ++ signatureOf body ++ List.replicate 5 0

/-- The next sequence number, which no record has had (R442). -/
def nextSequence (s : State) : Nat × State :=
  let n := s.mysko.sequence + 1
  (n, s.onMysko fun m => { m with sequence := n })

/-! ### SEAL_PERFORM (R351, R437, R444) -/

/-- A request of HMSEAL performed: the record is written under the context's translation, then the signal is decremented. Where the
record's write or the signal's is refused, the fault is returned, and nothing is written or decremented (R351, R408). -/
def sealGroup (s : State) (o : Op) (signal : Dword) : State :=
  let (n, s) := nextSequence s
  let off := vaOffset (o.addrs.get 0)
  let bs := hallmarkBytes s o.ctx n
  let t : Except Miss State :=
    match (if off + bs.length ≤ 2 ^ 53 then storeBytes s o.ctx off bs else .error addrFault) with
    | .error e => .error e
    | .ok t => (signalLower t o.ctx signal 1).map fun _ => t
  match t with
  | .error e => updOp s o.id fun o => { o with todo := 0, faulted := 1, cause := e.code, marks := e.marks }
  | .ok t =>
    let t := (lineShares off bs.length).foldl (fun t l => touchLine (snoop t o.ctx (128 * l.1) 1 none) o.ctx l.1 hostParty) t
    let t := updCtx t o.ctx fun x => { x with prevSeq := n }
    finishOp (updOp (sendDec t o.ctx signal 3 n) o.id fun o => { o with todo := 0, done := 1 }) o.id

/-- SEAL_PERFORM: the oldest request of Mysko's queue; that of a group waits until the accesses before it are performed (R351). -/
def execSealPerform (s : State) : Host.Outcome State Fault Refusal :=
  match s.mysko.seals with
  | [] => .refused .eventNotEnabled
  | q :: qs =>
    let t := s.onMysko fun m => { m with seals := qs }
    match q with
    | .hmseal id =>
      (match findOp s id with
       | none => .next t
       | some o =>
         match o.kind with
         | .hmseal signal => if o.after.all (opPerformed s) then .next (sealGroup t o signal) else .refused .eventNotEnabled
         | _ => .next t)
    | .hmSeal slot c dst =>
      let (n, t) := nextSequence t
      let t := physWrite t dst.toNat (hallmarkBytes t c n)
      .next (mailDone (updCtx t c fun x => { x with prevSeq := n }) slot 0)
    | .domAttest slot c dst =>
      let (n, t) := nextSequence t
      .next (mailDone (physWrite t dst.toNat (membershipBytes t c n)) slot 0)

/-! ### Mailbox commands (R437) -/

/-- The status of a command on a context that must have been created. -/
def createdStatus (s : State) (c : Nat) : Nat := if 16 ≤ c then 1 else if (getCtx s c).created then 0 else 3

/-- Whether a destination is a multiple of 8 with room for `n` bytes. -/
def destOk (s : State) (dst : Dword) (n : Nat) : Bool := dst.toNat % 8 == 0 && physOk s dst.toNat n

/-- JOB_SET (R437, R440). -/
def execJobSet (slot c : Nat) (job : BitVec 256) (s : State) : Host.Outcome State Fault Refusal :=
  let st := if createdStatus s c ≠ 0 then createdStatus s c else stateStatus s c [.live, .stopping, .stopped]
  if sealQueued s c then .refused .eventNotEnabled
  else command s slot served st (mailDone (formMembers (updCtx s c fun x => { x with job := job }) c) slot 0)

/-- HM_READ: a snapshot in the mailbox (R437). -/
def execHmRead (slot c : Nat) (s : State) : Host.Outcome State Fault Refusal :=
  let x := getCtx s c
  let ws := [(0x010, x.satMask)] ++ ((List.range 64).map fun n => (0x018 + 8 * n, BitVec.ofNat 64 (x.counters.getD n 0))) ++
    [(0x218, BitVec.ofNat 64 s.tick)]
  command s slot served (createdStatus s c) (mailReply s slot ws)

/-- A request for Mysko's queue of 64; it waits while the queue is full. -/
def queueSeal (s : State) (slot status : Nat) (q : SealReq) : Host.Outcome State Fault Refusal :=
  if status = 0 ∧ barUp s ∧ 64 ≤ s.mysko.seals.length then .refused .eventNotEnabled
  else command s slot served status (mailTake (s.onMysko fun m => { m with seals := m.seals ++ [q] }) slot)

/-- HM_SEAL (R437, R438). -/
def execHmSeal (slot c : Nat) (dst : Dword) (s : State) : Host.Outcome State Fault Refusal :=
  let st := createdStatus s c
  queueSeal s slot (if st ≠ 0 then st else if destOk s dst 5632 then 0 else 1) (.hmSeal slot c dst)

/-- DOM_ATTEST (R437, R441). -/
def execDomAttest (slot c : Nat) (dst : Dword) (s : State) : Host.Outcome State Fault Refusal :=
  let st := createdStatus s c
  let n := membershipSize (getCtx s c).memberKeys.length + 4632
  queueSeal s slot (if st ≠ 0 then st else if destOk s dst n then 0 else 1) (.domAttest slot c dst)

/-- ID_READ: the identity block (R437). -/
def execIdRead (slot : Nat) (dst : Dword) (s : State) : Host.Outcome State Fault Refusal :=
  let bs := fitBytes 2592 Config.identityKey ++ fitBytes 16 Config.serial ++ fitBytes 4627 Config.endorsement
  command s slot served (if destOk s dst bs.length then 0 else 1) (mailDone (physWrite s dst.toNat bs) slot 0)

/-! ### Errors and fencing (R446, R447, R449) -/

/-- The bytes of an error record. -/
def ErrRec.bytes (r : ErrRec) : List Byte := le8 r.tick.toNat ++ le8 r.what.toNat ++ le8 r.addr.toNat ++ le8 r.struct.toNat

/-- ERR_READ: the newest records, newest first; the log and the lost count are cleared (R453). -/
def execErrRead (slot : Nat) (dst : Dword) (n : Nat) (s : State) : Host.Outcome State Fault Refusal :=
  let bad : Bool := n == 0 || 1024 < n || !destOk s dst (32 * n)
  let t := physWrite s dst.toNat ((s.mysko.log.reverse.take n).flatMap ErrRec.bytes)
  let t := t.onMysko fun m => { m with log := [], lost := 0 }
  command s slot served (if bad then 1 else 0) (mailDone t slot (s.mysko.lost * 2 ^ 8))

/-- The pairs resident on a core, and the members of the cohorts placed there. -/
def pairsOn (s : State) (core : Nat) : List Nat :=
  (s.exec.pairs.filter fun p => p.resident && (p.core == core || (match p.cohort.bind (findCohort s) with
    | some co => co.cores.contains core
    | none => false))).map (·.id)

/-- A group ended by fencing, with its record of type 0x0C; the run that it issues is given up (R447, R448). -/
def endFenced (s : State) (core : Nat) (g : Group) : State :=
  let s := (s.exec.runs.filter fun r => r.unit ≤ 4 && r.gid == g.gid).foldl (fun s r => freeUnit s r.core r.unit) s
  groupEnd (faultRecord s g.ctx { type := 0x0C, group := some (g, 0), d0 := 1, d1 := core }) g.gid

/-- Some Press streams ended. -/
def endStreams (s : State) (ps : List PressCtx) : State :=
  ps.foldl (fun s p =>
    let s := p.cmds.foldl (fun s c => scoreLeave s c.id) (parkStream s p)
    updPress s p.core p.num fun p => { p with st := .ended, cmds := [], cause := none, taken := none }) s

/-- Whether what holds a pair, the pair itself or its cluster cohort, is named among what has passed its checks (R447). -/
def savedPassed (passed : List Nat) (p : Pair) : Bool := passed.contains (p.cohort.getD p.id)

/-- A core fenced: each pair and each cohort that it holds is pre-empted later where its saved state passed its checks, and ends otherwise,
a cohort with its streams on every core; the core leaves its context (R447). -/
def fenceCore (s : State) (core : Nat) (passed : List Nat) : State :=
  let owner := (getCore s core).owner
  let s := updCore s core fun k => { k with fenced := true }
  let lost := (pairsOn s core).filter fun k => (findPair s k).any fun p => !savedPassed passed p
  let gs := s.exec.groups.filter fun g => !g.exited && lost.contains g.pair
  let cohorts := lost.filterMap fun k => (findPair s k).bind (·.cohort)
  let s := endStreams (gs.foldl (fun s g => endFenced s core g) s) (s.exec.presses.filter fun p => cohorts.contains p.cohort)
  match owner with
  | none => s
  | some c => updCtx (leaveCore (drainAll 4096 s core) core) c fun x => { x with cores := x.cores &&& ~~~(1#160 <<< core) }

/-- The unit of a lasting failure fenced (R447). A slice's part is its failing data way; a pair's is its receiving end. -/
def fence (s : State) (r : ErrReport) : State :=
  match r.kind with
  | 1 => fenceCore s r.unit r.passed
  | 2 =>
    (match r.part with
     | some w => s.onMysko fun m => { m with fencedUnits := (2, r.unit * 65536 + w) :: m.fencedUnits }
     | none => (endAllContexts s).onMysko fun m => { m with deviceFenced := true })
  | 3 =>
    let frame := r.addr.toNat / 8192
    let s := (s.memory.l2.filter fun l => l.frame / 64 == frame).foldl l2Leave s
    s.onMysko fun m => { m with badFrames := frame :: m.badFrames }
  | 4 =>
    fenceSet s r.unit r.addr.toNat r.part.isSome
  | 5 =>
    (s.onFabric fun x => { x with ports := x.ports.modify r.unit fun p => p &&& ~~~(1#512 <<< 63) }).onMysko fun m =>
      { m with fencedUnits := (5, r.unit) :: m.fencedUnits }
  | _ => s

/-- Whether the training and the self-test of bring-up have still to end (R422). -/
def bringupOpen (s : State) : Bool :=
  s.mysko.phase == .reduced && (s.mysko.stacksTrained ||| s.mysko.stacksFenced) != BitVec.allOnes 12

/-- BRINGUP_COMPLETE: the stacks that have trained, and what the calibration and the self-test have found. What has
failed is fenced: the stacks, the cores, and with a Crucible the device (R422, R447). -/
def execBringupComplete (hbm : BitVec 12) (found : SelfTests) (s : State) : Host.Outcome State Fault Refusal :=
  let t := s.mysko.stacksTrained ||| hbm
  let s' := s.onMysko fun m => { m with stacksTrained := t, stacksFenced := ~~~t, rings := found.rings, selfTest := found.crucibles }
  let s' := ((List.range 160).filter fun k => !found.cores.getLsbD k).foldl (fun s k => fenceCore s k (pairsOn s k)) s'
  let s' := if found.crucibles then s' else (endAllContexts s').onMysko fun m => { m with deviceFenced := true }
  eventIf (bringupOpen s) s'

/-- The unit of a report among those of its kind; of a peer's lane sets each end of each set is one (R446). -/
def reportUnit (r : ErrReport) : Nat :=
  if r.kind = 4 then (r.unit * 65536 + r.addr.toNat % 65536) * 2 + (if r.part.isSome then 1 else 0) else r.unit

/-- ERROR_REPORT: a corrected error is counted, and recorded when the unit's count in one hour passes 1,000; a transient and a lasting one
are recorded, and the unit of a lasting one is fenced (R446). -/
def execErrorReport (r : ErrReport) (s : State) : Host.Outcome State Fault Refusal :=
  let legal : Bool := 1 ≤ r.cls && r.cls ≤ 3 && 1 ≤ r.kind && r.kind ≤ 6 && 1 ≤ r.struct && r.struct ≤ 7 && r.unit < 2 ^ 16 && r.ctx < 16
  let log (s : State) : State := errorRecord s r.cls r.kind r.unit r.ctx r.addr r.struct
  if !legal || s.mysko.phase == .boot then .refused .eventNotEnabled
  else if r.cls = 1 then
    let kept := (r.kind, reportUnit r, s.tick) :: s.mysko.corrected.filter fun e => s.tick < e.2.2 + 3600000000000
    let n := (kept.filter fun e => e.1 == r.kind && e.2.1 == reportUnit r).length
    let s := s.onMysko fun m => { m with corrected := kept }
    .next (if n = 1001 then log s else s)
  else if r.cls = 2 then .next (log s)
  else .next (fence (log s) r)

/-! ### Trace and sampling (R451 to R455) -/

/-- TRACE_SET: the FIFO drains into the ring from now on (R452, R453). -/
def execTraceSet (slot core : Nat) (base : Dword) (cap shift : Nat) (s : State) : Host.Outcome State Fault Refusal :=
  let bad : Bool := 160 ≤ core || base.toNat % 4096 != 0 || base.toNat < 4096 || cap < 7 || 20 < cap || !physOk s base.toNat (32 * 2 ^ cap) ||
    !(shift == 0 || (10 ≤ shift && shift ≤ 20))
  let t := physWrite s (base.toNat - 8) (leBytes 4 0)
  let t := updCore t core fun k =>
    { k with ringBase := base.toNat, ringLog := cap, ringOn := true, ringIndex := 0, shift := shift, needFull := true }
  command s slot served (if bad then 1 else 0) (mailDone t slot 0)

/-- TRACE_DRAIN (R453). -/
def execTraceDrain (core : Nat) (s : State) : Host.Outcome State Fault Refusal := event (drainOne s core)

/-- The code of a waiting instruction (R455). -/
def waitCode : Instr → Option Nat
  | .waitc _ => some 5
  | .waitw _ => some 6
  | .swait _ => some 7
  | .waitsig _ => some 8
  | .hwait _ => some 9
  | .cwait _ => some 10
  | .gawait _ => some 11
  | .sqget _ => some 12
  | .grow _ => some 13
  | _ => none

/-- What the effective lanes of a head give, in order. -/
def Slot.perLane (sl : Slot) (guard : Guard) (f : Nat → List Dword) : List Dword :=
  ((List.range 64).filter fun i => (sl.eff guard).getLsbD i).flatMap f

/-- The addresses of global memory that a head's effective lanes name, or its one address (R279, R281, R298). -/
def headAddrs (sl : Slot) : Instr → List Dword
  | .ldp f => sl.perLane f.guard fun i => [sl.uni64 0 f.a + BitVec.ofInt 64 (sextOff f.off) + BitVec.ofNat 64 (i * 2 ^ f.width.toNat)]
  | .grld f => sl.perLane f.guard fun i =>
    (List.range (min (sl.uni32 0 f.c).toNat 64)).map fun p => grldAddr (sl.uni64 0 f.a) (grldPitch f) (2 ^ f.width.toNat) (sl.lanes 0 f.b) p i
  | .sigdec f => [sl.signalAddr f]
  | i => match parts i with
    | some (_, _, .m f) => sl.perLane f.guard fun k => [sl.gaddr f k]
    | _ => []

/-- The counter under which a head would be counted (R115). -/
def headClass (s : State) (sl : Slot) (i : Instr) : Option OcClass :=
  let far : Option OcClass := if (headAddrs sl i).any fun a => !vaLocal s a then some .fab else none
  match parts i with
  | some (M, m, b) =>
    match M, m with
    | 0x80, 3 => none
    | 0x80, _ => far
    | 0x81, _ => far
    | 0x84, _ => if b.head.dst.nwb then far else some .atom
    | 0x85, 0 => if b.head.dst.nwb then far else some .atom
    | 0x85, _ => some .mx
    | 0x88, 0 => far
    | 0x89, _ => some .copy
    | 0x8B, 0 => some .ctl
    | 0x8B, 1 => some .ctl
    | 0x8B, 4 => some .ctl
    | 0x8B, _ => some .fab
    | _, _ => none
  | none => none

/-- The reasons that hold a path's head, as far as the machine's state shows them (R455). -/
def headReasons (s : State) (g : Group) (pr : Pair) (e : Nat) (slots : List (Dword × Instr)) : List Nat :=
  match slots with
  | [] => []
  | (_, i) :: _ =>
    let sl := headSlot g pr e slots
    let long := if hazardHolds s g slots then [4] else []
    let wait := if headOpen s sl i then [] else (waitCode i).toList
    match parts i with
    | none => long ++ wait
    | some (M, m, b) =>
      let fronts := (srcPorts b (rolesOf M m b)).map fun q => (pr.queue q).entries.head?
      let filling (held : Bool) : Bool := fronts.any fun f => match f with
        | some x => x.st == .filling && x.held == held
        | none => false
      let full : Bool := match dstPort b.head.dst (rolesOf M m b).d with
        | none => false
        | some q =>
          if M = 0x81 then (pr.queue q).depth ≤ (pr.queue q).addrs.length else (pr.queue q).depth ≤ (pr.queue q).entries.length
      let limit : Bool := ocFull g (headClass s sl i) ||
        (match i with
         | .hmseal _ => 64 ≤ s.mysko.seals.length
         | _ => false)
      (if fronts.contains none then [1] else []) ++ (if full then [2] else []) ++ (if filling false then [3] else []) ++ long ++ wait ++
        (if limit then [26] else []) ++ (if filling true then [27] else [])

/-- The first reason, in code order, that holds a path. -/
def holdReason (s : State) (g : Group) (pr : Pair) (e : Nat) : Nat :=
  let p := g.path e
  if p.st = .parked ∧ !p.stopped then 14
  else
    let head := match standing s g pr e with
      | some slots => headReasons s g pr e slots
      | none => []
    let sibling : Bool := g.sup.isSome && g.sup != some e && g.pending.any fun x => x.1 == e
    let stolen : Bool := (schedOf s g.core (if g.stream = .access then 4 else g.part)).taken
    let late := (if stolen then [20] else []) ++ (if sibling then [24] else []) ++ (if p.stopped then [25] else [])
    let early := head.filter fun n => n < 24
    ((early ++ late ++ head.filter fun n => 24 ≤ n).head?).getD 30

/-- The group that a unit samples: the next in rotation by slot. -/
def sampledGroup (s : State) (core unit : Nat) : Option (Group × Pair) :=
  let from_ := (schedOf s core unit).sampled
  let key (x : Group × Pair) : Nat := if from_ ≤ x.1.slot then x.1.slot else x.1.slot + 64
  match unitMembers s core unit with
  | [] => none
  | x :: xs => some (xs.foldl (fun b y => if key y < key b then y else b) x)

/-- One unit's sample record (R451, R454). -/
def sampleUnit (s : State) (core unit : Nat) : State :=
  match sampledGroup s core unit with
  | none => traceEnter s core (4 * 2 ^ 60 + unit * 2 ^ 37 + 31 * 2 ^ 31) 0 0 0xFFFFFFFF
  | some (g, pr) =>
    let issued := match (schedOf s core unit).issued with
      | some (gid, e) => if gid = g.gid then some e else none
      | none => none
    let e := issued.getD (((List.range 16).find? fun e => (g.path e).st != .free).getD 0)
    let tail := match issued with
      | some _ => 2 ^ 36
      | none => holdReason s g pr e * 2 ^ 31
    let pc := match findRun s core unit with
      | some r => if r.gid = g.gid ∧ r.entry = e then ((r.slots[r.idx]?).map (·.1)).getD (g.path e).pc else (g.path e).pc
      | none => (g.path e).pc
    let s := updSched s core unit fun u => { u with sampled := g.slot + 1 }
    traceEnter s core (4 * 2 ^ 60 + e % 16 * 2 ^ 40 + unit * 2 ^ 37 + tail) pc (g.path e).exec (BitVec.ofNat 64 (g.index % 2 ^ 32))

/-- TRACE_SAMPLE: every 2^s cycles each partition and the Ladle sample one group, at the end of the cycle: none of them issues in it
after that (R454). -/
def execTraceSample (core : Nat) (s : State) : Host.Outcome State Fault Refusal :=
  let k := getCore s core
  eventIf (core < 160 && k.shift != 0 && s.exec.cycle % 2 ^ k.shift == 0 && k.sampledAt != some s.exec.cycle)
    (updCore ((List.range 5).foldl (fun s u => sampleUnit s core u)
        { s with issuer := s.issuer.filter fun x => x.1 != core || 4 < x.2 }) core fun k => { k with sampledAt := some s.exec.cycle })

/-! ### The debugger (R341, R453, R456) -/

/-- DEBUG_SET (R453). -/
def execDebugSet (slot c : Nat) (on : Bool) (base : Dword) (s : State) : Host.Outcome State Fault Refusal :=
  let bad : Bool := on && (base.toNat % 4096 != 0 || !physOk s base.toNat 4096)
  let st := if 16 ≤ c ∨ bad then 1 else stateStatus s c [.live, .stopping, .stopped]
  command s slot served st
    (mailDone (updCtx s c fun x => { x with debug := on, debugBase := if on then base.toNat else x.debugBase,
                                            debugIndex := if on then 0 else x.debugIndex }) slot 0)

/-- The group of a context that the debugger names. -/
def debugGroup (s : State) (c index : Nat) (stream : Stream) : Option Group :=
  s.exec.groups.find? fun g => g.ctx == c && g.index == index && g.stream == stream && !g.exited

/-- The status of a command that names a path: 1 for what does not exist. -/
def pathStatus (s : State) (c index : Nat) (stream : Stream) (entry : Nat) : Nat :=
  if 16 ≤ c ∨ 16 ≤ entry then 1
  else
    match debugGroup s c index stream with
    | some g => if (g.path entry).st = .free then 1 else 0
    | none => 1

/-- Whether a group is resident. -/
def residentGroup (s : State) (g : Group) : Bool := ((findPair s g.pair).map (·.resident)).getD false

/-- The address of a saved group's path word (R71). -/
def savedPathWord (s : State) (g : Group) (entry : Nat) : Option Nat :=
  ((findPair s g.pair).bind fun p => if p.resident then none else p.area).map fun k =>
    areaBase (getCtx s g.ctx) k + (if g.stream = .access then 0x10000 else 0) + 0x118 + 32 * entry

/-- DEBUG_STOP: a path that stands at a boundary stops there, and any other at its next one (R456). -/
def execDebugStop (slot c group : Nat) (stream : Stream) (entry : Nat) (s : State) : Host.Outcome State Fault Refusal :=
  let st := pathStatus s c group stream entry
  let st := if st ≠ 0 then st else if (getCtx s c).debug then 0 else 3
  let t := match debugGroup s c group stream with
    | none => s
    | some g =>
      let p := g.path entry
      if p.stopped then s
      else if pathBusy s g.gid entry then updPath s g.gid entry fun p => { p with stopAsked := true }
      else
        let s := debugStop s g.gid entry (2 ^ 32 - 1) p.pc
        match savedPathWord s g entry with
        | none => s
        | some a => physWrite s a (le8 (2 * 64 + 256 + physNat s a 8 % 64))
  command s slot served st (mailDone t slot 0)

/-- The Press stream that the debugger names by a member of its cohort: the one on the member's core, or the saved one (log entry 96). -/
def debugPress (s : State) (c index : Nat) : Option PressCtx :=
  match s.exec.groups.find? fun g => g.ctx == c && g.index == index with
  | none => none
  | some g => ((findPair s g.pair).bind (·.cohort)).bind fun co =>
    (s.exec.presses ++ ((findCohort s co).map (·.streams)).getD []).find? fun p => p.cohort == co && p.core == g.core

/-- A stopped Press stream goes on; one whose cause awaits its handler stays stopped until that returns (R53). -/
def pressRelease (s : State) (p : PressCtx) : State :=
  let go (p : PressCtx) : PressCtx := { p with st := if p.cause.isSome || p.taken.isSome then .stopped else .running }
  if s.exec.presses.any fun x => x.cohort == p.cohort && x.core == p.core then updPress s p.core p.num go
  else updCohort s p.cohort fun c => { c with streams := c.streams.map fun x => if x.core == p.core then go x else x }

/-- DEBUG_RELEASE: the stopped path becomes ready (R453); of a saved group it becomes so in its area; a stopped Press stream goes on
(R341). -/
def execDebugRelease (slot c group : Nat) (stream : Stream) (entry : Nat) (s : State) : Host.Outcome State Fault Refusal :=
  if stream = .press then
    match (if c < 16 then debugPress s c group else none) with
    | none => command s slot served 1 s
    | some p => command s slot served (if p.st = .debugStopped then 0 else 3) (mailDone (pressRelease s p) slot 0)
  else
    let g := debugGroup s c group stream
    let stopped : Bool := match g with
      | some g => (g.path entry).stopped
      | none => false
    let st := pathStatus s c group stream entry
    let t := match g with
      | none => s
      | some g =>
        let s := updPath s g.gid entry fun p => { p with st := .ready, stopped := false }
        match savedPathWord s g entry with
        | none => s
        | some a => physWrite s a (le8 (64 + physNat s a 8 % 64))
    command s slot served (if st ≠ 0 then st else if stopped then 0 else 3) (mailDone t slot 0)

/-- The bytes of a twin part. -/
def partSize (g : Group) : Nat := if g.stream = .access then 0x9000 else 0x10000

/-- DEBUG_DUMP: the twin part of a stopped path's group, read from the save area where the group is saved (R456). -/
def execDebugDump (slot c group : Nat) (stream : Stream) (entry : Nat) (dst : Dword) (s : State) : Host.Outcome State Fault Refusal :=
  match debugGroup s c group stream with
  | none => command s slot served 1 s
  | some g =>
    let st := pathStatus s c group stream entry
    let st := if st ≠ 0 then st else if !destOk s dst (partSize g) then 1 else if (g.path entry).stopped then 0 else 3
    let t := match savedPathWord s g 0 with
      | some a => physWrite s dst.toNat (physBytes s (a - 0x118) (partSize g))
      | none =>
        let lod := ((findPair s g.pair).map (·.lod)).getD 0
        writeChunks (zeroRange s dst.toNat (partSize g)) dst.toNat (partChunks g lod)
    command s slot served st (mailDone t slot 0)

end Sys2Proof.Machine
end

