-- ==== Sys2Proof/Machine/Clock.lean ====
section
/-!
DEFINITION. Who moves next: the instruction of the issuing unit, the operations and events that the device can do by itself in a
tick, the passing of a tick, and the state that holds a given instruction word at its next fetch (R16, R30, R42, R47, R68, R434, R450).
-/

namespace Sys2Proof.Machine

/-! ### The issuing unit -/

/-- The instruction in the slot that the issuing unit has reached. -/
def issuerInstr (s : State) : Option Instr :=
  match s.issuer with
  | none => none
  | some (c, u) =>
    match findRun s c u with
    | none => none
    | some r => (r.slots[r.idx]?).map (·.2)

/-- A unit that was to issue and holds no run fetches the run of its path, and may then issue its head in the same step. -/
def issuerFetch (s : State) : State :=
  match s.issuer with
  | none => s
  | some (c, u) => (fetchChosen s c u).getD { s with issuer := none }

/-! ### What the device does by itself -/

/-- Something that the machine does: the meaning of an operation or event with its arguments. -/
abbrev Move := State → Host.Outcome State Fault Refusal

/-- The units with resident groups. -/
def busyUnits (s : State) : List (Nat × Nat) :=
  ((s.exec.groups.filter fun g => !g.exited).map fun g => (g.core, if g.stream = .access then 4 else g.part)).eraseDups

/-- What an operation in flight may do here. What another device answers comes from the agenda. -/
def opMoves (s : State) (o : Op) : List Move :=
  let own : Bool := o.remote == 0 && (match o.kind with
    | .rgetQueue _ => false
    | .rgetSpad .. => false
    | _ => true)
  let lane := match o.kind.laneAtHome, o.allLeft.find? fun x => o.isHere s x.1 x.2.2 with
    | true, some x => [execHomeSliceAccess o.id (x.1 + 64 * x.2.1)]
    | _, _ => []
  let back := (if own || o.todo == 0 then [execLoadDataReturn o.id []] else []) ++
    (if own then [execAcknowledgementReturn o.id] else []) ++ [execFaultReturn o.id 0 0 0]
  let special : List Move := match o.kind with
    | .copy _ => if own then [execCopyComplete o.id []] else []
    | .harrive _ => [execHoopArrivalCount o.id]
    | .crux _ _ _ _ cs => if own then (List.range cs.length).map fun k => execCrucibleArrival o.id k else []
    | .nmop _ => if own then [execHomeAgentOp o.id] else []
    | .launch _ => [execLaunchPacketRead o.id]
    | .mapft => if own then [execMapftExecute o.id] else if pairDown s (vaOwner (o.addrs.get 0)) then [execLoadDataReturn o.id []] else []
    | .xfence .. => [execXfenceComplete o.id]
    | .stmr w q _ =>
      if own then
        let m := match (getCtx s o.ctx).windows.getD w none with
          | some x => x.members.findIdx fun d => d == s.fabric.index
          | none => 0
        [execMrContribution o.ctx w m (q / 128) [], execMrContribution o.ctx w m (q / 128 + 1) [], execMrResend o.id]
      else []
    | _ => []
  lane ++ special ++ back

/-- What a waiting path may do. -/
def pathMoves (s : State) (g : Group) : List Move :=
  (List.range 16).flatMap fun e =>
    let p := g.path e
    if p.st = .free then []
    else
      (if promotionDue p then [execPathPromotion g.gid e] else []) ++
      (match p.watch with
       | some (.signal a _ _) =>
         [execWatchMatch g.gid e] ++ (if (vaLocal s a ∨ pairDown s (vaOwner a)) ∧ s.tick % 1000 = 0 then [execWaitsigPoll g.gid e 0 0] else [])
       | some _ => [execWatchMatch g.gid e]
       | none => []) ++
      (if p.deadline.isSome then [execSwaitDeadline g.gid e] else [])

/-- What a pair may do. -/
def pairMoves (p : Pair) : List Move :=
  (((List.range p.queues.length).filter fun q => (p.queue q).kind == 1 && (p.queue q).addrs != []).map fun q =>
    execStoreUnitStore p.id q) ++
  (if 4096 ≤ p.idle then [execQdead p.id] else []) ++
  (match p.cohort with
   | some _ => []
   | none => [execPreemption (.pair p.id), execRetirement (.pair p.id)]) ++ [execCwaitPreemption p.id]

/-- The cores of a context, from which placement takes the first that fits. -/
def coresOf (s : State) (c : Nat) : List Nat := (List.range 160).filter fun k => (getCore s k).owner == some c

/-- What the distributor and the queues may do. -/
def placeMoves (s : State) : List Move :=
  ((List.range 64).flatMap fun q =>
    let x := getQueue s q
    (if x.enable && x.rd != x.wr && x.current.isNone then [execPacketRead q] else []) ++
    (match x.current with
     | some l => (if ((findLaunch s l).map fun x => x.deps.all fun d => vaLocal s d.1).getD false then [execDependenceMet l] else []) ++
         [execPriorityStarvation q] ++ (coresOf s x.ctx).map fun k => execPlacement (.queue q) k 0
     | none => [])) ++
  (s.exec.pairs.flatMap fun p =>
    if p.resident ∨ p.cohort.isSome then [] else (coresOf s p.ctx).map fun k => execPlacement (.pair p.id) k 0) ++
  s.exec.cohorts.flatMap fun co =>
    (if co.st = .saved then (coresOf s co.ctx).map fun k => execPlacement (.cohort co.id) k 0 else []) ++
    [execPreemption (.cohort co.id), execRetirement (.cohort co.id)]

/-- What the Press of each core may do. -/
def pressMoves (s : State) : List Move :=
  (s.exec.presses.flatMap fun p =>
    p.cmds.map (fun c => execPressCommandFinish c.id) ++ (if p.cause.isSome then [execPressCauseDelivery p.core p.num] else [])) ++
  ((s.exec.presses.map (·.core)).eraseDups.map fun k => execPressArbitration k) ++
  ((s.exec.score.map (·.core)).eraseDups.map fun k => execScoreboardGrant k)

/-- What the fabric may do by itself. -/
def fabricMoves (s : State) : List Move :=
  (if s.fabric.reqs = [] then [] else [execLeaseDecision]) ++
  ((List.range s.fabric.notices.length).map fun k => execNoticeEnd 16 k) ++
  ((List.range s.fabric.served.length).map fun k => execLeaseTermExpiry 16 k) ++
  ((List.range 16).flatMap fun c => (getCtx s c).leases.flatMap fun l =>
    if l.live then [execNoticeEnd c l.slot, execLeaseTermExpiry c l.slot] else []) ++
  (s.fabric.links.flatMap fun l => if l.pendingSets.isSome then [execLaneSetChange l.peer] else []) ++
  s.fabric.sets.flatMap fun x =>
    if x.out then [execKeySwitchAnnounce x.peer x.set, execKeySwitch x.peer x.set, execKeySwitchRetry x.peer x.set]
    else [execOldGenerationExpiry x.peer x.set]

/-- What Mysko may do by itself. In Boot it trains stack 0, and in Reduced service everything else; nothing fails there (log entry 68). -/
def myskoMoves (s : State) : List Move :=
  (if s.mysko.seals = [] then [] else [execSealPerform]) ++
  ((List.range 16).flatMap fun c => match (getCtx s c).st with
    | .stopping => [execContextStopped c]
    | .ending => [execContextDrained c]
    | _ => []) ++
  ((List.range 16).flatMap fun c => (getCtx s c).invalWait.map fun w => execInval w.1 c 0 0 false) ++
  (if s.mysko.offsetSince.isSome then [execTimeOffsetAlert] else []) ++ (if 880 ≤ s.mysko.junction ∨ s.mysko.tripped then [execThermalTrip] else []) ++
  (if s.mysko.phase = .boot then [execStack0Trained] else []) ++
  (if bringupOpen s then [execBringupComplete (BitVec.allOnes 12) ⟨BitVec.allOnes 160, true, true⟩] else [])

/-- What the order tables may do by themselves. -/
def orderMoves (s : State) : List Move :=
  s.memory.orders.map fun e =>
    if e.loading then execOrderEntryLoad e.ctx e.region e.granule else execOrderStall e.ctx e.region e.granule

/-- What the cores may do by themselves. -/
def coreMoves (s : State) : List Move :=
  ((s.cores.filter fun k => k.ringOn && k.fifo != []).map fun k => execTraceDrain k.num) ++
  ((s.exec.winAcc.map (·.core)).eraseDups.map fun k => execLadleWindowAccess k 0) ++
  (busyUnits s).flatMap fun u => [execPathArbitration u.1 u.2, execGrowPreemption u.1 u.2]

/-- The samples due, which stand after all else that a cycle holds (R454). -/
def sampleMoves (s : State) : List Move := (s.cores.filter fun k => k.shift != 0).map fun k => execTraceSample k.num

/-- What the cores, Ladles, slices and Crucibles may do by themselves, which their clock moves (R16). -/
def clockedMoves (s : State) : List Move :=
  (if s.tick % 1000 = 0 then [execBudgetRefill] else []) ++ (s.exec.groups.filter fun g => !g.exited).flatMap (pathMoves s) ++
  coreMoves s ++ pressMoves s ++ s.exec.ops.flatMap (opMoves s) ++ s.exec.pairs.flatMap pairMoves ++ placeMoves s ++
  ((List.range s.exec.sigdecs.length).map fun _ => execSignalDecrement 0) ++ orderMoves s

/-- The operations and events that the device tries in a tick, one after another; a rule whose condition does not hold passes. -/
def moves (s : State) : List Move :=
  (if s.mysko.stopped then [] else clockedMoves s) ++ fabricMoves s ++ myskoMoves s ++ (if s.mysko.stopped then [] else sampleMoves s)

/-- Whether an instruction or event is one of the cores, Ladles, slices and Crucibles, which stand still once their clock has stopped
(R16, R430). -/
def needsClock (i : Instr) : Bool :=
  i.isWord || match i with
  | .runFetch .. | .pathArbitration .. | .pathPromotion .. | .pressArbitration .. | .bankTheft .. | .ladleWindowAccess .. | .qdead ..
  | .loadDataReturn .. | .faultReturn .. | .storeUnitStore .. | .placement .. | .migration .. | .growPreemption .. | .cwaitPreemption ..
  | .preemption .. | .retirement .. | .pressCauseDelivery .. | .hoopArrivalCount .. | .pressCommandFinish .. | .copyComplete ..
  | .scoreboardGrant .. | .watchMatch .. | .swaitDeadline .. | .homeSliceAccess .. | .l1Recall .. | .directoryEviction .. | .l2Eviction ..
  | .pageWalk .. | .homeAgentOp .. | .crucibleArrival .. | .orderEntryLoad .. | .orderEntryEvict .. | .orderStall .. | .waitsigPoll ..
  | .launchPacketRead .. | .budgetRefill | .l2Scrub | .traceSample .. | .acknowledgementReturn .. | .rgetPieceLanding .. => true
  | _ => false

/-- The move whose turn it is. -/
def nextMove (s : State) : Option Move := (moves s)[s.turn]?

/-! ### The passing of a tick -/

/-- Whether an arithmetic cycle ends with the tick (R16, R430). -/
def cycleEnds (s : State) : Bool :=
  !s.mysko.stopped && (s.tick + 1) * s.mysko.clock / 1000 != s.tick * s.mysko.clock / 1000

/-- The pairs that have lost decoupling in this cycle (R68). -/
def lostDecoupling (s : State) : List Pair :=
  s.exec.pairs.filter fun p => p.resident && (pairGroups s p.id).any fun g =>
    !g.exited && (List.range 16).any fun e => (ctlHeld s g p e).isSome

/-- What a cycle leaves in the counters, with the issue cycle that the Ladle has taken of a unit that had issued already, and with the
choice of a Press given up: loss of decoupling, idle windows, waiting window accesses, passed-over streams (R43, R44, R47, R68,
R434). -/
def cycleStep (s : State) : State :=
  let lod := lostDecoupling s
  let s := lod.foldl (fun s p => assayAdd (updPair s p.id fun p => { p with lod := min (p.lod + 1) (2 ^ 64 - 1) }) p.ctx 55 1) s
  (pressCycle (idleCycle (windowCycle s))).onExec fun e =>
    { e with cycle := e.cycle + 1
             scheds := e.scheds.map fun u =>
               { u with issued := none, banks := 0, taken := u.taken && u.issued.isSome, chosen := if u.unit < 5 then u.chosen else none } }

/-- Counter 53: one per owned core and tick (R434). -/
def ownedTick (s : State) : State :=
  (s.cores.filterMap (·.owner)).foldl (fun s c => assayAdd s c 53 1) s

/-- A tick passes. -/
def passTick (s : State) : State :=
  let s := if cycleEnds s then cycleStep s else s
  { timeStep (ownedTick s) with turn := 0 }

/-- The device's own next move, or the passing of a tick when every move has had its turn. -/
def idleStep (s : State) : Host.Outcome State Fault Refusal :=
  let t := { s with turn := s.turn + 1 }
  match nextMove s with
  | none => .next (passTick s)
  | some m =>
    match m t with
    | .refused _ => .next t
    | r => r

/-! ### A word at the next fetch -/

/-- The even-parity bit of a value of `w` bits. -/
def parityBit (w n : Nat) : Nat := popNat w n % 2

/-- BKPT with its boundary flag set: legal in every stream, and without effect while the context's debug state is clear (R341). -/
def fillWord : Nat := (encode (.bkpt ⟨⟨true, ⟨false, 15⟩, ⟨0, false, 0⟩, .vec 0⟩, .vec 0, .vec 0, 0, 0⟩)).toNat

/-- The fetch line that holds a word in slot 0, marked as a target, and BKPT in slot 1, which ends a run that the word does not end; even
parity (R190 to R194). -/
def wordLine (w : Nat) : List Byte :=
  let lw := 2 ^ 27 + parityBit 96 (w % 2 ^ 96) * 2 ^ 19 + parityBit 96 fillWord * 2 ^ 20
  leBytes 12 w ++ leBytes 12 fillWord ++ List.replicate 36 0#8 ++ leBytes 4 (lw + parityBit 14 (lw / 2 ^ 18) * 2 ^ 18)

/-- A kernel that declares a queue of each kind and more, hoops and a Press stream. -/
def probeKernel : Kernel :=
  { accessPc := 0x1000, executePc := 0x1000, pressPc := 0x1000, regions := 0, cohort := 1, window := 16, scratch := 4, ans := 64,
    anv := 64, ens := 64, env := 64,
    queues := [(true, 0, 4), (true, 1, 4), (true, 2, 4), (true, 2, 4)] ++ List.replicate 12 (false, 0, 0),
    hoops := [1, 1, 1, 1] ++ List.replicate 12 0 }

/-- The stream that issues a word: the access stream where it accepts the word. -/
def probeStream (w : Nat) : Stream :=
  let major := w / 2 ^ 88 % 256
  let minor := w / 2 ^ 82 % 64
  if streamAccepts .access major minor then .access else if streamAccepts .execute major minor then .execute else .press

/-- A page of context 0 at offset and frame 0, global to none, with every permission (R416). -/
def probeRange : RangeEntry := ⟨0, 0, 2 ^ 32, 0, true, true, true, false⟩

/-- A context that owns core 0 and has its structures in memory above the program. -/
def probeCtx : Ctx :=
  { Ctx.zero with st := .live, created := true, cores := 1, block := 0x100000, root := 0x102000, saveBase := 0x200000, np := 4, nc := 4,
                  fqBase := 0x104000, fqLog := 4, regionBase := 0x106000, windowBase := 0x107000, replayBase := 0x108000,
                  replayCount := 4096 }

/-- A launch of one cohort of one pair, wholly placed. -/
def probeLaunch (id : Nat) : Launch := ⟨id, 0, 0, 0, false, probeKernel, 1, [], 0, [], some 0, 1, 0, false⟩

/-- The machine with a word where its next step fetches: full service, a Live context with a placed cohort of one pair on core 0, the line
that holds the word in memory, and the unit of the word's stream about to fetch it. Supervisor words find their path in the handler. -/
def placeWord (s : State) (w : Nat) : State :=
  let st := probeStream w
  let unit := match st with
    | .access => 4
    | .execute => 0
    | .press => 5
  let n := s.exec.seq
  let l := probeLaunch n
  let (s, pair) := placePair { s with exec := { s.exec with seq := n + 1 } } l 0 0 0 (some (n + 4)) 0
  let sup := if st != .press && rawSupervisor (BitVec.ofNat 96 w) then some 0 else none
  let s := s.onExec fun e =>
    { e with
      groups := e.groups.map fun g => if g.pair == pair then { g with sup := sup, paths := g.paths.map fun p => { p with entered := true } } else g
      launches := e.launches ++ [l]
      cohorts := e.cohorts ++ [⟨n + 4, 0, n, 0, 1, [0], [pair], .resident, List.replicate 16 0, List.replicate 16 0,
        List.replicate 16 (0, 0), [], false, []⟩]
      presses := e.presses ++ [{ PressCtx.fresh 0 0 (n + 4) 0x1000 with entered := true }]
      allocs := e.allocs ++ [⟨0, .cohort (n + 4), 0, 32768, n + 5, [], none⟩]
      seq := n + 6 }
  let gid := ((s.exec.groups.find? fun g => g.pair == pair && g.stream == st).map (·.gid)).getD 0
  let s := (dropRun s 0 unit).onExec fun e =>
    { e with scheds := [⟨0, unit, 0, 0, 0, none, some (if st = .press then (n + 4, 0) else (gid, 0)), false, 0⟩] ++
        e.scheds.filter fun u => !(u.core == 0 && u.unit == unit) }
  let s := s.onMysko fun m =>
    { m with phase := .full, stacksTrained := BitVec.allOnes 12, clock := 1000, stopped := false, tripped := false, serviceEpoch := 0 }
  let s := s.onMemory fun m =>
    { m with ranges := m.ranges.set 0 (some probeRange), icache := m.icache.filter fun x => x.core != 0, l2 := [] }
  let s := updCore (updCtx s 0 fun _ => probeCtx) 0 fun k => { k with owner := some 0, fenced := false, sampledAt := none }
  { physWrite s 0x1000 (wordLine w) with agenda := [], issuer := some (0, unit) }

end Sys2Proof.Machine
end

