-- ==== Sys2Proof/Machine/CrossLane.lean ====
section
/-!
DEFINITION. Moving, combining, ranking and selecting lanes: majors 0x28 and 0x29 (R266 to R271).
-/

namespace Sys2Proof.Machine

/-- The source lane of VSHFL (R267): .idx, .xor, .up and .dn. -/
def shuffleLane (form n i : Nat) : Nat :=
  match form with
  | 0 => n % 64
  | 1 => i ^^^ (n % 64)
  | 2 => if i < n then i else i - n
  | _ => if 63 < i + n then i else i + n

/-- VSHFL (R267): the source lane is read whether or not it is effective. -/
def execVshfl (f : FmtA) (s : State) : Host.Outcome State Fault Refusal :=
  issueVec (.vshfl f) f.toHead (fun sl =>
    let a := sl.srcA f
    let b := sl.srcB f
    Lanes.build fun i => a.get (shuffleLane f.modi.toNat ((b.get i).toNat % 2 ^ 32) i)) s

/-- VBCAST (R267): lane n mod 64, or the lowest effective lane. -/
def execVbcast (f : FmtA) (s : State) : Host.Outcome State Fault Refusal :=
  issueVec (.vbcast f) f.toHead (fun sl =>
    let j := if f.modi.getLsbD 0 then (lowestLane (sl.eff f.guard)).getD 0
             else (sl.uni32 f.wide.toInt f.b).toNat % 64
    List.replicate 64 ((sl.srcA f).get j)) s

/-- The sources of a reduction, by format. -/
def Slot.redSrc (sl : Slot) (f : FmtA) : Lanes := sl.coded f.fmt f f.a

/-- The result of VREDADD (R148, R268). -/
def redAdd (fmt : BitVec 5) (eff : Mask) (a : Lanes) : Nat :=
  if isInt32 fmt then
    ((List.range 64).filter fun i => eff.getLsbD i).foldl (fun t i => (t + (a.get i).toNat) % 2 ^ 32) 0
  else if fmt = 8 then
    treeSum 6 ((List.range 64).map fun i => if eff.getLsbD i then (a.get i).toNat % 2 ^ 32 else f32NegZero)
  else
    let p := floatFmt fmt
    let leaf (k : Nat) : Nat :=
      if eff.getLsbD (k / 2) then
        roundFp (p.decode (bitsNat (a.get (k / 2)).toNat (16 * (k % 2)) 16)) fp32 .rne false
      else f32NegZero
    let r := roundFp (fp32.decode (treeSum 7 ((List.range 128).map leaf))) p .rne false
    r * 65537

/-- The greatest of some encodings in an order of keys; zero where there is none. -/
def greatest (key : Nat → Int) : List Nat → Nat
  | [] => 0
  | x :: xs => xs.foldl (fun m y => if key m < key y then y else m) x

/-- The result of VREDMAX (R256, R268). -/
def redMax (fmt : BitVec 5) (eff : Mask) (a : Lanes) : Nat :=
  let lanes := (List.range 64).filter fun i => eff.getLsbD i
  if isInt32 fmt then
    greatest (fun v => if fmt = 4 then sextNat 32 v else (v : Int)) (lanes.map fun i => (a.get i).toNat % 2 ^ 32)
  else
    let p := floatFmt fmt
    let w := p.width
    let vals := lanes.flatMap fun i => (List.range (32 / w)).map fun h => bitsNat (a.get i).toNat (w * h) w
    let r := if vals.any fun v => (p.decode v).isNan then p.nanCode else greatest (totalKey w) vals
    if fmt = 8 then r else r * 65537

/-- VREDADD: the sum in every effective lane (R268). -/
def execVredadd (f : FmtA) (s : State) : Host.Outcome State Fault Refusal :=
  issueVec (.vredadd f) f.toHead (fun sl =>
    List.replicate 64 (BitVec.ofNat 64 (redAdd f.fmt (sl.eff f.guard) (sl.redSrc f)))) s

/-- VREDMAX: the greatest element in every effective lane (R268). -/
def execVredmax (f : FmtA) (s : State) : Host.Outcome State Fault Refusal :=
  issueVec (.vredmax f) f.toHead (fun sl =>
    List.replicate 64 (BitVec.ofNat 64 (redMax f.fmt (sl.eff f.guard) (sl.redSrc f)))) s

/-- The inclusive prefix sums of R149, lane by lane. -/
def scanLanes (fmt : BitVec 5) (eff : Mask) (a : Lanes) : List Nat :=
  ((List.range 64).foldl (fun (acc : Nat × List Nat) i =>
    let x := (a.get i).toNat % 2 ^ 32
    let t := if isInt32 fmt then (if eff.getLsbD i then (acc.1 + x) % 2 ^ 32 else acc.1)
             else f32Add acc.1 (if eff.getLsbD i then x else f32NegZero)
    (t, acc.2 ++ [t])) (if isInt32 fmt then 0 else f32NegZero, [])).2

/-- VSCAN (R149, R268). -/
def execVscan (f : FmtA) (s : State) : Host.Outcome State Fault Refusal :=
  issueVec (.vscan f) f.toHead (fun sl =>
    let r := scanLanes f.fmt (sl.eff f.guard) (sl.redSrc f)
    Lanes.build fun i => BitVec.ofNat 64 (r.getD i 0)) s

/-! ### Ranking (R269, R270) -/

/-- The segment length of a modifier, and k (R269, R270). -/
def rankSeg (f : FmtA) : Nat := 2 ^ (f.modi.toNat % 8)
def Slot.rankK (sl : Slot) (f : FmtA) : Nat := min (sl.uni32 f.wide.toInt f.b).toNat (rankSeg f)

/-- What TOPK gives where too few lanes are effective (R270). -/
def rankFill (fmt : BitVec 5) : Dword := if fmt = 8 then 0x7FC00000 else if fmt = 4 then 0x80000000 else 0

/-- TOPK and TOPK.M: lanes g + j with j < k of each segment (R270). -/
def issueRank (i : Instr) (f : FmtA) (v : Slot → Mask → Lanes → Nat → Nat → Dword) (s : State) :
    Host.Outcome State Fault Refusal :=
  issueWord s i fun s sl =>
    let eff := sl.eff f.guard
    let a := sl.redSrc f
    let seg := rankSeg f
    let k := sl.rankK f
    let key (p : Nat) : Int := rankKey f.fmt ((a.get p).toNat % 2 ^ 32)
    let write := eff &&& maskOf fun p => decide (p % seg < k)
    let r := Lanes.build fun p =>
      if write.getLsbD p then v sl eff a (p / seg * seg) (laneOfRank eff key seg (p / seg * seg) (p % seg)) else 0
    .done (popPorts (writeVec s sl f.dst write r) sl (wordPorts i))

/-- TOPK: the ranked values (R270). -/
def execTopk (f : FmtA) (s : State) : Host.Outcome State Fault Refusal :=
  issueRank (.topk f) f (fun _ eff a _ c => if eff.getLsbD c then a.get c else rankFill f.fmt) s

/-- TOPK.M: the ranked lanes' offsets (R270). -/
def execTopkM (f : FmtA) (s : State) : Host.Outcome State Fault Refusal :=
  issueRank (.topkM f) f (fun _ eff _ g c => if eff.getLsbD c then BitVec.ofNat 64 (c - g) else 0xFFFFFFFF) s

/-- SELK: whether each effective lane's rank is below k (R270). -/
def execSelk (f : FmtA) (s : State) : Host.Outcome State Fault Refusal :=
  issuePred (.selk f) f.toHead (fun sl =>
    let eff := sl.eff f.guard
    let a := sl.redSrc f
    let key (p : Nat) : Int := rankKey f.fmt ((a.get p).toNat % 2 ^ 32)
    maskOf fun p => rankOf eff key (rankSeg f) p < sl.rankK f) s

end Sys2Proof.Machine
end

