-- ==== Sys2Proof/Machine/Uniform.lean ====
section
/-!
DEFINITION. Uniform and predicate instructions: majors 0x30 to 0x32 and the immediate forms of 0x70 (R240 to R243).
-/

namespace Sys2Proof.Machine

/-- A uniform operation on W-bit values: 32 bits, or 64 on pairs with .d (R240). -/
def issueUni (i : Instr) (h : Head) (dd : Bool) (v : Slot → Nat → Nat) (s : State) : Host.Outcome State Fault Refusal :=
  issueWord s i fun s sl =>
    .done (if dd then writePair s sl h.dst (BitVec.ofNat 64 (v sl 64)) else writeUni s sl h.dst (BitVec.ofNat 32 (v sl 32)))

/-- A uniform source of width W. -/
def Slot.uniW (sl : Slot) (w : Nat) (wide : Int) (src : Src) : Nat :=
  if w = 64 then (sl.uni64 wide src).toNat else (sl.uni32 wide src).toNat

/-- A uniform word of format A. -/
def uniA (i : Instr) (f : FmtA) (op : Nat → Nat → Nat → Nat → Nat) : State → Host.Outcome State Fault Refusal :=
  issueUni i f.toHead (f.modi.getLsbD 0) fun sl w =>
    op w (sl.uniW w f.wide.toInt f.a) (sl.uniW w f.wide.toInt f.b) (sl.uniW w f.wide.toInt f.c)

/-- A uniform word of format I: the immediate is sign-extended to W. -/
def uniI (i : Instr) (f : FmtI) (op : Nat → Nat → Nat → Nat → Nat) : State → Host.Outcome State Fault Refusal :=
  issueUni i f.toHead (f.modi.getLsbD 0) fun sl w => op w (sl.uniW w 0 f.a) (wrapInt w f.imm.toInt) 0

/-! ### Results (R240) -/

def uniAdd (w a b _c : Nat) : Nat := (a + b) % 2 ^ w
def uniSub (w a b _c : Nat) : Nat := wrapInt w ((a : Int) - b)
def uniMul (w a b _c : Nat) : Nat := a * b % 2 ^ w
def uniMinMax (greater uns : Bool) (w a b _c : Nat) : Nat :=
  let lt := if uns then decide (a < b) else decide (sextNat w a < sextNat w b)
  if lt != greater then a else b


/-- SADD: a + b (R240). -/
def execSadd (f : FmtA) (s : State) : Host.Outcome State Fault Refusal :=
  uniA (.sadd f) f (uniAdd) s

/-- SSUB: a − b (R240). -/
def execSsub (f : FmtA) (s : State) : Host.Outcome State Fault Refusal :=
  uniA (.ssub f) f (uniSub) s

/-- SMUL: the low W bits of a × b (R240). -/
def execSmul (f : FmtA) (s : State) : Host.Outcome State Fault Refusal :=
  uniA (.smul f) f (uniMul) s

/-- SAND (R240). -/
def execSand (f : FmtA) (s : State) : Host.Outcome State Fault Refusal :=
  uniA (.sand f) f (fun _ a b _ => a &&& b) s

/-- SOR (R240). -/
def execSor (f : FmtA) (s : State) : Host.Outcome State Fault Refusal :=
  uniA (.sor f) f (fun _ a b _ => a ||| b) s

/-- SXOR (R240). -/
def execSxor (f : FmtA) (s : State) : Host.Outcome State Fault Refusal :=
  uniA (.sxor f) f (fun _ a b _ => a ^^^ b) s

/-- SSHL: 0 when n ≥ W (R240). -/
def execSshl (f : FmtA) (s : State) : Host.Outcome State Fault Refusal :=
  uniA (.sshl f) f (shlBits) s

/-- SSHR: 0 when n ≥ W (R240). -/
def execSshr (f : FmtA) (s : State) : Host.Outcome State Fault Refusal :=
  uniA (.sshr f) f (shrBits) s

/-- SSAR: the sign when n ≥ W (R240). -/
def execSsar (f : FmtA) (s : State) : Host.Outcome State Fault Refusal :=
  uniA (.ssar f) f (sarBits) s

/-- SMIN (R240). -/
def execSmin (f : FmtA) (s : State) : Host.Outcome State Fault Refusal :=
  uniA (.smin f) f (uniMinMax false (f.modi.getLsbD 1)) s

/-- SMAX (R240). -/
def execSmax (f : FmtA) (s : State) : Host.Outcome State Fault Refusal :=
  uniA (.smax f) f (uniMinMax true (f.modi.getLsbD 1)) s

/-- SMOV (R240). -/
def execSmov (f : FmtA) (s : State) : Host.Outcome State Fault Refusal :=
  uniA (.smov f) f (fun _ a _ _ => a) s

/-- SSEL: a when the third operand is not zero, b otherwise (R240). -/
def execSsel (f : FmtA) (s : State) : Host.Outcome State Fault Refusal :=
  uniA (.ssel f) f (fun _ a b c => if c ≠ 0 then a else b) s

/-- SADD: a + b, with an immediate (R223, R240). -/
def execSaddI (f : FmtI) (s : State) : Host.Outcome State Fault Refusal :=
  uniI (.saddI f) f (uniAdd) s

/-- SSUB: a − b, with an immediate (R223, R240). -/
def execSsubI (f : FmtI) (s : State) : Host.Outcome State Fault Refusal :=
  uniI (.ssubI f) f (uniSub) s

/-- SMUL: the low W bits of a × b, with an immediate (R223, R240). -/
def execSmulI (f : FmtI) (s : State) : Host.Outcome State Fault Refusal :=
  uniI (.smulI f) f (uniMul) s

/-- SAND, with an immediate (R223, R240). -/
def execSandI (f : FmtI) (s : State) : Host.Outcome State Fault Refusal :=
  uniI (.sandI f) f (fun _ a b _ => a &&& b) s

/-- SOR, with an immediate (R223, R240). -/
def execSorI (f : FmtI) (s : State) : Host.Outcome State Fault Refusal :=
  uniI (.sorI f) f (fun _ a b _ => a ||| b) s

/-- SXOR, with an immediate (R223, R240). -/
def execSxorI (f : FmtI) (s : State) : Host.Outcome State Fault Refusal :=
  uniI (.sxorI f) f (fun _ a b _ => a ^^^ b) s

/-- SSHL: 0 when n ≥ W, with an immediate (R223, R240). -/
def execSshlI (f : FmtI) (s : State) : Host.Outcome State Fault Refusal :=
  uniI (.sshlI f) f (shlBits) s

/-- SSHR: 0 when n ≥ W, with an immediate (R223, R240). -/
def execSshrI (f : FmtI) (s : State) : Host.Outcome State Fault Refusal :=
  uniI (.sshrI f) f (shrBits) s

/-- SSAR: the sign when n ≥ W, with an immediate (R223, R240). -/
def execSsarI (f : FmtI) (s : State) : Host.Outcome State Fault Refusal :=
  uniI (.ssarI f) f (sarBits) s

/-- SMIN, with an immediate (R223, R240). -/
def execSminI (f : FmtI) (s : State) : Host.Outcome State Fault Refusal :=
  uniI (.sminI f) f (uniMinMax false (f.modi.getLsbD 1)) s

/-- SMAX, with an immediate (R223, R240). -/
def execSmaxI (f : FmtI) (s : State) : Host.Outcome State Fault Refusal :=
  uniI (.smaxI f) f (uniMinMax true (f.modi.getLsbD 1)) s

/-- SMOV of an immediate (R223, R240). -/
def execSmovI (f : FmtI) (s : State) : Host.Outcome State Fault Refusal :=
  uniI (.smovI f) f (fun _ _ b _ => b) s

/-! ### System values and the argument block (R241, R242) -/

/-- The value of a selector of SRDSYS (R241). -/
def sysValue (s : State) (sl : Slot) (n : Nat) : Nat :=
  let co := sl.pair.cohort.bind fun c => findCohort s c
  let l := findLaunch s sl.g.launch
  match n with
  | 0 => sl.g.index
  | 1 => sl.g.core
  | 2 => if sl.access then 4 else sl.g.part
  | 3 => sl.g.core / 4
  | 4 => sl.g.core % 4
  | 5 => (co.map (·.number)).getD 0xFFFFFFFF
  | 6 => if co.isSome then sl.pair.member else 0xFFFFFFFF
  | 7 => (co.map (·.size)).getD 0
  | 8 => sl.run.entry
  | 9 => sl.g.ctx
  | 10 => s.fabric.index
  | 11 => (l.map (·.n)).getD 0
  | 12 => sl.g.g
  | 13 => sl.g.h
  | 16 => sl.g.oc.copy
  | 17 => sl.g.oc.fab
  | 18 => sl.g.oc.atom
  | 19 => sl.g.oc.mx
  | 20 => sl.g.oc.ctl
  | 24 => sl.pair.lod
  | _ => 0

/-- SRDSYS (R241). -/
def execSrdsys (f : FmtA) (s : State) : Host.Outcome State Fault Refusal :=
  issueWord s (.srdsys f) fun s sl =>
    let v := sysValue s sl (shortOf f.a).toNat
    .done (if f.modi.getLsbD 0 then writePair s sl f.dst (BitVec.ofNat 64 v) else writeUni s sl f.dst (BitVec.ofNat 32 v))

/-- SLDC: a word of the launch's argument block, 0 beyond it (R242). -/
def execSldc (f : FmtA) (s : State) : Host.Outcome State Fault Refusal :=
  issueWord s (.sldc f) fun s sl =>
    let i := (sl.uni32 f.wide.toInt f.a).toNat
    let args := ((findLaunch s sl.g.launch).map (·.args)).getD []
    .done (writeUni s sl f.dst (if i < 64 then args.getD i 0 else 0))

/-! ### Predicates (R243) -/

/-- A word that writes a whole predicate. -/
def issuePredOp (i : Instr) (h : Head) (v : Slot → Mask) (s : State) : Host.Outcome State Fault Refusal :=
  issueWord s i fun s sl => .done (writePred s sl h.dst (v sl))

/-- PSET (R243). -/
def execPset (f : FmtA) (s : State) : Host.Outcome State Fault Refusal :=
  issuePredOp (.pset f) f.toHead (fun sl => sl.uni64 f.wide.toInt f.a) s

/-- PCLR (R243). -/
def execPclr (f : FmtA) (s : State) : Host.Outcome State Fault Refusal :=
  issuePredOp (.pclr f) f.toHead (fun _ => 0) s

/-- PAND (R243). -/
def execPand (f : FmtA) (s : State) : Host.Outcome State Fault Refusal :=
  issuePredOp (.pand f) f.toHead (fun sl => sl.predSrc f.a &&& sl.predSrc f.b) s

/-- POR (R243). -/
def execPor (f : FmtA) (s : State) : Host.Outcome State Fault Refusal :=
  issuePredOp (.por f) f.toHead (fun sl => sl.predSrc f.a ||| sl.predSrc f.b) s

/-- PXOR (R243). -/
def execPxor (f : FmtA) (s : State) : Host.Outcome State Fault Refusal :=
  issuePredOp (.pxor f) f.toHead (fun sl => sl.predSrc f.a ^^^ sl.predSrc f.b) s

/-- PANDN (R243). -/
def execPandn (f : FmtA) (s : State) : Host.Outcome State Fault Refusal :=
  issuePredOp (.pandn f) f.toHead (fun sl => sl.predSrc f.a &&& ~~~sl.predSrc f.b) s

/-- PMOV, or its complement with .not (R243). -/
def execPmov (f : FmtA) (s : State) : Host.Outcome State Fault Refusal :=
  issuePredOp (.pmov f) f.toHead (fun sl => if f.modi.getLsbD 0 then ~~~sl.predSrc f.a else sl.predSrc f.a) s

/-- The mask that PCNT and PFIRST examine (R243). -/
def Slot.countMask (sl : Slot) (f : FmtA) : Mask :=
  if f.modi.getLsbD 0 then sl.predSrc f.a &&& sl.p.exec else sl.predSrc f.a

/-- PCNT (R243). -/
def execPcnt (f : FmtA) (s : State) : Host.Outcome State Fault Refusal :=
  issueWord s (.pcnt f) fun s sl => .done (writeUni s sl f.dst (BitVec.ofNat 32 (popMask (sl.countMask f))))

/-- PFIRST (R243). -/
def execPfirst (f : FmtA) (s : State) : Host.Outcome State Fault Refusal :=
  issueWord s (.pfirst f) fun s sl =>
    .done (writeUni s sl f.dst (BitVec.ofNat 32 ((lowestLane (sl.countMask f)).getD 64)))

end Sys2Proof.Machine
end

