-- ==== Sys2Proof/Machine/Dispatch.lean ====
section
/-!
DEFINITION. The dispatch: one arm per constructor of Instr, each a direct call of its meaning.
-/

namespace Sys2Proof.Machine

def exec (i : Instr) (s : State) : Host.Outcome State Fault Refusal :=
  match i with
  | .trap f => Sys2Proof.Machine.execTrap f s
  | .bkpt f => Sys2Proof.Machine.execBkpt f s
  | .sysrd f => Sys2Proof.Machine.execSysrd f s
  | .syswr f => Sys2Proof.Machine.execSyswr f s
  | .eret f => Sys2Proof.Machine.execEret f s
  | .mapft f => Sys2Proof.Machine.execMapft f s
  | .grow f => Sys2Proof.Machine.execGrow f s
  | .shrink f => Sys2Proof.Machine.execShrink f s
  | .launch f => Sys2Proof.Machine.execLaunch f s
  | .temit f => Sys2Proof.Machine.execTemit f s
  | .tstamp f => Sys2Proof.Machine.execTstamp f s
  | .hmread f => Sys2Proof.Machine.execHmread f s
  | .hmseal f => Sys2Proof.Machine.execHmseal f s
  | .vadd f => Sys2Proof.Machine.execVadd f s
  | .vsub f => Sys2Proof.Machine.execVsub f s
  | .vmul f => Sys2Proof.Machine.execVmul f s
  | .vmulh f => Sys2Proof.Machine.execVmulh f s
  | .vmad f => Sys2Proof.Machine.execVmad f s
  | .vmin f => Sys2Proof.Machine.execVmin f s
  | .vmax f => Sys2Proof.Machine.execVmax f s
  | .vabs f => Sys2Proof.Machine.execVabs f s
  | .vneg f => Sys2Proof.Machine.execVneg f s
  | .vaddc f => Sys2Proof.Machine.execVaddc f s
  | .vsubb f => Sys2Proof.Machine.execVsubb f s
  | .vand f => Sys2Proof.Machine.execVand f s
  | .vor f => Sys2Proof.Machine.execVor f s
  | .vxor f => Sys2Proof.Machine.execVxor f s
  | .vnot f => Sys2Proof.Machine.execVnot f s
  | .vshl f => Sys2Proof.Machine.execVshl f s
  | .vshr f => Sys2Proof.Machine.execVshr f s
  | .vsar f => Sys2Proof.Machine.execVsar f s
  | .vrot f => Sys2Proof.Machine.execVrot f s
  | .vbfx f => Sys2Proof.Machine.execVbfx f s
  | .vbfi f => Sys2Proof.Machine.execVbfi f s
  | .vpopc f => Sys2Proof.Machine.execVpopc f s
  | .vclz f => Sys2Proof.Machine.execVclz f s
  | .vctz f => Sys2Proof.Machine.execVctz f s
  | .vbrev f => Sys2Proof.Machine.execVbrev f s
  | .vpermb f => Sys2Proof.Machine.execVpermb f s
  | .vsel f => Sys2Proof.Machine.execVsel f s
  | .vmov f => Sys2Proof.Machine.execVmov f s
  | .vcmp f => Sys2Proof.Machine.execVcmp f s
  | .vtest f => Sys2Proof.Machine.execVtest f s
  | .vfadd f => Sys2Proof.Machine.execVfadd f s
  | .vfsub f => Sys2Proof.Machine.execVfsub f s
  | .vfmul f => Sys2Proof.Machine.execVfmul f s
  | .vfma f => Sys2Proof.Machine.execVfma f s
  | .vfms f => Sys2Proof.Machine.execVfms f s
  | .vfnma f => Sys2Proof.Machine.execVfnma f s
  | .vfmin f => Sys2Proof.Machine.execVfmin f s
  | .vfmax f => Sys2Proof.Machine.execVfmax f s
  | .vfabs f => Sys2Proof.Machine.execVfabs f s
  | .vfneg f => Sys2Proof.Machine.execVfneg f s
  | .vfcpys f => Sys2Proof.Machine.execVfcpys f s
  | .vfcmp f => Sys2Proof.Machine.execVfcmp f s
  | .vfclass f => Sys2Proof.Machine.execVfclass f s
  | .vrcp f => Sys2Proof.Machine.execVrcp f s
  | .vrsqrt f => Sys2Proof.Machine.execVrsqrt f s
  | .vsqrt f => Sys2Proof.Machine.execVsqrt f s
  | .vexp2 f => Sys2Proof.Machine.execVexp2 f s
  | .vlog2 f => Sys2Proof.Machine.execVlog2 f s
  | .vsin f => Sys2Proof.Machine.execVsin f s
  | .vcos f => Sys2Proof.Machine.execVcos f s
  | .vtanh f => Sys2Proof.Machine.execVtanh f s
  | .cvt f => Sys2Proof.Machine.execCvt f s
  | .cvtn f => Sys2Proof.Machine.execCvtn f s
  | .cvtef f => Sys2Proof.Machine.execCvtef f s
  | .cvtw f => Sys2Proof.Machine.execCvtw f s
  | .mxq f => Sys2Proof.Machine.execMxq f s
  | .mxdq f => Sys2Proof.Machine.execMxdq f s
  | .vshfl f => Sys2Proof.Machine.execVshfl f s
  | .vbcast f => Sys2Proof.Machine.execVbcast f s
  | .vredadd f => Sys2Proof.Machine.execVredadd f s
  | .vredmax f => Sys2Proof.Machine.execVredmax f s
  | .vscan f => Sys2Proof.Machine.execVscan f s
  | .topk f => Sys2Proof.Machine.execTopk f s
  | .topkM f => Sys2Proof.Machine.execTopkM f s
  | .selk f => Sys2Proof.Machine.execSelk f s
  | .sadd f => Sys2Proof.Machine.execSadd f s
  | .ssub f => Sys2Proof.Machine.execSsub f s
  | .smul f => Sys2Proof.Machine.execSmul f s
  | .sand f => Sys2Proof.Machine.execSand f s
  | .sor f => Sys2Proof.Machine.execSor f s
  | .sxor f => Sys2Proof.Machine.execSxor f s
  | .sshl f => Sys2Proof.Machine.execSshl f s
  | .sshr f => Sys2Proof.Machine.execSshr f s
  | .ssar f => Sys2Proof.Machine.execSsar f s
  | .smin f => Sys2Proof.Machine.execSmin f s
  | .smax f => Sys2Proof.Machine.execSmax f s
  | .smov f => Sys2Proof.Machine.execSmov f s
  | .ssel f => Sys2Proof.Machine.execSsel f s
  | .srdsys f => Sys2Proof.Machine.execSrdsys f s
  | .sldc f => Sys2Proof.Machine.execSldc f s
  | .pset f => Sys2Proof.Machine.execPset f s
  | .pclr f => Sys2Proof.Machine.execPclr f s
  | .pand f => Sys2Proof.Machine.execPand f s
  | .por f => Sys2Proof.Machine.execPor f s
  | .pxor f => Sys2Proof.Machine.execPxor f s
  | .pandn f => Sys2Proof.Machine.execPandn f s
  | .pmov f => Sys2Proof.Machine.execPmov f s
  | .pcnt f => Sys2Proof.Machine.execPcnt f s
  | .pfirst f => Sys2Proof.Machine.execPfirst f s
  | .execrd f => Sys2Proof.Machine.execExecrd f s
  | .execwr f => Sys2Proof.Machine.execExecwr f s
  | .recon f => Sys2Proof.Machine.execRecon f s
  | .swait f => Sys2Proof.Machine.execSwait f s
  | .vaddI f => Sys2Proof.Machine.execVaddI f s
  | .vsubI f => Sys2Proof.Machine.execVsubI f s
  | .vmulI f => Sys2Proof.Machine.execVmulI f s
  | .vmulhI f => Sys2Proof.Machine.execVmulhI f s
  | .vminI f => Sys2Proof.Machine.execVminI f s
  | .vmaxI f => Sys2Proof.Machine.execVmaxI f s
  | .vaddcI f => Sys2Proof.Machine.execVaddcI f s
  | .vsubbI f => Sys2Proof.Machine.execVsubbI f s
  | .vandI f => Sys2Proof.Machine.execVandI f s
  | .vorI f => Sys2Proof.Machine.execVorI f s
  | .vxorI f => Sys2Proof.Machine.execVxorI f s
  | .vshlI f => Sys2Proof.Machine.execVshlI f s
  | .vshrI f => Sys2Proof.Machine.execVshrI f s
  | .vsarI f => Sys2Proof.Machine.execVsarI f s
  | .vrotI f => Sys2Proof.Machine.execVrotI f s
  | .vmovI f => Sys2Proof.Machine.execVmovI f s
  | .vcmpI f => Sys2Proof.Machine.execVcmpI f s
  | .vtestI f => Sys2Proof.Machine.execVtestI f s
  | .vfaddI f => Sys2Proof.Machine.execVfaddI f s
  | .vfsubI f => Sys2Proof.Machine.execVfsubI f s
  | .vfmulI f => Sys2Proof.Machine.execVfmulI f s
  | .vfminI f => Sys2Proof.Machine.execVfminI f s
  | .vfmaxI f => Sys2Proof.Machine.execVfmaxI f s
  | .vfcpysI f => Sys2Proof.Machine.execVfcpysI f s
  | .vfcmpI f => Sys2Proof.Machine.execVfcmpI f s
  | .saddI f => Sys2Proof.Machine.execSaddI f s
  | .ssubI f => Sys2Proof.Machine.execSsubI f s
  | .smulI f => Sys2Proof.Machine.execSmulI f s
  | .sandI f => Sys2Proof.Machine.execSandI f s
  | .sorI f => Sys2Proof.Machine.execSorI f s
  | .sxorI f => Sys2Proof.Machine.execSxorI f s
  | .sshlI f => Sys2Proof.Machine.execSshlI f s
  | .sshrI f => Sys2Proof.Machine.execSshrI f s
  | .ssarI f => Sys2Proof.Machine.execSsarI f s
  | .sminI f => Sys2Proof.Machine.execSminI f s
  | .smaxI f => Sys2Proof.Machine.execSmaxI f s
  | .smovI f => Sys2Proof.Machine.execSmovI f s
  | .ldv f => Sys2Proof.Machine.execLdv f s
  | .ldp f => Sys2Proof.Machine.execLdp f s
  | .grld f => Sys2Proof.Machine.execGrld f s
  | .pfetch f => Sys2Proof.Machine.execPfetch f s
  | .st f => Sys2Proof.Machine.execSt f s
  | .stq f => Sys2Proof.Machine.execStq f s
  | .lds f => Sys2Proof.Machine.execLds f s
  | .sts f => Sys2Proof.Machine.execSts f s
  | .ldsT f => Sys2Proof.Machine.execLdsT f s
  | .ldcl f => Sys2Proof.Machine.execLdcl f s
  | .stcl f => Sys2Proof.Machine.execStcl f s
  | .qcount f => Sys2Proof.Machine.execQcount f s
  | .qskip f => Sys2Proof.Machine.execQskip f s
  | .aadd f => Sys2Proof.Machine.execAadd f s
  | .asub f => Sys2Proof.Machine.execAsub f s
  | .aand f => Sys2Proof.Machine.execAand f s
  | .aor f => Sys2Proof.Machine.execAor f s
  | .axor f => Sys2Proof.Machine.execAxor f s
  | .amin f => Sys2Proof.Machine.execAmin f s
  | .amax f => Sys2Proof.Machine.execAmax f s
  | .aminu f => Sys2Proof.Machine.execAminu f s
  | .amaxu f => Sys2Proof.Machine.execAmaxu f s
  | .axchg f => Sys2Proof.Machine.execAxchg f s
  | .acas f => Sys2Proof.Machine.execAcas f s
  | .fadd f => Sys2Proof.Machine.execFadd f s
  | .faddOrd f => Sys2Proof.Machine.execFaddOrd f s
  | .mxacc f => Sys2Proof.Machine.execMxacc f s
  | .mxaccOrd f => Sys2Proof.Machine.execMxaccOrd f s
  | .mxld f => Sys2Proof.Machine.execMxld f s
  | .mxst f => Sys2Proof.Machine.execMxst f s
  | .fence f => Sys2Proof.Machine.execFence f s
  | .waitc f => Sys2Proof.Machine.execWaitc f s
  | .waitw f => Sys2Proof.Machine.execWaitw f s
  | .harrive f => Sys2Proof.Machine.execHarrive f s
  | .hwait f => Sys2Proof.Machine.execHwait f s
  | .cjoin f => Sys2Proof.Machine.execCjoin f s
  | .cleave f => Sys2Proof.Machine.execCleave f s
  | .carrive f => Sys2Proof.Machine.execCarrive f s
  | .cwait f => Sys2Proof.Machine.execCwait f s
  | .sigdec f => Sys2Proof.Machine.execSigdec f s
  | .waitsig f => Sys2Proof.Machine.execWaitsig f s
  | .copy f => Sys2Proof.Machine.execCopy f s
  | .copyo f => Sys2Proof.Machine.execCopyo f s
  | .copyc f => Sys2Proof.Machine.execCopyc f s
  | .gclaim f => Sys2Proof.Machine.execGclaim f s
  | .gcommit f => Sys2Proof.Machine.execGcommit f s
  | .gawait f => Sys2Proof.Machine.execGawait f s
  | .gretire f => Sys2Proof.Machine.execGretire f s
  | .sqpub f => Sys2Proof.Machine.execSqpub f s
  | .sqget f => Sys2Proof.Machine.execSqget f s
  | .lease f => Sys2Proof.Machine.execLease f s
  | .leaseDrop f => Sys2Proof.Machine.execLeaseDrop f s
  | .leaseq f => Sys2Proof.Machine.execLeaseq f s
  | .nmop f => Sys2Proof.Machine.execNmop f s
  | .stMr f => Sys2Proof.Machine.execStMr f s
  | .xfence f => Sys2Proof.Machine.execXfence f s
  | .rgetQueue f => Sys2Proof.Machine.execRgetQueue f s
  | .rgetSpad f => Sys2Proof.Machine.execRgetSpad f s
  | .bra f => Sys2Proof.Machine.execBra f s
  | .brc f => Sys2Proof.Machine.execBrc f s
  | .bdiv f => Sys2Proof.Machine.execBdiv f s
  | .brx f => Sys2Proof.Machine.execBrx f s
  | .call f => Sys2Proof.Machine.execCall f s
  | .ret f => Sys2Proof.Machine.execRet f s
  | .exit f => Sys2Proof.Machine.execExit f s
  | .loops f => Sys2Proof.Machine.execLoops f s
  | .mloop f => Sys2Proof.Machine.execMloop f s
  | .mbra f => Sys2Proof.Machine.execMbra f s
  | .mend f => Sys2Proof.Machine.execMend f s
  | .mload f => Sys2Proof.Machine.execMload f s
  | .mloadT f => Sys2Proof.Machine.execMloadT f s
  | .mloadS f => Sys2Proof.Machine.execMloadS f s
  | .mstore f => Sys2Proof.Machine.execMstore f s
  | .mma f => Sys2Proof.Machine.execMma f s
  | .mzero f => Sys2Proof.Machine.execMzero f s
  | .mcvt f => Sys2Proof.Machine.execMcvt f s
  | .mharrive f => Sys2Proof.Machine.execMharrive f s
  | .mhwait f => Sys2Proof.Machine.execMhwait f s
  | .mpop f => Sys2Proof.Machine.execMpop f s
  | .msig f => Sys2Proof.Machine.execMsig f s
  | .runFetch core unit => Sys2Proof.Machine.execRunFetch core unit s
  | .pathArbitration core unit => Sys2Proof.Machine.execPathArbitration core unit s
  | .pathPromotion gid entry => Sys2Proof.Machine.execPathPromotion gid entry s
  | .pressArbitration core => Sys2Proof.Machine.execPressArbitration core s
  | .bankTheft core k => Sys2Proof.Machine.execBankTheft core k s
  | .ladleWindowAccess core k => Sys2Proof.Machine.execLadleWindowAccess core k s
  | .qdead pair => Sys2Proof.Machine.execQdead pair s
  | .loadDataReturn op data => Sys2Proof.Machine.execLoadDataReturn op data s
  | .faultReturn op lanes code marks => Sys2Proof.Machine.execFaultReturn op lanes code marks s
  | .storeUnitStore pair q => Sys2Proof.Machine.execStoreUnitStore pair q s
  | .placement src core part => Sys2Proof.Machine.execPlacement src core part s
  | .migration pair core part => Sys2Proof.Machine.execMigration pair core part s
  | .growPreemption core unit => Sys2Proof.Machine.execGrowPreemption core unit s
  | .cwaitPreemption pair => Sys2Proof.Machine.execCwaitPreemption pair s
  | .preemption tgt => Sys2Proof.Machine.execPreemption tgt s
  | .retirement tgt => Sys2Proof.Machine.execRetirement tgt s
  | .pressCauseDelivery core k => Sys2Proof.Machine.execPressCauseDelivery core k s
  | .hoopArrivalCount op => Sys2Proof.Machine.execHoopArrivalCount op s
  | .pressCommandFinish id => Sys2Proof.Machine.execPressCommandFinish id s
  | .copyComplete op data => Sys2Proof.Machine.execCopyComplete op data s
  | .scoreboardGrant core => Sys2Proof.Machine.execScoreboardGrant core s
  | .watchMatch gid entry => Sys2Proof.Machine.execWatchMatch gid entry s
  | .swaitDeadline gid entry => Sys2Proof.Machine.execSwaitDeadline gid entry s
  | .homeSliceAccess op lane => Sys2Proof.Machine.execHomeSliceAccess op lane s
  | .l1Recall core tag line => Sys2Proof.Machine.execL1Recall core tag line s
  | .directoryEviction tag line => Sys2Proof.Machine.execDirectoryEviction tag line s
  | .l2Eviction tag line => Sys2Proof.Machine.execL2Eviction tag line s
  | .pageWalk ctx off => Sys2Proof.Machine.execPageWalk ctx off s
  | .remoteRequest peer req => Sys2Proof.Machine.execRemoteRequest peer req s
  | .homeAgentOp op => Sys2Proof.Machine.execHomeAgentOp op s
  | .crucibleArrival op k => Sys2Proof.Machine.execCrucibleArrival op k s
  | .orderEntryLoad ctx region granule => Sys2Proof.Machine.execOrderEntryLoad ctx region granule s
  | .orderEntryEvict ctx region granule => Sys2Proof.Machine.execOrderEntryEvict ctx region granule s
  | .orderStall ctx region granule => Sys2Proof.Machine.execOrderStall ctx region granule s
  | .flitReceive peer set seq good ctx => Sys2Proof.Machine.execFlitReceive peer set seq good ctx s
  | .laneSetChange peer => Sys2Proof.Machine.execLaneSetChange peer s
  | .leaseRequestArrival peer lanes term revoking => Sys2Proof.Machine.execLeaseRequestArrival peer lanes term revoking s
  | .leaseDecision => Sys2Proof.Machine.execLeaseDecision s
  | .leaseGrant ctx slot granted notice => Sys2Proof.Machine.execLeaseGrant ctx slot granted notice s
  | .noticeEnd ctx k => Sys2Proof.Machine.execNoticeEnd ctx k s
  | .leaseTermExpiry ctx slot => Sys2Proof.Machine.execLeaseTermExpiry ctx slot s
  | .mrContribution ctx win member chunk data => Sys2Proof.Machine.execMrContribution ctx win member chunk data s
  | .mrResend op => Sys2Proof.Machine.execMrResend op s
  | .mrDelivery ctx win gen chunk data => Sys2Proof.Machine.execMrDelivery ctx win gen chunk data s
  | .rgetServe peer ctx addr len requester => Sys2Proof.Machine.execRgetServe peer ctx addr len requester s
  | .mapftExecute op => Sys2Proof.Machine.execMapftExecute op s
  | .xfenceComplete op => Sys2Proof.Machine.execXfenceComplete op s
  | .signalDecrement k => Sys2Proof.Machine.execSignalDecrement k s
  | .waitsigPoll gid entry remote fault => Sys2Proof.Machine.execWaitsigPoll gid entry remote fault s
  | .sealPerform => Sys2Proof.Machine.execSealPerform s
  | .qbase q v => Sys2Proof.Machine.execQbase q v s
  | .queueEnable q => Sys2Proof.Machine.execQueueEnable q s
  | .queueDisable q => Sys2Proof.Machine.execQueueDisable q s
  | .qctlConfig q v => Sys2Proof.Machine.execQctlConfig q v s
  | .qerr q v => Sys2Proof.Machine.execQerr q v s
  | .doorbell q w => Sys2Proof.Machine.execDoorbell q w s
  | .registerWrite off v => Sys2Proof.Machine.execRegisterWrite off v s
  | .hostWindowRead x width => Sys2Proof.Machine.execHostWindowRead x width s
  | .hostWindowWrite x width v => Sys2Proof.Machine.execHostWindowWrite x width v s
  | .packetRead q => Sys2Proof.Machine.execPacketRead q s
  | .launchPacketRead op => Sys2Proof.Machine.execLaunchPacketRead op s
  | .dependenceMet launch => Sys2Proof.Machine.execDependenceMet launch s
  | .priorityStarvation q => Sys2Proof.Machine.execPriorityStarvation q s
  | .eventWordClear v => Sys2Proof.Machine.execEventWordClear v s
  | .ctxCreate slot c block cores => Sys2Proof.Machine.execCtxCreate slot c block cores s
  | .ctxCores slot c add rem => Sys2Proof.Machine.execCtxCores slot c add rem s
  | .ctxStop slot c => Sys2Proof.Machine.execCtxStop slot c s
  | .contextStopped c => Sys2Proof.Machine.execContextStopped c s
  | .ctxResume slot c => Sys2Proof.Machine.execCtxResume slot c s
  | .ctxEnd slot c => Sys2Proof.Machine.execCtxEnd slot c s
  | .contextDrained c => Sys2Proof.Machine.execContextDrained c s
  | .inval slot c off len glob => Sys2Proof.Machine.execInval slot c off len glob s
  | .rangeSet slot k e => Sys2Proof.Machine.execRangeSet slot k e s
  | .rangeClear slot k => Sys2Proof.Machine.execRangeClear slot k s
  | .regionEnable slot c k => Sys2Proof.Machine.execRegionEnable slot c k s
  | .regionDisable slot c k => Sys2Proof.Machine.execRegionDisable slot c k s
  | .windowEnable slot c k => Sys2Proof.Machine.execWindowEnable slot c k s
  | .windowDisable slot c k => Sys2Proof.Machine.execWindowDisable slot c k s
  | .fwStage slot addr len pieces => Sys2Proof.Machine.execFwStage slot addr len pieces s
  | .serviceFull slot => Sys2Proof.Machine.execServiceFull slot s
  | .domainForm slot index count laneMap floors mismatch => Sys2Proof.Machine.execDomainForm slot index count laneMap floors mismatch s
  | .domainLeave slot => Sys2Proof.Machine.execDomainLeave slot s
  | .ctxMembers slot c mask => Sys2Proof.Machine.execCtxMembers slot c mask s
  | .uePort slot port entry => Sys2Proof.Machine.execUePort slot port entry s
  | .peerTable slot c base n => Sys2Proof.Machine.execPeerTable slot c base n s
  | .powerSet slot limit q => Sys2Proof.Machine.execPowerSet slot limit q s
  | .jobSet slot c job => Sys2Proof.Machine.execJobSet slot c job s
  | .hmRead slot c => Sys2Proof.Machine.execHmRead slot c s
  | .hmSeal slot c dst => Sys2Proof.Machine.execHmSeal slot c dst s
  | .domAttest slot c dst => Sys2Proof.Machine.execDomAttest slot c dst s
  | .idRead slot dst => Sys2Proof.Machine.execIdRead slot dst s
  | .errRead slot dst n => Sys2Proof.Machine.execErrRead slot dst n s
  | .traceSet slot core base cap shift => Sys2Proof.Machine.execTraceSet slot core base cap shift s
  | .debugSet slot c on base => Sys2Proof.Machine.execDebugSet slot c on base s
  | .debugStop slot c group stream entry => Sys2Proof.Machine.execDebugStop slot c group stream entry s
  | .debugRelease slot c group stream entry => Sys2Proof.Machine.execDebugRelease slot c group stream entry s
  | .debugDump slot c group stream entry dst => Sys2Proof.Machine.execDebugDump slot c group stream entry dst s
  | .powerOnReset => Sys2Proof.Machine.execPowerOnReset s
  | .stack0Trained => Sys2Proof.Machine.execStack0Trained s
  | .bringupComplete hbm cores => Sys2Proof.Machine.execBringupComplete hbm cores s
  | .powerSample watts junction inlet => Sys2Proof.Machine.execPowerSample watts junction inlet s
  | .thermalTrip => Sys2Proof.Machine.execThermalTrip s
  | .budgetRefill => Sys2Proof.Machine.execBudgetRefill s
  | .keySwitchAnnounce peer set => Sys2Proof.Machine.execKeySwitchAnnounce peer set s
  | .keySwitch peer set => Sys2Proof.Machine.execKeySwitch peer set s
  | .keySwitchRetry peer set => Sys2Proof.Machine.execKeySwitchRetry peer set s
  | .oldGenerationExpiry peer set => Sys2Proof.Machine.execOldGenerationExpiry peer set s
  | .timeExchange offset => Sys2Proof.Machine.execTimeExchange offset s
  | .timeOffsetAlert => Sys2Proof.Machine.execTimeOffsetAlert s
  | .l2Scrub => Sys2Proof.Machine.execL2Scrub s
  | .hbmScrub => Sys2Proof.Machine.execHbmScrub s
  | .errorReport report => Sys2Proof.Machine.execErrorReport report s
  | .traceDrain core => Sys2Proof.Machine.execTraceDrain core s
  | .traceSample core => Sys2Proof.Machine.execTraceSample core s
  | .acknowledgementReturn op => Sys2Proof.Machine.execAcknowledgementReturn op s
  | .rgetPieceLanding op piece data => Sys2Proof.Machine.execRgetPieceLanding op piece data s
  | .transportFailure op piece => Sys2Proof.Machine.execTransportFailure op piece s
  | .peerLeavesDomain peer => Sys2Proof.Machine.execPeerLeavesDomain peer s

end Sys2Proof.Machine
end

