-- ==== Sys2Proof/Machine/Step.lean ====
section
/-!
DEFINITION. One step of the machine, and the state whose next step runs a given instruction word.
-/

namespace Sys2Proof.Machine

/-- The slot of the issuing unit is executed; a unit without a run fetches one and executes its head in the same step. -/
def issueStep (s : State) : Host.Outcome State Fault Refusal :=
  match issuerInstr s with
  | some i => exec i s
  | none =>
    let t := issuerFetch s
    match issuerInstr t with
    | some i => exec i t
    | none => .next t

/-- A step. What stands on the agenda, which holds what comes from outside, goes first; then the unit that issues; then the device's own
next move. Once a thermal trip has stopped the clock no unit issues and nothing moves that it moves, while the ticks, the fabric, the
mailbox and the host go on (R16, R430). -/
def step (s : State) : Host.Outcome State Fault Refusal :=
  match s.agenda with
  | i :: rest =>
    if s.mysko.stopped && needsClock i then .fault .clockStopped else exec i { s with agenda := rest }
  | [] =>
    if s.issuer.isSome && !s.mysko.stopped then issueStep s
    else idleStep s

/-- The state whose next step fetches and runs the instruction whose bits are `w`; the bits above `nbits` are zero. -/
def State.withFetchWord (s : State) (nbits w : Nat) : State := placeWord s (w % 2 ^ nbits)

end Sys2Proof.Machine
end

