-- ==== Sys2Proof/Safety.lean ====
section
/-!
DEFINITION. The words in which claims about a run are made: a run that does not stop, a slot at which an instruction
issues, the state that an instruction's own effect leaves, and what a reader of memory sees.
-/

namespace Sys2Proof.Safety

open Sys2Proof.Machine

/-- The issuing unit has reached the slot `sl`, and nothing holds the instruction `i` back there: no pending long-latency
write, no queue and no poisoned entry (R31, R34, R62, R64). -/
def Issues (s : State) (sl : Slot) (i : Instr) : Prop := currentSlot s = some sl ∧ headGate s sl i = none

/-- What follows an instruction's own effect `t`: it is counted, and the run goes on to its next slot or ends (R29, R434). -/
def after (i : Instr) (sl : Slot) (t : State) : State := advance (countIssue t sl i false) sl

/-- What follows a transfer taken with the effect `t`: the run ends, and the path stands at the target (R230). -/
def afterTransfer (i : Instr) (sl : Slot) (t : State) (target : Dword) : State := finishRun (countIssue t sl i false) sl target

/-- What follows a boundary cause: it is noted in the run, which goes on (R51). -/
def afterCause (i : Instr) (sl : Slot) (t : State) (c : Cause) : State := advance (noteCause (countIssue t sl i true) sl c) sl

/-- A 64-lane result written in the effective lanes, with the source ports popped (R58, R63). -/
def vecResult (i : Instr) (h : Head) (s : State) (sl : Slot) (v : Lanes) : State :=
  popPorts (writeVec (noteIssued s sl) sl h.dst (sl.eff h.guard) v) sl (wordPorts i)

/-- A predicate result written in the effective lanes, with the source ports popped (R252). -/
def predResult (i : Instr) (h : Head) (s : State) (sl : Slot) (v : Mask) : State :=
  popPorts (writePredLanes (noteIssued s sl) sl h.dst (sl.eff h.guard) v) sl (wordPorts i)

/-- A uniform result of 32 bits, or of 64 in a pair (R240). -/
def uniResult (h : Head) (dd : Bool) (s : State) (sl : Slot) (v : Nat) : State :=
  if dd then writePair (noteIssued s sl) sl h.dst (BitVec.ofNat 64 v) else writeUni (noteIssued s sl) sl h.dst (BitVec.ofNat 32 v)

/-- What follows a Press command that has issued: it is counted, its stream has issued in this cycle, and its run goes on or ends (R43,
R306, R434). -/
def afterPress (i : Instr) (ps : PSlot) (t : State) : State := pressAdvance (pressNoted (pressCount t ps i) ps) ps

/-- The end of a run at which nothing but the path's PC is due: no cause, no breakpoint, no stop asked for, and a context
that is not Ending (R29, R51, R341, R411). -/
def QuietEnd (s : State) (sl : Slot) : Prop :=
  sl.run.causes = [] ∧ sl.run.brk = none ∧ sl.p.stopAsked = false ∧ (getCtx s sl.g.ctx).st ≠ .ending ∧
  ∀ x ∈ sl.g.pending, x.1 ≠ sl.run.entry

/-- A command in one of the mailbox slots 1 to 63, in a phase that serves it (R422, R424, R425). -/
def Commanded (s : State) (slot : Nat) (phases : List Phase) : Prop :=
  slot ≠ 0 ∧ slot < 64 ∧ s.mysko.phase ≠ .boot ∧ phases.contains s.mysko.phase = true ∧ mailWaits s slot = false ∧ mailTurn s slot = true

/-- Every byte of physical memory reads as before, through L2 and behind it. -/
def SameMemory (s t : State) : Prop := ∀ a, physByte t a = physByte s a

/-- The words that read and write registers, queue entries and latches only: the 64-lane and uniform words of Chapters 12 and 13. -/
def registerWord (i : Instr) : Bool :=
  match parts i with
  | some (M, _, _) => (0x20 ≤ M && M ≤ 0x29) || (0x30 ≤ M && M ≤ 0x32) || (0x60 ≤ M && M ≤ 0x64) || M == 0x70
  | none => false

/-- The modifier bits that name a carry predicate (R246). -/
def carryField : Body → Nat
  | .a f => f.modi.toNat
  | .i f => f.modi.toNat % 16
  | _ => 0

/-- The vector registers that a register word writes: its destination, and CVTEF's residue (R143). -/
def vectorDests (i : Instr) : List Nat :=
  match parts i with
  | some (M, m, b) =>
    (if (rolesOf M m b).d = .vec then [b.head.dst.reg.toNat] else []) ++ (if M = 0x26 ∧ m = 2 then [vecNum b.srcB] else [])
  | none => []

/-- The uniform registers that a register word writes: one, or a pair (R57). -/
def uniformDests (i : Instr) : List Nat :=
  match parts i with
  | some (M, m, b) =>
    if (rolesOf M m b).d = .uni then [b.head.dst.reg.toNat]
    else if (rolesOf M m b).d = .pair then [b.head.dst.reg.toNat, b.head.dst.reg.toNat + 1] else []
  | none => []

/-- The predicates that a register word writes: its destination, and the carry of VADDC and VSUBB (R246). -/
def predicateDests (i : Instr) : List Nat :=
  match parts i with
  | some (M, m, b) =>
    (if (rolesOf M m b).d = .pred then [b.head.dst.reg.toNat] else []) ++
      (if (M = 0x20 ∨ M = 0x60) ∧ (m = 9 ∨ m = 0xA) then [carryField b] else [])
  | none => []

/-- The port that a register word pushes to, if its destination is one (R62). -/
def pushedPort (i : Instr) : Option Nat :=
  match parts i with
  | some (M, m, b) => dstPort b.head.dst (rolesOf M m b).d
  | none => none

/-- Every part of the state but the run, the paths, the registers, the queues and the counters reads as before: physical memory and
what caches it, scratchpad, Mysko, the fabric, the host side, the cores and everything of the Press. -/
def SameOutside (s t : State) : Prop :=
  SameMemory s t ∧ t.memory = s.memory ∧ t.mysko = s.mysko ∧ t.fabric = s.fabric ∧ t.host = s.host ∧ t.cores = s.cores ∧
  t.tick = s.tick ∧ t.exec.allocs = s.exec.allocs ∧ t.exec.presses = s.exec.presses ∧ t.exec.cohorts = s.exec.cohorts ∧
  t.exec.circles = s.exec.circles ∧ t.exec.launches = s.exec.launches ∧ t.exec.sigdecs = s.exec.sigdecs

/-- A group but for its registers and paths: its trap registers, counters and everything else are as before. -/
def SameGroup (g u : Group) : Prop :=
  u = { g with vregs := u.vregs, sregs := u.sregs, preds := u.preds, paths := u.paths }

/-- A path but for its PC and state. -/
def SamePath (p q : Path) : Prop := q = { p with pc := q.pc, st := q.st }

/-- The memory of a state is in its canonical form. -/
def MemoryCanonical (s : State) : Prop := Memory.wf s.mysko.serviceEpoch s.mem

end Sys2Proof.Safety
end

