-- ==== Sys2Proof/Certificates/Slice0/Obligations.lean ====
section
/-!
DEFINITION. The statements for the provers. Each docstring names the rules of spec/ that it follows.
-/

open Sys2Proof Sys2Proof.Machine Sys2Proof.Safety

/-! ### Completion: the words of Chapter 12 -/

/-- R244, R245, R247 to R249: the three-source integer words of format A. Element by element, each computes the function that its entry
states on the two's complement (or unsigned) values of its sources; the effective lanes of the destination hold the result. R223, R245,
R247: the same with an immediate as the second source; VMOV takes the immediate itself. -/
def Obligations.VectorIntegerWordsComplete : Prop :=
  (∀ e ∈ ([(Instr.vadd, fun f => arith f.fmt (f.modi.getLsbD 0) fun a b _ => a + b),
      (.vsub, fun f => arith f.fmt (f.modi.getLsbD 0) fun a b _ => a - b),
      (.vmul, fun f => arith f.fmt (f.modi.getLsbD 0) fun a b _ => a * b),
      (.vmulh, fun f => mulHigh f.fmt),
      (.vmad, fun f => arith f.fmt (f.modi.getLsbD 0) fun a b c => a * b + c),
      (.vmin, fun f => minMax f.fmt false),
      (.vmax, fun f => minMax f.fmt true),
      (.vabs, fun f => arith f.fmt (f.modi.getLsbD 0) fun a _ _ => |a|),
      (.vneg, fun f => arith f.fmt (f.modi.getLsbD 0) fun a _ _ => -a),
      (.vand, fun _ _ a b _ => a &&& b),
      (.vor, fun _ _ a b _ => a ||| b),
      (.vxor, fun _ _ a b _ => a ^^^ b),
      (.vnot, fun _ k a _ _ => 2 ^ k - 1 - a),
      (.vshl, fun _ k a n _ => if k ≤ n then 0 else a * 2 ^ n),
      (.vshr, fun _ k a n _ => if k ≤ n then 0 else a / 2 ^ n),
      (.vsar, fun _ k a n _ => wrapInt k (sextNat k a / ((2 ^ min n k : Nat) : Int))),
      (.vrot, fun _ k a n _ => a * 2 ^ (n % k) % 2 ^ k + a / 2 ^ (k - n % k)),
      (.vbfx, fun f => extractField f.fmt),
      (.vbfi, fun _ => insertField),
      (.vpopc, fun _ k a _ _ => popNat k a),
      (.vclz, fun _ k a _ _ => clzBits k a),
      (.vctz, fun _ k a _ _ => ctzBits k a),
      (.vbrev, fun _ k a _ _ => revBits k a),
      (.vpermb, fun _ => permuteBytes),
      (.vmov, fun _ _ a _ _ => a)] : List ((FmtA → Instr) × (FmtA → Nat → Nat → Nat → Nat → Nat))),
    ∀ (f : FmtA) (s : State) (sl : Slot), Issues s sl (e.1 f) →
      exec (e.1 f) s = .next (after (e.1 f) sl
        (vecResult (e.1 f) f.toHead s sl (lanes3 f.fmt sl.w (e.2 f) (sl.srcA f) (sl.srcB f) (sl.srcC f))))) ∧
  ((∀ e ∈ ([(Instr.vaddI, fun f => arith f.fmt (f.modi.getLsbD 0) fun a b _ => a + b),
      (.vsubI, fun f => arith f.fmt (f.modi.getLsbD 0) fun a b _ => a - b),
      (.vmulI, fun f => arith f.fmt (f.modi.getLsbD 0) fun a b _ => a * b),
      (.vmulhI, fun f => mulHigh f.fmt),
      (.vminI, fun f => minMax f.fmt false),
      (.vmaxI, fun f => minMax f.fmt true),
      (.vandI, fun _ _ a b _ => a &&& b),
      (.vorI, fun _ _ a b _ => a ||| b),
      (.vxorI, fun _ _ a b _ => a ^^^ b),
      (.vshlI, fun _ k a n _ => if k ≤ n then 0 else a * 2 ^ n),
      (.vshrI, fun _ k a n _ => if k ≤ n then 0 else a / 2 ^ n),
      (.vsarI, fun _ k a n _ => wrapInt k (sextNat k a / ((2 ^ min n k : Nat) : Int))),
      (.vrotI, fun _ k a n _ => a * 2 ^ (n % k) % 2 ^ k + a / 2 ^ (k - n % k))] :
        List ((FmtI → Instr) × (FmtI → Nat → Nat → Nat → Nat → Nat))),
    ∀ (f : FmtI) (s : State) (sl : Slot), Issues s sl (e.1 f) →
      exec (e.1 f) s = .next (after (e.1 f) sl
        (vecResult (e.1 f) f.toHead s sl (lanes3 f.fmt sl.w (e.2 f) (sl.lanes 0 f.a) (immI sl f) Lanes.zero)))) ∧
  ∀ (f : FmtI) (s : State) (sl : Slot), Issues s sl (.vmovI f) →
    exec (.vmovI f) s = .next (after (.vmovI f) sl (vecResult (.vmovI f) f.toHead s sl (immI sl f))))

/-- R246: VADDC and VSUBB write the sum or difference and, in the effective lanes of P[pc], the carry or borrow out. R250: VSEL takes
lane i of a where bit i of P[c] is set, and of b elsewhere. R251, R253, R258, R259, R270: the words with a predicate result write it in
the effective lanes. -/
def Obligations.CarryAndCompareWordsComplete : Prop :=
  (let effect (i : Instr) (h : Head) (pc : Nat) (op : Nat → Nat → Nat → Nat → Nat × Bool) (a b : Lanes) (s : State) (sl : Slot) : State :=
    let r := carryLanes sl.w op (sl.g.pred pc) a b
    let t := writeVec (noteIssued s sl) sl h.dst (sl.eff h.guard) (Lanes.build fun k => BitVec.ofNat 64 (r.getD k (0, false)).1)
    popPorts (updGroup t sl.g.gid fun g =>
      g.setPred pc (mergeMask (sl.eff h.guard) (maskOf fun k => (r.getD k (0, false)).2) (g.pred pc))) sl (wordPorts i)
  (∀ e ∈ ([(Instr.vaddc, addCarry), (.vsubb, subBorrow)] : List ((FmtA → Instr) × (Nat → Nat → Nat → Nat → Nat × Bool))),
    ∀ (f : FmtA) (s : State) (sl : Slot), Issues s sl (e.1 f) →
      exec (e.1 f) s = .next (after (e.1 f) sl (effect (e.1 f) f.toHead f.modi.toNat e.2 (sl.srcA f) (sl.srcB f) s sl))) ∧
  ∀ e ∈ ([(Instr.vaddcI, addCarry), (.vsubbI, subBorrow)] : List ((FmtI → Instr) × (Nat → Nat → Nat → Nat → Nat × Bool))),
    ∀ (f : FmtI) (s : State) (sl : Slot), Issues s sl (e.1 f) →
      exec (e.1 f) s = .next (after (e.1 f) sl (effect (e.1 f) f.toHead (f.modi.toNat % 16) e.2 (sl.lanes 0 f.a) (immI sl f) s sl))) ∧
  ((∀ (f : FmtA) (s : State) (sl : Slot), Issues s sl (.vsel f) →
    exec (.vsel f) s = .next (after (.vsel f) sl
      (vecResult (.vsel f) f.toHead s sl (Lanes.merge (sl.predSrc f.c) (sl.srcA f) (sl.srcB f))))) ∧
  (∀ e ∈ ([(Instr.vcmp, fun f sl => maskOf fun i =>
        intRel f.modi.toNat (codeSigned f.fmt) sl.w ((sl.srcA f).get i).toNat ((sl.srcB f).get i).toNat),
      (.vtest, fun f sl => maskOf fun i => ((sl.srcA f).get i &&& (sl.srcB f).get i == 0) == f.modi.getLsbD 0),
      (.vfcmp, fun f sl => maskOf fun i =>
        floatRel f.modi.toNat (((sl.fltA f).get i).toNat % 2 ^ 32) (((sl.fltB f).get i).toNat % 2 ^ 32)),
      (.vfclass, fun f sl => maskOf fun i =>
        (sl.uni32 f.wide.toInt f.b).toNat.testBit (floatClass (((sl.fltA f).get i).toNat % 2 ^ 32))),
      (.selk, fun f sl => maskOf fun p =>
        rankOf (sl.eff f.guard) (fun q => rankKey f.fmt (((sl.redSrc f).get q).toNat % 2 ^ 32)) (rankSeg f) p < sl.rankK f)] :
      List ((FmtA → Instr) × (FmtA → Slot → Mask))),
    ∀ (f : FmtA) (s : State) (sl : Slot), Issues s sl (e.1 f) →
      exec (e.1 f) s = .next (after (e.1 f) sl (predResult (e.1 f) f.toHead s sl (e.2 f sl)))) ∧
  ∀ e ∈ ([(Instr.vcmpI, fun f sl => maskOf fun i =>
        intRel f.modi.toNat (codeSigned f.fmt) sl.w ((sl.lanes 0 f.a).get i).toNat ((immI sl f).get i).toNat),
      (.vtestI, fun f sl => maskOf fun i => ((sl.lanes 0 f.a).get i &&& (immI sl f).get i == 0) == f.modi.getLsbD 0),
      (.vfcmpI, fun f sl => maskOf fun i =>
        floatRel (f.modi.toNat % 16) (((sl.floats f.fmt 0 f.a).get i).toNat % 2 ^ 32) (((immF f).get i).toNat % 2 ^ 32))] :
      List ((FmtI → Instr) × (FmtI → Slot → Mask))),
    ∀ (f : FmtI) (s : State) (sl : Slot), Issues s sl (e.1 f) →
      exec (e.1 f) s = .next (after (e.1 f) sl (predResult (e.1 f) f.toHead s sl (e.2 f sl))))

/-! ### Completion: the words of Chapter 13 -/

/-- R254 to R257, R260: the float words compute their function element by element. -/
def Obligations.VectorFloatWordsComplete : Prop :=
  (∀ e ∈ ([(Instr.vfadd, fun f => fAdd f.fmt f.mode),
      (.vfsub, fun f => fSub f.fmt f.mode),
      (.vfmul, fun f => fMul f.fmt f.mode),
      (.vfma, fun f => fFma false false f.fmt f.mode),
      (.vfms, fun f => fFma false true f.fmt f.mode),
      (.vfnma, fun f => fFma true false f.fmt f.mode),
      (.vfmin, fun f => fMinMax false f.fmt),
      (.vfmax, fun f => fMinMax true f.fmt),
      (.vfabs, fun f => fSign f.fmt fun _ _ => false),
      (.vfneg, fun f => fSign f.fmt fun sg _ => !sg),
      (.vfcpys, fun f => fSign f.fmt (signCopy f.fmt)),
      (.vrcp, fun _ a _ _ => specRcp a),
      (.vrsqrt, fun _ a _ _ => specRsqrt a),
      (.vsqrt, fun f a _ _ => specSqrt (Rm.ofCode f.mode) a),
      (.vexp2, fun _ a _ _ => specExp2 a),
      (.vlog2, fun _ a _ _ => specLog2 a),
      (.vsin, fun _ a _ _ => specSin a),
      (.vcos, fun _ a _ _ => specCos a),
      (.vtanh, fun _ a _ _ => specTanh a)] : List ((FmtA → Instr) × (FmtA → Nat → Nat → Nat → Nat))),
    ∀ (f : FmtA) (s : State) (sl : Slot), Issues s sl (e.1 f) →
      exec (e.1 f) s = .next (after (e.1 f) sl
        (vecResult (e.1 f) f.toHead s sl (floats3 f.fmt (e.2 f) (sl.fltA f) (sl.fltB f) (sl.fltC f))))) ∧
  ∀ e ∈ ([(Instr.vfaddI, fun f => fAdd f.fmt f.mode),
      (.vfsubI, fun f => fSub f.fmt f.mode),
      (.vfmulI, fun f => fMul f.fmt f.mode),
      (.vfminI, fun f => fMinMax false f.fmt),
      (.vfmaxI, fun f => fMinMax true f.fmt),
      (.vfcpysI, fun f => fSign f.fmt (signCopy f.fmt))] : List ((FmtI → Instr) × (FmtI → Nat → Nat → Nat → Nat))),
    ∀ (f : FmtI) (s : State) (sl : Slot), Issues s sl (e.1 f) →
      exec (e.1 f) s = .next (after (e.1 f) sl
        (vecResult (e.1 f) f.toHead s sl (floats3 f.fmt (e.2 f) (sl.floats f.fmt 0 f.a) (immF f) Lanes.zero)))

/-- R262 to R265: the conversions. CVT narrows element 0 with zero above it; CVTN replaces element k; CVTW widens element k; MXQ and
MXDQ go to and from an MX image. CVTEF also rewrites its residue register in the effective lanes (R143). -/
def Obligations.ConversionWordsComplete : Prop :=
  (∀ e ∈ ([(Instr.cvt, fun f sl => Lanes.build fun i => BitVec.ofNat 64 (convertTo
        (laneElem (fmtOf (BitVec.ofInt 5 (shortOf f.c))) 0 ((sl.coded (BitVec.ofInt 5 (shortOf f.c)) f f.a).get i)) (fmtOf f.fmt) f.mode)),
      (.cvtn, fun f sl => Lanes.build fun i =>
        let w := (fmtOf f.fmt).laneWidth
        let k := f.modi.toNat
        let old := ((sl.lanes f.wide.toInt f.b).get i).toNat
        BitVec.ofNat 64 (old - bitsNat old (w * k) w * 2 ^ (w * k) +
          convertTo (fp32.decode ((sl.floats 8 f.wide f.a).get i).toNat) (fmtOf f.fmt) f.mode * 2 ^ (w * k))),
      (.cvtw, fun f sl => Lanes.build fun i =>
        let v := bitsNat ((sl.coded f.fmt f f.a).get i).toNat ((fmtOf f.fmt).laneWidth * f.modi.toNat) (fmtOf f.fmt).codeBits
        match fmtOf f.fmt with
        | .int q => BitVec.ofNat 64 (wrapInt 32 (q.decode v))
        | t => BitVec.ofNat 64 (roundFp (t.decode v) fp32 .rne false)),
      (.mxq, fun f sl =>
        let block (b : Nat) : Nat × List Nat := mxEncode ((List.range 32).map fun i =>
          if (sl.eff f.guard).getLsbD (32 * b + i) then fp32.decode ((sl.floats 8 f.wide f.a).get (32 * b + i)).toNat
          else .fin false 0 0) f.fmt.toNat
        mxImage f.fmt.toNat [slotBytes f.fmt.toNat (block 0).2, slotBytes f.fmt.toNat (block 1).2] [(block 0).1, (block 1).1]),
      (.mxdq, fun f sl => Lanes.build fun i =>
        let a := sl.lanes f.wide.toInt f.a
        let x := mxValue f.fmt.toNat (imageScale (i / 32) a) (slotElem f.fmt.toNat (imageSlot f.fmt.toNat (i / 32) a) (i % 32))
        BitVec.ofNat 64 (roundFp x fp32 (Rm.ofCode f.mode) false))] : List ((FmtA → Instr) × (FmtA → Slot → Lanes))),
    ∀ (f : FmtA) (s : State) (sl : Slot), Issues s sl (e.1 f) →
      exec (e.1 f) s = .next (after (e.1 f) sl (vecResult (e.1 f) f.toHead s sl (e.2 f sl)))) ∧
  ∀ (f : FmtA) (s : State) (sl : Slot), Issues s sl (.cvtef f) →
    let r := (List.range 64).map fun i =>
      efRound ((sl.floats 8 f.wide f.a).get i).toNat ((sl.g.vreg (vecNum f.b)).get i).toNat (fmtOf f.fmt)
    let lane (g : Nat × Nat → Nat) : Lanes := Lanes.build fun i => BitVec.ofNat 64 (g (r.getD i (0, 0)))
    exec (.cvtef f) s = .next (after (.cvtef f) sl
      (popPorts (updGroup (writeVec (noteIssued s sl) sl f.dst (sl.eff f.guard) (lane (·.1))) sl.g.gid fun g =>
        g.setVreg (vecNum f.b) (Lanes.merge (sl.eff f.guard) (lane (·.2)) (g.vreg (vecNum f.b)))) sl (wordPorts (.cvtef f))))

/-- R267, R268, R270: the words that move, combine and rank lanes. -/
def Obligations.CrossLaneWordsComplete : Prop :=
  (∀ e ∈ ([(Instr.vshfl, fun f sl => Lanes.build fun i =>
        (sl.srcA f).get (shuffleLane f.modi.toNat (((sl.srcB f).get i).toNat % 2 ^ 32) i)),
      (.vbcast, fun f sl => List.replicate 64 ((sl.srcA f).get
        (if f.modi.getLsbD 0 then (lowestLane (sl.eff f.guard)).getD 0 else (sl.uni32 f.wide.toInt f.b).toNat % 64))),
      (.vredadd, fun f sl => List.replicate 64 (BitVec.ofNat 64 (redAdd f.fmt (sl.eff f.guard) (sl.redSrc f)))),
      (.vredmax, fun f sl => List.replicate 64 (BitVec.ofNat 64 (redMax f.fmt (sl.eff f.guard) (sl.redSrc f)))),
      (.vscan, fun f sl => Lanes.build fun i =>
        BitVec.ofNat 64 ((scanLanes f.fmt (sl.eff f.guard) (sl.redSrc f)).getD i 0))] : List ((FmtA → Instr) × (FmtA → Slot → Lanes))),
    ∀ (f : FmtA) (s : State) (sl : Slot), Issues s sl (e.1 f) →
      exec (e.1 f) s = .next (after (e.1 f) sl (vecResult (e.1 f) f.toHead s sl (e.2 f sl)))) ∧
  ∀ e ∈ ([(Instr.topk, fun f eff a _ c => if eff.getLsbD c then a.get c else rankFill f.fmt),
      (.topkM, fun _ eff _ g c => if eff.getLsbD c then BitVec.ofNat 64 (c - g) else 0xFFFFFFFF)] :
      List ((FmtA → Instr) × (FmtA → Mask → Lanes → Nat → Nat → Dword))),
    ∀ (f : FmtA) (s : State) (sl : Slot), Issues s sl (e.1 f) →
      let eff := sl.eff f.guard
      let a := sl.redSrc f
      let seg := rankSeg f
      let write := eff &&& maskOf fun p => decide (p % seg < sl.rankK f)
      let key (p : Nat) : Int := rankKey f.fmt ((a.get p).toNat % 2 ^ 32)
      let r := Lanes.build fun p =>
        if write.getLsbD p then e.2 f eff a (p / seg * seg) (laneOfRank eff key seg (p / seg * seg) (p % seg)) else 0
      exec (e.1 f) s = .next (after (e.1 f) sl (popPorts (writeVec (noteIssued s sl) sl f.dst write r) sl (wordPorts (e.1 f))))

/-! ### Completion: uniform and predicate words -/

/-- R223, R240: the uniform words, on 32 bits or on 64-bit pairs. -/
def Obligations.UniformWordsComplete : Prop :=
  (∀ e ∈ ([(Instr.sadd, fun _ w a b _ => (a + b) % 2 ^ w),
      (.ssub, fun _ w a b _ => wrapInt w ((a : Int) - b)),
      (.smul, fun _ w a b _ => a * b % 2 ^ w),
      (.sand, fun _ _ a b _ => a &&& b),
      (.sor, fun _ _ a b _ => a ||| b),
      (.sxor, fun _ _ a b _ => a ^^^ b),
      (.sshl, fun _ w a n _ => if w ≤ n then 0 else a * 2 ^ n),
      (.sshr, fun _ w a n _ => if w ≤ n then 0 else a / 2 ^ n),
      (.ssar, fun _ w a n _ => wrapInt w (sextNat w a / ((2 ^ min n w : Nat) : Int))),
      (.smin, fun f => uniMinMax false (f.modi.getLsbD 1)),
      (.smax, fun f => uniMinMax true (f.modi.getLsbD 1)),
      (.smov, fun _ _ a _ _ => a),
      (.ssel, fun _ _ a b c => if c ≠ 0 then a else b)] : List ((FmtA → Instr) × (FmtA → Nat → Nat → Nat → Nat → Nat))),
    ∀ (f : FmtA) (s : State) (sl : Slot), Issues s sl (e.1 f) →
      let w := if f.modi.getLsbD 0 then 64 else 32
      exec (e.1 f) s = .next (after (e.1 f) sl (uniResult f.toHead (f.modi.getLsbD 0) s sl
        (e.2 f w (sl.uniW w f.wide.toInt f.a) (sl.uniW w f.wide.toInt f.b) (sl.uniW w f.wide.toInt f.c))))) ∧
  ∀ e ∈ ([(Instr.saddI, fun _ w a b => (a + b) % 2 ^ w),
      (.ssubI, fun _ w a b => wrapInt w ((a : Int) - b)),
      (.smulI, fun _ w a b => a * b % 2 ^ w),
      (.sandI, fun _ _ a b => a &&& b),
      (.sorI, fun _ _ a b => a ||| b),
      (.sxorI, fun _ _ a b => a ^^^ b),
      (.sshlI, fun _ w a n => if w ≤ n then 0 else a * 2 ^ n),
      (.sshrI, fun _ w a n => if w ≤ n then 0 else a / 2 ^ n),
      (.ssarI, fun _ w a n => wrapInt w (sextNat w a / ((2 ^ min n w : Nat) : Int))),
      (.sminI, fun f w a b => uniMinMax false (f.modi.getLsbD 1) w a b 0),
      (.smaxI, fun f w a b => uniMinMax true (f.modi.getLsbD 1) w a b 0),
      (.smovI, fun _ _ _ b => b)] : List ((FmtI → Instr) × (FmtI → Nat → Nat → Nat → Nat))),
    ∀ (f : FmtI) (s : State) (sl : Slot), Issues s sl (e.1 f) →
      let w := if f.modi.getLsbD 0 then 64 else 32
      exec (e.1 f) s = .next (after (e.1 f) sl (uniResult f.toHead (f.modi.getLsbD 0) s sl
        (e.2 f w (sl.uniW w 0 f.a) (wrapInt w f.imm.toInt))))

/-- R238, R241 to R243, R349: the words that read a system value, the argument block, a mask or the timebase, and the predicate
operations. -/
def Obligations.UniformReadsAndPredicateWordsComplete : Prop :=
  (∀ e ∈ ([(Instr.srdsys, fun f s sl => uniResult f.toHead (f.modi.getLsbD 0) s sl (sysValue s sl (shortOf f.a).toNat)),
      (.sldc, fun f s sl =>
        let i := (sl.uni32 f.wide.toInt f.a).toNat
        let args := ((findLaunch s sl.g.launch).map (·.args)).getD []
        writeUni (noteIssued s sl) sl f.dst (if i < 64 then args.getD i 0 else 0)),
      (.pcnt, fun f s sl => writeUni (noteIssued s sl) sl f.dst (BitVec.ofNat 32 (popMask (sl.countMask f)))),
      (.pfirst, fun f s sl => writeUni (noteIssued s sl) sl f.dst (BitVec.ofNat 32 ((lowestLane (sl.countMask f)).getD 64))),
      (.pset, fun f s sl => writePred (noteIssued s sl) sl f.dst (sl.uni64 f.wide.toInt f.a)),
      (.pclr, fun f s sl => writePred (noteIssued s sl) sl f.dst 0),
      (.pand, fun f s sl => writePred (noteIssued s sl) sl f.dst (sl.predSrc f.a &&& sl.predSrc f.b)),
      (.por, fun f s sl => writePred (noteIssued s sl) sl f.dst (sl.predSrc f.a ||| sl.predSrc f.b)),
      (.pxor, fun f s sl => writePred (noteIssued s sl) sl f.dst (sl.predSrc f.a ^^^ sl.predSrc f.b)),
      (.pandn, fun f s sl => writePred (noteIssued s sl) sl f.dst (sl.predSrc f.a &&& ~~~sl.predSrc f.b)),
      (.pmov, fun f s sl =>
        writePred (noteIssued s sl) sl f.dst (if f.modi.getLsbD 0 then ~~~sl.predSrc f.a else sl.predSrc f.a)),
      (.execrd, fun f s sl => writePred (noteIssued s sl) sl f.dst sl.p.exec)] : List ((FmtA → Instr) × (FmtA → State → Slot → State))),
    ∀ (f : FmtA) (s : State) (sl : Slot), Issues s sl (e.1 f) → exec (e.1 f) s = .next (after (e.1 f) sl (e.2 f s sl))) ∧
  ∀ (f : FmtY) (s : State) (sl : Slot), Issues s sl (.tstamp f) →
    exec (.tstamp f) s = .next (after (.tstamp f) sl (writePair (noteIssued s sl) sl f.dst (BitVec.ofNat 64 s.tick)))

/-! ### Completion: transfers, paths and waits -/

/-- R230 to R235: the transfers. A taken transfer to a target that raises no BADTARGET ends the run there; one that is not taken goes
on. CALL writes the link, LOOPS lowers its count. -/
def Obligations.TransferWordsComplete : Prop :=
  ∀ (f : FmtB) (s : State) (sl : Slot),
    (∀ e ∈ ([(Instr.bra, fun f sl => targetPc sl.pc f), (.brx, fun f sl => sl.uni64 0 f.a), (.ret, fun f sl => sl.uni64 0 f.a)] :
        List ((FmtB → Instr) × (FmtB → Slot → Dword))), Issues s sl (e.1 f) →
      badTarget (noteIssued s sl) sl.g (e.2 f sl) = false →
      exec (e.1 f) s = .next (afterTransfer (e.1 f) sl (noteIssued s sl) (e.2 f sl))) ∧
    (Issues s sl (.call f) → badTarget (noteIssued s sl) sl.g (targetPc sl.pc f) = false →
      exec (.call f) s =
        .next (afterTransfer (.call f) sl (writePair (noteIssued s sl) sl f.dst (nextPc sl.pc)) (targetPc sl.pc f))) ∧
    (Issues s sl (.brc f) → brcTaken sl f = true → badTarget (noteIssued s sl) sl.g (targetPc sl.pc f) = false →
      exec (.brc f) s = .next (afterTransfer (.brc f) sl (noteIssued s sl) (targetPc sl.pc f))) ∧
    (Issues s sl (.brc f) → brcTaken sl f = false → exec (.brc f) s = .next (after (.brc f) sl (noteIssued s sl))) ∧
    ∀ (n : BitVec 8), f.a = .uni n →
      (Issues s sl (.loops f) → 1 < (sl.g.sreg n.toNat).toNat → badTarget (noteIssued s sl) sl.g (targetPc sl.pc f) = false →
        exec (.loops f) s = .next (afterTransfer (.loops f) sl (updGroup (noteIssued s sl) sl.g.gid fun g =>
          g.setSreg n.toNat (BitVec.ofNat 32 ((sl.g.sreg n.toNat).toNat - 1))) (targetPc sl.pc f))) ∧
      (Issues s sl (.loops f) → (sl.g.sreg n.toNat).toNat ≤ 1 →
        exec (.loops f) s = .next (after (.loops f) sl (updGroup (noteIssued s sl) sl.g.gid fun g => g.setSreg n.toNat 0)))

/-- R37, R233: BDIV. With no lane of EXEC taken it goes on; with every lane taken it is a branch; otherwise the path diverges, the
smaller side detaches (the taken side on a tie does not), and the larger side goes on. R38, R39, R235 to R238: EXIT ends the lanes of
EXEC, RECON meets its path's top record, EXECWR sets EXEC within the lane set, and SWAIT goes on once its deadline has come. -/
def Obligations.PathWordsComplete : Prop :=
  (∀ (f : FmtB) (s : State) (sl : Slot), Issues s sl (.bdiv f) →
    let t := sl.p.exec &&& sl.guardMask f.guard
    let n := sl.p.exec &&& ~~~sl.guardMask f.guard
    let tgt := targetPc sl.pc f
    let k := if recordCount sl.g + 2 ≤ 48 then lowestFree sl.g else none
    let split (minor major : Mask) (pc : Dword) : State :=
      diverge (noteIssued s sl) sl.g.gid sl.run.entry k (reconPc sl.pc f) minor major pc
    (t = 0 → exec (.bdiv f) s = .next (after (.bdiv f) sl (noteIssued s sl))) ∧
    (t ≠ 0 → n = 0 → badTarget (noteIssued s sl) sl.g tgt = false →
      exec (.bdiv f) s = .next (afterTransfer (.bdiv f) sl (noteIssued s sl) tgt)) ∧
    (t ≠ 0 → n ≠ 0 → badTarget (noteIssued s sl) sl.g tgt = false → recordCount sl.g < 48 → popMask t < popMask n →
      exec (.bdiv f) s = .next (after (.bdiv f) sl (split t n tgt))) ∧
    (t ≠ 0 → n ≠ 0 → badTarget (noteIssued s sl) sl.g tgt = false → recordCount sl.g < 48 → popMask n ≤ popMask t →
      exec (.bdiv f) s = .next (afterTransfer (.bdiv f) sl (split n t (nextPc sl.pc)) tgt))) ∧
  (∀ (s : State) (sl : Slot),
    (∀ (f : FmtB), Issues s sl (.exit f) →
      let left := sl.p.lanes &&& ~~~sl.p.exec
      (left ≠ 0 → exec (.exit f) s = .next (after (.exit f) sl
        (updPath (noteIssued s sl) sl.g.gid sl.run.entry fun p => { p with lanes := left, exec := 0 }))) ∧
      (left = 0 →
        let last := !(sl.g.paths.set sl.run.entry Path.empty).any fun p => p.st != .free
        let t := if sl.g.sup = some sl.run.entry then dropFaulted (noteIssued s sl) sl.g.gid sl.run.entry else noteIssued s sl
        exec (.exit f) s = .next (freeUnit (countIssue
          (if last then groupEnd t sl.g.gid else freeEntry t sl.g.gid sl.run.entry) sl (.exit f) false) sl.run.core sl.run.unit))) ∧
    (∀ (f : FmtA), Issues s sl (.recon f) →
      (sl.p.stack = [] → exec (.recon f) s = .next (after (.recon f) sl (noteIssued s sl))) ∧
      ∀ r rest, sl.p.stack = r :: rest →
        (r.recon ≠ sl.pc → exec (.recon f) s = .next (after (.recon f) sl (noteIssued s sl))) ∧
        (r.recon = sl.pc → r.kind = .serial → r.phase = 1 →
          exec (.recon f) s = .next (afterTransfer (.recon f) sl (updPath (noteIssued s sl) sl.g.gid sl.run.entry fun p =>
            { p with exec := r.saved &&& p.lanes, stack := { r with phase := 2, saved2 := p.exec } :: rest }) r.resume)) ∧
        (r.recon = sl.pc → r.kind = .serial → r.phase ≠ 1 →
          exec (.recon f) s = .next (after (.recon f) sl (updPath (noteIssued s sl) sl.g.gid sl.run.entry fun p =>
            { p with exec := (p.exec ||| r.saved2) &&& p.lanes, stack := rest }))) ∧
        (r.recon = sl.pc → r.kind = .split → r.partner = none →
          exec (.recon f) s = .next (after (.recon f) sl (updPath (noteIssued s sl) sl.g.gid sl.run.entry fun p =>
            { p with stack := rest })))) ∧
    (∀ (f : FmtA), Issues s sl (.execwr f) →
      (∀ n, f.a = .vec n → exec (.execwr f) s = .next (after (.execwr f) sl
        (updPath (noteIssued s sl) sl.g.gid sl.run.entry fun p => { p with exec := sl.g.pred n.toNat &&& p.lanes }))) ∧
      ((∀ n, f.a ≠ .vec n) → exec (.execwr f) s = .next (after (.execwr f) sl
        (updPath (noteIssued s sl) sl.g.gid sl.run.entry fun p => { p with exec := sl.uni64 f.wide.toInt f.a &&& p.lanes })))) ∧
    ∀ (f : FmtA), Issues s sl (.swait f) →
      let done := updPath (noteIssued s sl) sl.g.gid sl.run.entry fun p => { p with deadline := none }
      (f.modi.getLsbD 0 = true → (sl.uni64 f.wide.toInt f.a).toNat ≤ s.tick →
        exec (.swait f) s = .next (after (.swait f) sl done)) ∧
      (∀ d, f.modi.getLsbD 0 = false → sl.p.deadline = some d → d ≤ s.tick →
        exec (.swait f) s = .next (after (.swait f) sl done)) ∧
      (f.modi.getLsbD 0 = false → sl.p.deadline = none → (sl.uni32 f.wide.toInt f.a).toInt ≤ 0 →
        exec (.swait f) s = .next (after (.swait f) sl done)))

/-! ### Completion: the words of Chapter 14 -/

/-- R279, R281: a load whose effective lanes all pass the checks of R83 opens its destination and sends one access, which takes on the
orders of R101, R106 and R107; a lane that has no element, that of a GRLD of none, has its result at once.
What the rules leave open here rests on log entries 27 and 37. -/
def Obligations.GlobalLoadWordsComplete : Prop :=
  ∀ (f : FmtM) (s : State) (sl : Slot),
    let eff := sl.eff f.guard
    let t := noteIssued s sl
    let base := sl.uni64 0 f.a
    let sent (k : OpKind) (addr : Nat → Dword) (remote : Mask) : State :=
      let d := openDst t sl f.dst eff
      let o : Op := { baseOp d.1 sl k with
        cls := if remote != 0 then some .fab else none, dst := d.2, todo := eff,
        remote := remote, faulted := 0, cause := 0, addrs := addrLanes addr, res := Lanes.zero,
        channel := f.channel.toNat, scope := f.scope.toNat, order := f.order.toNat }
      let now := maskOf fun i => eff.getLsbD i && (o.units i).isEmpty
      sendOp d.1 { o with
        todo := eff &&& ~~~now, done := now, res := Lanes.masked now (List.replicate 64 (BitVec.ofNat 64 f32NegZero)) }
    (∀ e ∈ ([(Instr.ldv, sl.gaddr f), (.ldp, fun i =>
          base + BitVec.ofInt 64 (sextOff f.off) + BitVec.ofNat 64 (i * 2 ^ f.width.toNat))] : List ((FmtM → Instr) × (Nat → Dword))),
      Issues s sl (e.1 f) → eff ≠ 0 → badLanes t sl.g.ctx eff e.2 = 0 →
      ocFull sl.g (if remoteLanes t eff e.2 != 0 then some .fab else none) = false →
      exec (e.1 f) s = .next (after (e.1 f) sl (sent (.load f.width.toNat f.sign (loadOut f)) e.2 (remoteLanes t eff e.2)))) ∧
    (let list := sl.lanes 0 f.b
     let n := min (sl.uni32 0 f.c).toNat 64
     let el := grldAddr base (grldPitch f) (2 ^ f.width.toNat) list
     let remote := maskOf fun i => eff.getLsbD i && (List.range n).any fun q => !vaLocal t (el q i)
     Issues s sl (.grld f) → eff ≠ 0 →
     (maskOf fun i => eff.getLsbD i && (List.range n).any fun q => !vaOk t sl.g.ctx (el q i)) = 0 →
     ocFull sl.g (if remote != 0 then some .fab else none) = false →
     exec (.grld f) s = .next (after (.grld f) sl (sent (.grld (grldFmt f).toNat (grldPitch f) n list)
       (fun i => base + BitVec.ofNat 64 (i * 2 ^ f.width.toNat)) remote)))

/-- R282: PFETCH issues whatever its lanes: the lanes that would fault are dropped, the requests of those that another device owns are
sent there, and the others, if any, prefetch at their home slices.
What the rule leaves open here rests on log entry 37. -/
def Obligations.PrefetchCompletes : Prop :=
  ∀ (f : FmtM) (s : State) (sl : Slot), Issues s sl (.pfetch f) →
    let t := noteIssued s sl
    let good := sl.eff f.guard &&& ~~~(badLanes t sl.g.ctx (sl.eff f.guard) (sl.gaddr f))
    let away := remoteLanes t good (sl.gaddr f)
    let o : Op := { baseOp t sl (.prefetch (f.width == 1)) with
      todo := good, remote := away, addrs := addrLanes (sl.gaddr f), channel := f.channel.toNat }
    exec (.pfetch f) s = .next (after (.pfetch f) sl
      (if good &&& ~~~away = 0 then sendRequests t o away
       else sendOp (sendRequests t o away) { o with todo := good &&& ~~~away, remote := 0 }))

/-- R67, R112, R280: a store whose effective lanes all pass the checks of R83 pops its data and sends one access, whose bytes stay
pending in its core's Shared copies of the line; STQ pushes one address entry, with the lanes that fail the checks kept in it, and its
store follows the earlier stores of its queue.
What the rules leave open here rests on log entries 27 and 37. -/
def Obligations.GlobalStoreWordsComplete : Prop :=
  ∀ (f : FmtM) (s : State) (sl : Slot),
    let eff := sl.eff f.guard
    let addr := sl.gaddr f
    let t := noteIssued s sl
    let k := OpKind.store f.width.toNat
    (Issues s sl (.st f) → eff ≠ 0 → badLanes t sl.g.ctx eff addr = 0 →
      let remote := remoteLanes t eff addr
      ocFull sl.g (if remote != 0 then some .fab else none) = false →
      let u := popPorts t sl (wordPorts (.st f))
      let o : Op := { baseOp u sl k with
        cls := if remote != 0 then some .fab else none, todo := eff, remote := remote, addrs := addrLanes addr,
        data := sl.sdata f.c, channel := f.channel.toNat, scope := f.scope.toNat, order := f.order.toNat }
      exec (.st f) s = .next (after (.st f) sl (pendStore (sendOp u o) sl.g.core { o with id := u.exec.seq }))) ∧
    (Issues s sl (.stq f) →
      let bad := badLanes t sl.g.ctx eff addr
      let lanes := eff &&& ~~~bad
      let remote := remoteLanes t lanes addr
      let q := f.dst.reg.toNat - 240
      let cls : Option OcClass := if remote != 0 then some .fab else none
      ocFull sl.g cls = false →
      let before := queueStores t sl.g.gid q
      let v := capture t sl f.dst.cap (Lanes.masked eff (addrLanes addr))
      let u := sendOp v { baseOp v sl k with
        cls := cls, dst := .port q 0, todo := lanes, remote := remote, addrs := addrLanes addr, channel := f.channel.toNat,
        scope := f.scope.toNat, order := f.order.toNat, after := before, pieces := [q] }
      exec (.stq f) s = .next (after (.stq f) sl (updQueue u sl.g.pair q fun x =>
        { x with addrs := x.addrs ++ [⟨t.exec.seq, eff, addrLanes addr, bad, f.width.toNat, f.scope.toNat, f.channel.toNat,
          sl.pc, sl.run.entry, before⟩] })))

/-- R102, R284, R285: a scratchpad or cluster access whose effective lanes all lie in range sends one access, which is performed at the
banks later: a load opens its destination, a store pops its data. R286: QCOUNT reads the entries in
use or free; QSKIP frees a front entry that is not Filling and says whether it did.
What the rules leave open here rests on log entries 28 and 29. -/
def Obligations.ScratchpadAndQueueWordsComplete : Prop :=
  (∀ (f : FmtM) (s : State) (sl : Slot),
    let eff := sl.eff f.guard
    let t := noteIssued s sl
    let n := 2 ^ f.width.toNat
    let o := sl.pair.owner
    let core := sl.g.core
    let loaded (k : OpKind) (addr : Nat → Int) : State :=
      let d := openDst t sl f.dst eff
      sendOp d.1 { baseOp d.1 sl k with
        dst := d.2, todo := eff, addrs := intLanes addr, res := Lanes.zero, scope := f.scope.toNat, order := f.order.toNat }
    (∀ e ∈ ([(Instr.lds, false), (.ldcl, true)] : List ((FmtM → Instr) × Bool)),
      Issues s sl (e.1 f) → eff ≠ 0 → spadBad t sl e.2 n eff (sl.saddr f) = 0 →
      exec (e.1 f) s = .next (after (e.1 f) sl (loaded (.spadLoad e.2 f.swz.toNat n f.sign (sl.spadOut f)) (sl.saddr f)))) ∧
    (let pitch := 16 * (sl.uni32 0 f.b).toNat
     let a0 : Int := sl.sbase f.a + sextOff f.off
     let lane (i : Nat) : Int := a0 + (i * n : Nat)
     Issues s sl (.ldsT f) → eff ≠ 0 →
     (maskOf fun i => eff.getLsbD i && (List.range (sl.w / 8 / n)).any fun j =>
        !spadIn t core o (lane i + ((j * pitch : Nat) : Int)) n) = 0 →
     exec (.ldsT f) s = .next (after (.ldsT f) sl (loaded (.spadT f.swz.toNat n pitch (sl.w / 8)) lane))) ∧
    ∀ e ∈ ([(Instr.sts, false), (.stcl, true)] : List ((FmtM → Instr) × Bool)),
      Issues s sl (e.1 f) → eff ≠ 0 → spadBad t sl e.2 n eff (sl.saddr f) = 0 →
      let u := popPorts t sl (wordPorts (e.1 f))
      exec (e.1 f) s = .next (after (e.1 f) sl (sendOp u { baseOp u sl (.spadStore e.2 f.swz.toNat n) with
        todo := eff, addrs := intLanes (sl.saddr f), data := sl.sdata f.c, scope := f.scope.toNat,
        order := f.order.toNat }))) ∧
  (∀ (f : FmtM) (s : State) (sl : Slot),
    let q := (shortOf f.a).toNat
    (Issues s sl (.qcount f) →
      let n := (sl.pair.queue q).used sl.access
      exec (.qcount f) s = .next (after (.qcount f) sl (writeUni (noteIssued s sl) sl f.dst
        (BitVec.ofNat 32 (if shortOf f.b = 0 then n else (sl.pair.queue q).depth - n))))) ∧
    (Issues s sl (.qskip f) →
      ((sl.pair.queue q).entries = [] → exec (.qskip f) s = .next (after (.qskip f) sl (writeUni (noteIssued s sl) sl f.dst 0))) ∧
      ∀ e rest, (sl.pair.queue q).entries = e :: rest →
        ((e.st = .filling ∨ e.landed = s.exec.cycle + 1) → exec (.qskip f) s = .next (after (.qskip f) sl (writeUni (noteIssued s sl) sl f.dst 0))) ∧
        (e.st ≠ .filling → e.landed ≠ s.exec.cycle + 1 → exec (.qskip f) s = .next (after (.qskip f) sl
          (writeUni (popQueue (noteIssued s sl) sl.g.pair q) sl f.dst 1)))))

/-- R287, R288: an atomic whose effective lanes are aligned and pass the checks of R83 pops its data and sends one access, which
carries the operation of its minor; it returns the old values when it has a destination.
What the rules leave open here rests on log entries 27 and 37. -/
def Obligations.AtomicWordsComplete : Prop :=
  ∀ e ∈ ([(Instr.aadd, 0x84, 0), (.asub, 0x84, 1), (.aand, 0x84, 2), (.aor, 0x84, 3), (.axor, 0x84, 4), (.amin, 0x84, 5),
      (.amax, 0x84, 6), (.aminu, 0x84, 7), (.amaxu, 0x84, 8), (.axchg, 0x84, 9), (.acas, 0x84, 10), (.fadd, 0x85, 0)] :
      List ((FmtM → Instr) × Nat × Nat)),
    ∀ (f : FmtM) (s : State) (sl : Slot), Issues s sl (e.1 f) →
      let eff := sl.eff f.guard
      let addr := sl.gaddr f
      let t := noteIssued s sl
      let remote := remoteLanes t eff addr
      let cls : Option OcClass := if !f.dst.nwb then some .atom else if remote != 0 then some .fab else none
      let cas : Bool := e.2.1 == 0x84 && e.2.2 == 0xA
      let raw := sl.sdata f.c
      let u := popPorts t sl (wordPorts (e.1 f))
      eff ≠ 0 → badLanes t sl.g.ctx eff addr = 0 →
      (maskOf fun i => eff.getLsbD i && (addr i).toNat % 2 ^ f.width.toNat != 0) = 0 → ocFull sl.g cls = false →
      exec (e.1 f) s = .next (after (e.1 f) sl (sendOp u { baseOp u sl (.atomic e.2.1 e.2.2 f.width.toNat (!f.dst.nwb)) with
        cls := cls, dst := if !f.dst.nwb then .vreg f.dst.reg.toNat else .none, todo := eff, remote := remote,
        addrs := addrLanes addr,
        data := if cas && f.width.toNat == 2 then raw.map (fun (x : Dword) => x &&& 0xFFFFFFFF#64) else raw,
        data2 := if cas then (if f.width.toNat == 2 then raw.map (fun x : Dword => x.ushiftRight 32) else sl.g.vreg (vecNum f.c + 1))
                 else Lanes.zero,
        res := Lanes.zero, channel := f.channel.toNat, scope := f.scope.toNat, order := f.order.toNat }))

/-- R289 to R292: a Crucible word whose block is aligned and passes the checks of R83 sends one engine operation under OC.MX with its
contribution; MXACC, MXLD and MXST without an effective lane only pop their ports, and MXLD pushes an entry of zeros to a port
destination (R62).
What the rules leave open here rests on log entry 37. -/
def Obligations.CrucibleWordsComplete : Prop :=
  ∀ (f : FmtM) (s : State) (sl : Slot),
    let t := noteIssued s sl
    let eff := sl.eff f.guard
    let code := (mxFmt f).toNat
    let h := if mxHi f then 1 else 0
    let a := sl.block f (mxDisp f)
    let b := sl.lanes 0 f.b
    let line (a : Dword) (k : Nat) : Dword := (a &&& ~~~127#64) + BitVec.ofNat 64 (128 * k)
    let w := sl.block f (sextOff f.off)
    let lines := (List.range (if w &&& 127 == 0 then 2 else 3)).map (line w)
    let sent (i : Instr) (k : OpKind) (a : Dword) : State :=
      let u := popPorts t sl (wordPorts i)
      sendOp u { baseOp u sl k with
        cls := some .mx, todo := 1, remote := if vaLocal u a then 0 else 1, addrs := List.replicate 64 a, res := Lanes.zero,
        data2 := List.replicate 64 0 }
    (∀ e ∈ ([Instr.mxacc, .mxst] : List (FmtM → Instr)), eff = 0 → Issues s sl (e f) →
      exec (e f) s = .next (after (e f) sl (popPorts t sl (wordPorts (e f))))) ∧
    (eff = 0 → Issues s sl (.mxld f) → exec (.mxld f) s = .next (after (.mxld f) sl
      (if 240 ≤ f.dst.reg.toNat then (openDst (popPorts t sl (wordPorts (.mxld f))) sl f.dst 0).1
       else popPorts t sl (wordPorts (.mxld f))))) ∧
    (ocFull sl.g (some .mx) = false →
    (a.toNat % mxSlot code = 0 → vaOk t sl.g.ctx a = true →
      (Issues s sl (.mxaccOrd f) → exec (.mxaccOrd f) s = .next (after (.mxaccOrd f) sl (sent (.mxaccOrd f)
        (.crux code (mxHi f) (mxF32 f) true [⟨a, sl.mxContribution f, some (sl.ordinal f), .sent⟩]) a))) ∧
      (eff ≠ 0 → Issues s sl (.mxacc f) → exec (.mxacc f) s = .next (after (.mxacc f) sl (sent (.mxacc f)
        (.crux code (mxHi f) (mxF32 f) false [⟨a, sl.mxContribution f, none, .sent⟩]) a))) ∧
      (eff ≠ 0 → Issues s sl (.mxst f) → exec (.mxst f) s = .next (after (.mxst f) sl (sent (.mxst f)
        (.crux code (mxHi f) false false [⟨a, .store (imageScale h b) (imageSlot code h b), none, .sent⟩]) a))) ∧
      (eff ≠ 0 → Issues s sl (.mxld f) →
        let u := popPorts t sl (wordPorts (.mxld f))
        let touched := imageLanes code h &&& eff
        let d := openDst u sl f.dst touched
        let k := OpKind.crux code (mxHi f) false false [⟨a, .load, none, .sent⟩]
        exec (.mxld f) s = .next (after (.mxld f) sl (sendOp d.1 { baseOp d.1 sl k with
          cls := some .mx, dst := d.2, todo := 1, remote := if vaLocal d.1 a then 0 else 1, addrs := List.replicate 64 a,
          res := Lanes.zero, data2 := List.replicate 64 touched })))) ∧
    (w.toNat % 4 = 0 → (lines.any fun x => !vaOk t sl.g.ctx x) = false → Issues s sl (.faddOrd f) →
      exec (.faddOrd f) s = .next (after (.faddOrd f) sl (sent (.faddOrd f) (.crux 8 false false true (lines.map fun l =>
        ⟨l, .add (eff &&& maskOf fun i => (w + BitVec.ofNat 64 (4 * i)) &&& ~~~127#64 == l) b w, some (sl.ordinal f), .sent⟩)) w))))

/-- R107, R109, R294 to R296: FENCE holds back what is ordered behind it and never waits; WAITC, HWAIT and WAITW go on once their
condition holds; HARRIVE sends an arrival that follows every earlier direct access.
What the rules leave open here rests on log entries 15 and 27. -/
def Obligations.OrderAndWaitWordsComplete : Prop :=
  ∀ (f : FmtM) (s : State) (sl : Slot),
    let t := noteIssued s sl
    (Issues s sl (.fence f) →
      let rel : Bool := f.order == 2 || f.order == 3
      let u := if rel then fenceReleases t sl.g.gid f.scope.toNat else t
      exec (.fence f) s = .next (after (.fence f) sl
        (let v := if f.order == 1 || f.order == 3 then fenceAccesses u sl.g.gid else u
         if f.sign then fenceReads v sl.g.gid else v))) ∧
    (Issues s sl (.waitc f) → sl.g.oc.get (waitClass (shortOf f.a)) ≤ min (sl.uni32 0 f.b).toNat 4095 →
      exec (.waitc f) s = .next (after (.waitc f) sl t)) ∧
    (Issues s sl (.hwait f) → phaseDone (hoopDone t sl.pair (shortOf f.a).toNat) (sl.uni32 0 f.b) = true →
      exec (.hwait f) s = .next (after (.hwait f) sl t)) ∧
    (Issues s sl (.harrive f) → exec (.harrive f) s = .next (after (.harrive f) sl (sendOp t
      { baseOp t sl (.harrive (shortOf f.a).toNat) with
        dst := if f.dst.nwb then .none else .ureg f.dst.reg.toNat, todo := 1 }))) ∧
    (Issues s sl (.waitw f) → sl.flagAddr f % 8 = 0 → spadIn t sl.g.core sl.pair.owner (sl.flagAddr f) 8 = true →
      (∀ v, sl.p.matched = some v → exec (.waitw f) s = .next (after (.waitw f) sl (freeWatch t sl))) ∧
      (sl.p.matched = none → accessHeld t sl.g sl.p = false →
        waitRel (shortOf f.c).toNat (watchedValue t sl.g (sl.flagAddr f).toNat) (sl.uni64 0 f.b) = true →
        exec (.waitw f) s = .next (after (.waitw f) sl (freeWatch t sl))))

/-- R27, R28, R48, R297: the circle words. A member's CJOIN has no effect, a joiner of an open circle is counted from the next phase,
and a new circle opens at phase 0 with its joiner counted from phase 1; CARRIVE, CLEAVE and CWAIT act on a circle that the group
belongs to. R298: an aligned SIGDEC sends one decrement, a release at its scope; WAITSIG goes on once its watch has matched.
What the rules leave open here rests on log entries 15 and 28. -/
def Obligations.CircleAndSignalWordsComplete : Prop :=
  (∀ (f : FmtM) (s : State) (sl : Slot),
    let t := noteIssued s sl
    let key := sl.uni32 0 f.a
    let member : Bool := sl.g.circles.any fun k => k.1 == key
    (Issues s sl (.cjoin f) →
      (member = true → exec (.cjoin f) s = .next (after (.cjoin f) sl t)) ∧
      (∀ x, member = false → sl.g.circles.length < 8 → findCircle t sl.g.ctx key = some x → x.present.length < 20480 →
        exec (.cjoin f) s = .next (after (.cjoin f) sl (updGroup (t.onExec fun e =>
          { e with circles := e.circles.map fun y =>
              if y.ctx == sl.g.ctx && y.key == key then { y with members := y.members ++ [(sl.g.gid, x.phase + 1, x.phase + 1)] }
              else y }) sl.g.gid fun g => { g with circles := g.circles ++ [(key, x.phase + 1)] }))) ∧
      (member = false → sl.g.circles.length < 8 → findCircle t sl.g.ctx key = none →
        (t.exec.circles.filter fun y => y.ctx == sl.g.ctx).length < 65536 →
        exec (.cjoin f) s = .next (after (.cjoin f) sl (updGroup (t.onExec fun e =>
          { e with circles := e.circles ++ [⟨sl.g.ctx, key, 0, [(sl.g.gid, 1, 1)]⟩] }) sl.g.gid fun g =>
            { g with circles := g.circles ++ [(key, 1)] })))) ∧
    (Issues s sl (.cleave f) →
      exec (.cleave f) s = .next (after (.cleave f) sl (circleLeave t sl.g.gid sl.g.ctx key))) ∧
    (Issues s sl (.carrive f) →
      let u := updGroup t sl.g.gid fun g => { g with circles := g.circles.map fun k => if k.1 == key then (k.1, k.2 + 1) else k }
      let now : Bool :=
        (directOps u sl.g.gid).isEmpty && sl.g.taints.all (opPerformed u) && !u.exec.ops.any (·.arrives sl.g.gid key)
      (member = false → exec (.carrive f) s = .next (after (.carrive f) sl t)) ∧
      (member = true → now = true →
        exec (.carrive f) s = .next (after (.carrive f) sl (circleArrive u sl.g.gid sl.g.ctx key))) ∧
      (member = true → now = false → exec (.carrive f) s = .next (after (.carrive f) sl
        (sendOp u { baseOp u sl (.carrive key) with todo := 1, scope := f.scope.toNat })))) ∧
    (Issues s sl (.cwait f) → cwaitReady t sl key = true →
      exec (.cwait f) s = .next (after (.cwait f) sl (updPath t sl.g.gid sl.run.entry fun p => { p with cwaitSince := none })))) ∧
  (∀ (f : FmtM) (s : State) (sl : Slot),
    let t := noteIssued s sl
    let a := sl.signalAddr f
    a.toNat % 8 = 0 → vaOk t sl.g.ctx a = true →
    (Issues s sl (.sigdec f) →
      let remote := !vaLocal t a
      let cls : Option OcClass := if remote then some .fab else none
      let k := OpKind.sigdec (sl.uni32 0 f.c).toNat
      ocFull sl.g cls = false →
      exec (.sigdec f) s = .next (after (.sigdec f) sl (sendOp t { baseOp t sl k with
        cls := cls, todo := 1, remote := if remote then 1 else 0, addrs := List.replicate 64 a, channel := f.channel.toNat,
        scope := f.scope.toNat, order := 2 }))) ∧
    ∀ v, Issues s sl (.waitsig f) → sl.p.matched = some v →
      exec (.waitsig f) s = .next (after (.waitsig f) sl (freeWatch t sl)))

/-- R299, R300: a copy whose descriptor lies in the table of R299, whose address passes the checks of R83, and whose scratchpad and
flag ranges lie in range, sends one engine operation under OC.COPY and reaches its core's scoreboard.
What the rules leave open here rests on log entries 26 and 80. -/
def Obligations.CopyWordsComplete : Prop :=
  ∀ e ∈ ([(Instr.copy, 0), (.copyo, 1), (.copyc, 2)] : List ((FmtM → Instr) × Nat)),
    ∀ (f : FmtM) (s : State) (sl : Slot), Issues s sl (e.1 f) →
      let t := noteIssued s sl
      let d := sl.copyDesc f e.2
      let k := OpKind.copy d
      d.valid (e.2 != 2 || ((sl.descReg f 0).toNat < 2 ^ 21 && (sl.descReg f 1).toNat < 4)) = true →
      (e.2 = 2 ∨ vaOk t sl.g.ctx d.g = true) →
      (if e.2 = 2 then sideOk t sl true d d.g.toNat d.gp && sideOk t sl true d d.p d.sp else sideOk t sl false d d.p d.sp) = true →
      (∀ a, d.flag = some a → a % 8 = 0 ∧ (spadPlace t sl.g.core sl.pair.owner true a 8).isSome = true) →
      ocFull sl.g (some .copy) = false →
      exec (e.1 f) s = .next (after (e.1 f) sl (scoreEnter (popPorts (sendOp t { baseOp t sl k with
        cls := some .copy, todo := 1, remote := if e.2 != 2 && !vaLocal t d.g then 1 else 0, addrs := List.replicate 64 d.g }) sl (wordPorts (e.1 f)))
        sl.g.core t.exec.seq (copyGranules t sl d) (e.2 != 1)))

/-- R302, R303: GCLAIM answers C and raises it by at most 16, GCOMMIT and GRETIRE put slots into a state, GAWAIT goes on once its
sequence is open or past; SQPUB sends one eight-byte write, a release at .COH, and never waits; SQGET takes the slot's value once the
number matches. -/
def Obligations.RingAndSequenceWordsComplete : Prop :=
  ∀ (f : FmtM) (s : State) (sl : Slot),
    let t := noteIssued s sl
    let r := sl.ring t (ringOf f)
    let n := sl.uni32 0 f.b
    let a := sl.flagAddr f
    let inside : Prop := a % 8 = 0 ∧ spadIn t sl.g.core sl.pair.owner a 8 = true
    (Issues s sl (.gclaim f) → r.claimedLater s.exec.cycle sl.run.unit = false → exec (.gclaim f) s = .next (after (.gclaim f) sl
      (writeUni (setRing t sl (ringOf f) { r with
        claim := r.claim + BitVec.ofNat 32 (min n.toNat 16), last := (t.exec.cycle, sl.run.unit) }) sl f.dst r.claim))) ∧
    (Issues s sl (.gcommit f) → exec (.gcommit f) s = .next (after (.gcommit f) sl
      (ringPut t sl (ringOf f) n (.committed (sl.uni32 0 f.c))))) ∧
    (Issues s sl (.gretire f) → exec (.gretire f) s = .next (after (.gretire f) sl
      ((List.range (sl.uni32 0 f.c).toNat).foldl (fun s j => ringPut s sl (ringOf f) (n + BitVec.ofNat 32 j) .void) t))) ∧
    (Issues s sl (.gawait f) → (r.isOpen n = true ∨ 2 ^ 31 ≤ (n - r.take).toNat) →
      exec (.gawait f) s = .next (after (.gawait f) sl t)) ∧
    (Issues s sl (.sqpub f) → a % 8 = 0 → (spadPlace t sl.g.core sl.pair.owner true a 8).isSome = true →
      exec (.sqpub f) s = .next (after (.sqpub f) sl (sendOp t { baseOp t sl .publish with
        todo := 1, addrs := intLanes fun _ => a, data := List.replicate 64 (sl.uni32 0 f.c ++ n), order := 2, scope := 2 }))) ∧
    (Issues s sl (.sqget f) → inside →
      (∀ v, sl.p.matched = some v → exec (.sqget f) s = .next (after (.sqget f) sl
        (writeUni (freeWatch t sl) sl f.dst (v.extractLsb' 32 32)))) ∧
      (sl.p.matched = none → accessHeld t sl.g sl.p = false → (watchedValue t sl.g a.toNat).extractLsb' 0 32 = n →
        exec (.sqget f) s = .next (after (.sqget f) sl
          (writeUni (freeWatch t sl) sl f.dst ((watchedValue t sl.g a.toNat).extractLsb' 32 32)))))

/-! ### Completion: the words of Chapter 16 -/

/-- R169, R331 to R333: LEASE that passes its checks takes the lowest free slot, sends its request and answers a Pending ticket; one
that fails them answers the refusal; the release form acts on a live ticket and completes at once on any other; LEASEQ asks for the
ticket's value. R175, R177, R178, R180, R187, R188, R334 to R337: NMOP, ST.MR, XFENCE and both forms of RGET send one operation once
the checks of their entries pass.
What the rules leave open here rests on log entries 13, 22, 25 and 37. -/
def Obligations.LeaseAndFabricWordsComplete : Prop :=
  (∀ (f : FmtM) (s : State) (sl : Slot),
    let t := noteIssued s sl
    let c := sl.g.ctx
    ocFull sl.g (some .ctl) = false →
    (Issues s sl (.lease f) →
      let b := (sl.uni32 0 f.a).toNat
      let k := (sl.uni32 0 f.b).toNat
      let term := (sl.uni32 0 f.c).toNat
      (∀ slot, leaseRefusal t c b k term = 0 → freeLeaseSlot (getCtx t c) = some slot →
        let l : Lease := ⟨slot, (((leaseAt t c slot).map (·.gen)).getD 0 + 1) % 2 ^ 16, .pending, 0, b, k, 0, term, 0, 0, false, 0⟩
        let u := leaseOut ((putLease t c l).onFabric fun x => { x with txPool := x.txPool - k }) b 1
          [k, term, if f.off.getLsbD 0 then 1 else 0]
        exec (.lease f) s = .next (after (.lease f) sl (writeUni
          (sendOp u { baseOp u sl (.lease (some l.ticket)) with cls := some .ctl, todo := 1 }) sl f.dst (BitVec.ofNat 32 l.ticket)))) ∧
      (leaseRefusal t c b k term ≠ 0 → exec (.lease f) s = .next (after (.lease f) sl (settleCtl (writeUni
        (sendOp t { baseOp t sl (.lease none) with cls := some .ctl }) sl f.dst
        (BitVec.ofNat 32 (2 ^ 31 + leaseRefusal t c b k term))) sl.g.gid)))) ∧
    (Issues s sl (.leaseDrop f) →
      let ticket := (sl.uni32 0 f.a).toNat
      let op (s : State) (peer : Nat) (todo : Mask) : State :=
        settleCtl (sendOp s { baseOp s sl (.drop ticket peer) with cls := some .ctl, todo := todo }) sl.g.gid
      (findLease t c ticket = none → exec (.leaseDrop f) s = .next (after (.leaseDrop f) sl (op t 0 0))) ∧
      ∀ l, findLease t c ticket = some l →
        (l.st = .granted ∨ l.st = .notice → exec (.leaseDrop f) s = .next (after (.leaseDrop f) sl
          (op (endLease (leaseOut t l.peer 5 [l.held]) c l.slot) l.peer 1))) ∧
        (l.st = .pending → exec (.leaseDrop f) s = .next (after (.leaseDrop f) sl
          (op (updLease t c l.slot fun l => { l with dropAsked := true }) l.peer 1))) ∧
        (l.st = .refused ∨ l.st = .ended → exec (.leaseDrop f) s = .next (after (.leaseDrop f) sl (op t l.peer 0)))) ∧
    (Issues s sl (.leaseq f) → exec (.leaseq f) s = .next (after (.leaseq f) sl (sendOp t
      { baseOp t sl (.leaseq (sl.uni32 0 f.a).toNat) with
        cls := some .ctl, todo := 1, dst := if f.dst.nwb then .none else .upair f.dst.reg.toNat })))) ∧
  (∀ (f : FmtM) (s : State) (sl : Slot),
    let t := noteIssued s sl
    let c := sl.g.ctx
    (Issues s sl (.nmop f) →
      let op := f.off.toNat
      let v := sl.lanes 0 f.b
      let a := v.get 0
      let remote : Mask := if vaLocal t a then 0 else 1
      vaOk t c a = true → nmopAligned op v = true → (op = 4 → chaseOk v = true) → ocFull sl.g (some .fab) = false →
      exec (.nmop f) s = .next (after (.nmop f) sl (sendOp t { baseOp t sl (.nmop op) with
        cls := some .fab, dst := if f.dst.nwb then .none else .vreg f.dst.reg.toNat, todo := 1, remote := remote,
        addrs := List.replicate 64 a, data := v, res := Lanes.zero }))) ∧
    (Issues s sl (.stMr f) →
      let w := (sl.uni32 0 f.a).toNat
      let q := (sl.uni32 0 f.b).toNat
      ∀ x, w < 64 → windowOf t c w = some x → q % 256 = 0 → q + 256 ≤ x.len → ocFull sl.g (some .fab) = false →
        let u := popPorts t sl (wordPorts (.stMr f))
        exec (.stMr f) s = .next (after (.stMr f) sl (sendOp u { baseOp u sl (.stmr w q []) with
          cls := some .fab, todo := 3, remote := if x.home = u.fabric.index then 0 else 3,
          addrs := List.replicate 64 (BitVec.ofNat 64 (x.home * 2 ^ 53 + x.dst + q)),
          data := Lanes.merge (sl.eff f.guard) (sl.sdata f.c) (List.replicate 64 (mrIdle x.fmt)) }))) ∧
    (Issues s sl (.xfence f) → ocFull sl.g (some .ctl) = false →
      let all := f.off.getLsbD 0
      let d := (sl.uni32 0 f.a).toNat
      let target : Option Nat := if all then none else some d
      let names : Bool := all || (d < 1024 && (getCtx t c).members.getLsbD d && d != t.fabric.index)
      let ids := (t.exec.ops.filter fun o => o.gid == sl.g.gid && o.cls != some .ctl && o.goesTo target).map (·.id)
      let earlier := if names then ids else []
      exec (.xfence f) s = .next (after (.xfence f) sl (settleCtl (sendOp t { baseOp t sl (.xfence target all earlier) with
        cls := some .ctl, todo := if earlier.isEmpty then 0 else 1 }) sl.g.gid))) ∧
    ∀ x, peerEntry t c (sl.uni32 0 f.a).toNat = some x → ocFull sl.g (some .fab) = false →
      (Issues s sl (.rgetQueue f) →
        let eff := sl.eff f.guard
        let addrs := sl.lanes 0 f.b
        let bad := maskOf fun i => eff.getLsbD i && (addrs.get i).toNat % 4 != 0
        let d := openDst t sl f.dst eff
        let o : Op := { baseOp d.1 sl (.rgetQueue (sl.uni32 0 f.a).toNat) with
          id := d.1.exec.seq, cls := some .fab, dst := d.2, todo := eff &&& ~~~bad, faulted := bad,
          cause := if bad != 0 then 8 else 0, marks := if bad != 0 then 2 else 0, addrs := addrs, res := Lanes.zero }
        (eff = 0 → exec (.rgetQueue f) s = .next (after (.rgetQueue f) sl d.1)) ∧
        (eff ≠ 0 → exec (.rgetQueue f) s = .next (after (.rgetQueue f) sl (sendRget (sendOp d.1 o) o o.todo)))) ∧
      (Issues s sl (.rgetSpad f) →
        let src := sl.uni64 0 f.b
        let off := ((sl.uni64 0 f.c).extractLsb' 0 32).toNat
        let n := ((sl.uni64 0 f.c).extractLsb' 32 32).toNat
        let k := OpKind.rgetSpad (sl.uni32 0 f.a).toNat off n f.swz.toNat
        src.toNat % 4 = 0 → off % 4 = 0 → n % 4 = 0 → 4 ≤ n → n ≤ 65536 → spadIn t sl.g.core sl.pair.owner off n = true →
        let o : Op := { baseOp t sl k with
          id := t.exec.seq, cls := some .fab, todo := BitVec.ofNat 64 (2 ^ (rgetPieces 18 src.toNat 0 n).length - 1),
          addrs := List.replicate 64 src }
        exec (.rgetSpad f) s = .next (after (.rgetSpad f) sl (sendRget (sendOp t o) o o.todo))))

/-- R340, R341: TRAP's own effect is its boundary cause 0x10 with n in the detail field. BKPT goes on, and where the debug state of the
context is set it notes the run's first breakpoint.
What the rules leave open here rests on log entry 23. -/
def Obligations.TrapAndBreakpointComplete : Prop :=
  ∀ (f : FmtY) (s : State),
    (∀ sl, Issues s sl (.trap f) →
      exec (.trap f) s = .next (afterCause (.trap f) sl (noteIssued s sl) ⟨0x10, 1, sl.pc, 0, 0, 0, f.sel.toNat, false⟩)) ∧
    (∀ sl, pressIssues s = false → Issues s sl (.bkpt f) →
      exec (.bkpt f) s = .next (after (.bkpt f) sl
        (noteBreak (noteIssued s sl) sl.g.ctx sl.run.core sl.run.unit f.sel.toNat sl.pc))) ∧
    ∀ ps, currentPress s = some ps →
      exec (.bkpt f) s = .next (afterPress (.bkpt f) ps
        (noteBreak s ps.cohort.ctx ps.run.core ps.run.unit f.sel.toNat ps.pc))

/-- R342, R344, R345: SYSRD asks for a system register, SYSWR writes TREPC or TREXEC, MAPFT sends its request (or answers 4 for an
address that fails R83), and ERET returns once the group has no MAPFT outstanding and TREPC has a good form. R347 to R351: GROW takes
its granules when they are free and no older group waits, or none when n is 0 or above the limit; SHRINK releases them; LAUNCH, HMREAD
and HMSEAL send one request; TEMIT offers a record to the core's trace.
What the rules leave open here rests on log entries 24 and 75. -/
def Obligations.SystemWordsComplete : Prop :=
  (∀ (f : FmtY) (s : State) (sl : Slot),
    let t := noteIssued s sl
    let a := sl.uni64 0 f.a
    let maps := t.exec.ops.filter fun o => o.gid == sl.g.gid && o.kind == .mapft
    (Issues s sl (.sysrd f) → exec (.sysrd f) s = .next (after (.sysrd f) sl (sendOp t { baseOp t sl (.sysrd f.sel.toNat) with
      dst := if f.dst.nwb then .none else .upair f.dst.reg.toNat, res := [sysReadReg t sl.g f.sel.toNat],
      after := if f.sel = 0x109 then maps.map (·.id) else [] }))) ∧
    (Issues s sl (.syswr f) → f.sel = 0x101 → exec (.syswr f) s = .next (after (.syswr f) sl
      (updGroup t sl.g.gid fun g => { g with trap := { g.trap with epc := a } }))) ∧
    (Issues s sl (.syswr f) → f.sel ≠ 0x101 → exec (.syswr f) s = .next (after (.syswr f) sl
      (updGroup t sl.g.gid fun g => { g with trap := { g.trap with exec := a } }))) ∧
    (Issues s sl (.mapft f) → exec (.mapft f) s = .next (after (.mapft f) sl (settleMapft (sendOp t { baseOp t sl .mapft with
      todo := if vaOk t sl.g.ctx a then 1 else 0, cause := 4, addrs := List.replicate 64 a,
      channel := 16, remote := if vaLocal t a then 0 else 1 }) sl.g.gid))) ∧
    (Issues s sl (.eret f) → maps = [] → pcOk sl.g.trap.epc = true →
      (sl.g.poison = none → exec (.eret f) s = .next (afterTransfer (.eret f) sl
        (returnFromTrap t sl.g.gid sl.run.entry) sl.g.trap.epc)) ∧
      ∀ q id, sl.g.poison = some (q, id) → exec (.eret f) s = .next (afterTransfer (.eret f) sl
        (returnFromTrap (reissuePoison t sl.g q id) sl.g.gid sl.run.entry) sl.g.trap.epc))) ∧
  (∀ (f : FmtY) (s : State) (sl : Slot),
    let t := noteIssued s sl
    let a := sl.uni64 0 f.a
    let b := sl.uni64 0 f.b
    let n := (sl.uni32 0 f.a).toNat
    (Issues s sl (.grow f) → sl.p.granted = false → ∀ k, growNow t sl.g n = some k →
      exec (.grow f) s = .next (after (.grow f) sl (writeUni (growGroup (growDone t sl.g.gid sl.run.entry) sl.g.gid k) sl f.dst
        (BitVec.ofNat 32 (sl.g.g + k))))) ∧
    (Issues s sl (.grow f) → sl.p.granted = true →
      exec (.grow f) s = .next (after (.grow f) sl (writeUni (growDone t sl.g.gid sl.run.entry) sl f.dst
        (BitVec.ofNat 32 sl.g.g)))) ∧
    (Issues s sl (.shrink f) →
      let k := sl.g.g - min n sl.g.g
      exec (.shrink f) s = .next (after (.shrink f) sl (writeUni
        (updGroup t sl.g.gid fun g => { g with g := k, vregs := g.vregs.take (8 * k) }) sl f.dst (BitVec.ofNat 32 k)))) ∧
    (Issues s sl (.launch f) → a.toNat % 8 = 0 → vaOk t sl.g.ctx a = true → vaLocal t a = true →
      exec (.launch f) s = .next (after (.launch f) sl (sendOp t { baseOp t sl (.launch (sl.uni32 0 f.b).toNat) with
        todo := 1, addrs := List.replicate 64 a }))) ∧
    (Issues s sl (.temit f) → exec (.temit f) s = .next (after (.temit f) sl (traceEnter t sl.g.core
      (2 ^ 60 + sl.run.entry % 16 * 2 ^ 40 + (if sl.access then 4 else sl.g.part) % 8 * 2 ^ 37) (f.sel.zeroExtend 64) a
      (BitVec.ofNat 64 (sl.g.index % 2 ^ 32))))) ∧
    (Issues s sl (.hmread f) → exec (.hmread f) s = .next (after (.hmread f) sl (sendOp t
      { baseOp t sl (.hmread f.sel.toNat) with dst := if f.dst.nwb then .none else .upair f.dst.reg.toNat }))) ∧
    (Issues s sl (.hmseal f) →
      (∀ x ∈ [a, b], x.toNat % 8 = 0 ∧ vaOk t sl.g.ctx x = true ∧ vaLocal t x = true) → t.mysko.seals.length < 64 →
      exec (.hmseal f) s = .next (after (.hmseal f) sl ((sendOp t { baseOp t sl (.hmseal b) with
        todo := 1, addrs := List.replicate 64 a }).onMysko fun m =>
          { m with seals := m.seals ++ [.hmseal t.exec.seq] }))))

/-! ### Completion: the Press -/

/-- R296, R321 to R326: the Press commands that change only their stream: MLOOP counts K and goes back while it is not 0, MBRA goes by
the item's last mark, MEND ends the stream, MHWAIT goes on once its phase is done, and MPOP takes the front item. R307, R317 to R319,
R321, R328: the commands that take no scoreboard entry issue once no unfinished command conflicts with them; MMA also needs its charge
within the core's budget, which it lowers, and records the charge as the estimate. R120, R307, R310 to R314, R323, R327: a region
command in range, and MSIG with an aligned word in range, issues once no unfinished command conflicts with it and its scoreboard entry
is granted, at its first attempt or later.
What the rules leave open here rests on log entries 19 and 80. -/
def Obligations.PressCommandsComplete : Prop :=
  (∀ (s : State) (ps : PSlot), currentPress s = some ps →
    (∀ f : FmtB,
      let c := (f.modi.extractLsb' 0 2).toNat
      let n := if f.modi.getLsbD 2 then max 1 (ps.p.item.extractLsb' 25 6).toNat else (shortOf f.a).toNat
      let v := (if (ps.p.k.getD c 0).toNat = 0 then n else (ps.p.k.getD c 0).toNat) - 1
      let t := ps.upd s fun p => { p with k := p.k.set c (BitVec.ofNat 32 v) }
      (v = 0 → exec (.mloop f) s = .next (afterPress (.mloop f) ps t)) ∧
      (v ≠ 0 → badTargetAt s ps.p.core ps.cohort.ctx (targetPc ps.pc f) = false →
        exec (.mloop f) s = .next (pressFinish (pressNoted (pressCount t ps (.mloop f)) ps) ps (targetPc ps.pc f)))) ∧
    (∀ f : FmtB,
      let taken : Prop := f.cond = 0 ∨ (f.cond = 1 ∧ ps.p.item.getLsbD 31 = true) ∨ (f.cond = 2 ∧ ps.p.item.getLsbD 31 = false)
      (¬ taken → exec (.mbra f) s = .next (afterPress (.mbra f) ps s)) ∧
      (taken → badTargetAt s ps.p.core ps.cohort.ctx (targetPc ps.pc f) = false →
        exec (.mbra f) s = .next (pressFinish (pressNoted (pressCount s ps (.mbra f)) ps) ps (targetPc ps.pc f)))) ∧
    (∀ f : FmtB, exec (.mend f) s = .next (ps.upd (freeUnit (pressNoted (pressCount s ps (.mend f)) ps) ps.run.core ps.run.unit) fun p =>
      { p with st := .ended })) ∧
    (∀ f : FmtXA, phaseDone (ps.cohort.hoopDone.getD (shortOf f.a).toNat 0) (ps.p.w.getD (shortOf f.a).toNat 0) = true →
      exec (.mhwait f) s = .next (afterPress (.mhwait f) ps
        (ps.upd s fun p => { p with w := p.w.modify (shortOf f.a).toNat (· + 1) }))) ∧
    ∀ (f : FmtXA) k x, mpopTakes ps.p s.exec.cycle = some (k, x) →
      exec (.mpop f) s = .next (afterPress (.mpop f) ps (ps.upd s fun p =>
        { p with item := x, rings := p.rings.modify k fun r =>
            Ring.settle 16 { r with take := r.take + 1, slots := r.slots.set (r.take.toNat % 16) .empty } }))) ∧
  (∀ (s : State) (ps : PSlot) (f : FmtXA), currentPress s = some ps →
    (∀ e ∈ ([Instr.mzero, .mcvt, .mharrive] : List (FmtXA → Instr)), pressFree ps.p (e f) = true →
      exec (e f) s = .next (afterPress (e f) ps (pushCmd (fresh s).2 ps (fresh s).1 (e f) 0 0))) ∧
    (pressFree ps.p (.mma f) = true → mmaCharge ps.p f ≤ (getCore s ps.p.core).budget →
      let t := ps.upd (updCore s ps.p.core fun k => { k with budget := k.budget - mmaCharge ps.p f }) fun p =>
        { p with est := mmaCharge ps.p f }
      exec (.mma f) s = .next (afterPress (.mma f) ps (pushCmd (fresh t).2 ps (fresh t).1 (.mma f) 0 0)))) ∧
  (∀ (s : State) (ps : PSlot), currentPress s = some ps →
    let granules (starts : List Nat) (n : Nat) : List Nat := regionGranules (allocBase s ps.p.core ps.owner) starts n
    let granted (r : Nat × State) : Prop := (r.2.exec.score.any fun e => e.id == r.1 && e.granted) = true
    (∀ e ∈ ([(Instr.mload, false), (.mloadT, false), (.mstore, true)] : List ((FmtXR → Instr) × Bool)), ∀ f : FmtXR,
      let base := regionBase ps.p f
      let n := rowBytes (e.1 f)
      let r := scoreTurn (granules (pressRows f base) n) e.2 s ps
      pressFree ps.p (e.1 f) = true → ((pressRows f base).all fun a => spadIn s ps.p.core ps.owner a n) = true → granted r →
      exec (e.1 f) s = .next (afterPress (e.1 f) ps (pushCmd r.2 ps r.1 (e.1 f) base 0))) ∧
    (∀ f : FmtXR,
      let base := regionBase ps.p f
      let r := scoreTurn (granules (pressRows f base) 128) false s ps
      pressFree ps.p (.mloadS f) = true → base % 128 = 0 →
      ((pressRows f base).all fun a => spadIn s ps.p.core ps.owner a 128) = true → granted r →
      exec (.mloadS f) s = .next (afterPress (.mloadS f) ps (pushCmd r.2 ps r.1 (.mloadS f) base 0))) ∧
    ∀ f : FmtXA,
      let d := (f.modi.extractLsb' 0 19).toNat
      let r := scoreTurn (granules [d] 8) true s ps
      pressFree ps.p (.msig f) = true → d % 8 = 0 → spadIn s ps.p.core ps.owner d 8 = true → granted r →
      exec (.msig f) s = .next (afterPress (.msig f) ps (pushCmd r.2 ps r.1 (.msig f) d (msigValue ps.p f))))

/-! ### Completion: operations and events of the memory side -/

/-- R84, R88, R98, R99, R111, R115, R118, R124, R183, R210, R297, R345: the events that perform an access and return to its group. A
ready access is performed at its home or its bank, with those that are performed as one with it; a byte of a copy is read, and then
written, with the bytes of its scratchpad word; returned data lands in its register, or asks for its queue entry's bank; an
acknowledgement completes; a fault of an operation of this device reaches its group.
What the rules leave open here rests on log entries 27 to 34, 36 to 39, 79 and 92. -/
def Obligations.AccessEventsComplete : Prop :=
  ∀ (s : State) (op : Nat) (o : Op), findOp s op = some o →
    (∀ x u, (∀ d, o.kind ≠ .copy d) → (o.unitsLeft (x % 64)).find? (fun u => u.1 == x / 64) = some u →
      let us := o.withUnit s (x % 64) (x / 64) u.2
      unitReady s o (x % 64) u.2 = true → (us.all fun y => unitReady s o y.1 y.2.2) = true →
      (o.kind.spad = true ∨ lineHolder s o u.2.1 = none) →
      exec (.homeSliceAccess op x) s = .next (releaseEntries (answerRemote (finishOp
        (us.foldl (fun s y => unitDone s op y.1 y.2.1 y.2.2) s) op) op))) ∧
    (∀ i d g own e, o.kind = .copy d → copyOf s o = some (d, g, own, e) → i < d.size →
      (let ix := d.wordOf (d.source s g own) i
       (o.remote = 0 ∨ d.kind ≠ 0) →
       (∀ j ∈ ix, o.byteBegun j = false ∧ byteReadable s d g own e j = true ∧ (d.kind = 0 → o.byteHolder s d j = none)) →
        let r := copyRead s g own o d ix
        exec (.homeSliceAccess op (2 * i)) s = .next (updOp r.1 op fun o =>
          { o with parts := o.parts ++ r.2.1.map fun (b : Nat × Byte) => (b.1, 0, b.2.toNat) }.refuseBytes d r.2.2.1 (r.2.2.2.getD addrFault))) ∧
      (let ix := (d.wordOf (d.target s g own) i).filter fun j => !o.refusedBytes.contains j
       (o.remote = 0 ∨ d.kind ≠ 1) → ix ≠ [] →
       (∀ j ∈ ix, (o.byteRead j).isSome = true ∧ byteWritable s o d g own e j = true ∧ o.byteHolder s d j = none) →
        let r := copyWrite s g own o d (ix.filterMap fun j => (o.byteRead j).map fun b => (j, b))
        exec (.homeSliceAccess op (2 * i + 1)) s = .next (examine (updOp r.1 op fun o =>
          { o with pieces := o.pieces ++ ix.filter (fun j => !r.2.1.contains j),
                   parts := o.parts.filter fun p => !ix.contains p.1 }.refuseBytes d r.2.1 (r.2.2.getD addrFault))))) ∧
    (o.dormant = false → o.kind.returnsData = true → o.from_ = s.fabric.index → ∀ data,
      (∀ t, beforeReturn s o data = some (t, false) → exec (.loadDataReturn op data) s = .next t) ∧
      ∀ t x o', beforeReturn s o data = some (t, true) → findOp t op = some x → x.withData t data = some o' →
        (o'.done == 0 && o'.faulted != 0) = false →
        let v := updOp t op fun _ => o'
        let u := match x.kind with
          | .rgetQueue _ => assayAdd v x.ctx 47 (4 * popMask x.todo)
          | _ => v
        ((∀ q id, o'.dst ≠ .port q id) → exec (.loadDataReturn op data) s = .next (landRegister u o')) ∧
        ∀ q id g, o'.dst = .port q id → findGroup u x.gid = some g → (u.exec.winAcc.any fun w => w.op == op) = false →
          exec (.loadDataReturn op data) s = .next ((updOp u op fun o => { o with done := 0 }).onExec fun e =>
            { e with winAcc := e.winAcc ++ [⟨g.core, g.pair, q, id, o'.landing, 0, o'.res, 0, op⟩] })) ∧
    (∀ data, o.kind = .mapft → o.remote ≠ 0 → o.todo ≠ 0 → exec (.loadDataReturn op data) s =
      .next (settleMapft (updOp s op fun o =>
        { o with todo := 0, cause := if pairDown s (vaOwner (o.addrs.get 0)) then 4 else (data.get 0).toNat % 8 }) o.gid)) ∧
    (o.kind.acknowledged = true → o.todo ≠ 0 → o.dormant = false → o.from_ = s.fabric.index → o.unpaired = false →
      let done (s : State) : State :=
        releaseEntries (lateGone (finishOp (updOp s op fun o => { o with todo := 0, kind := o.kind.accepted }) op))
      (o.kind.spad = false → (∀ k, o.kind ≠ .carrive k) → awaitedReady s o o.todo = true → o.todo &&& ~~~o.remote = 0 →
        exec (.acknowledgementReturn op) s = .next (done s)) ∧
      (∀ t, o.kind.spad = true → completeHere s o = some t → exec (.acknowledgementReturn op) s = .next (done t)) ∧
      ∀ k t, o.kind = .carrive k → firstArrival s o = true → completeHere s o = some t →
        exec (.acknowledgementReturn op) s = .next (done t)) ∧
    ∀ code marks, o.dormant = false → o.told = false → o.from_ = s.fabric.index → replayRoom s o o.replayed = true →
      o.faulted ≠ 0 → o.todo = 0 → exec (.faultReturn op 0 code marks) s = .next (faultsIn s o)

/-- R44, R67, R118, R280, R300: the events of the window and the store unit, and the end of a copy whose bytes are all accepted; where
part of it is still to come, what is left is performed first, and the payload of a remote copy arrives or leaves.
What the rules leave open here rests on log entry 29. -/
def Obligations.WindowAndCopyEventsComplete : Prop :=
  ∀ (s : State),
    (∀ core k w, (windowWaits s core)[k]? = some w → w.blocked s = false →
      exec (.ladleWindowAccess core k) s = .next (landWindow s w)) ∧
    (∀ core k w, (windowWaits s core)[k]? = some w → 4 ≤ w.waited →
      let part := ((findPair s w.pair).map (·.part)).getD 0
      bankUsed s core part (w.queue % 4) = true →
      let t := updSched s core part fun u => { u with thefts := u.thefts + 1, taken := true }
      exec (.bankTheft core k) s =
        .next { landWindow t w with issuer := if s.issuer = some (core, part) then none else s.issuer }) ∧
    (∀ pair p q a addrs e entries, findPair s pair = some p → (p.queue q).addrs = a :: addrs → (p.queue q).entries = e :: entries →
      (p.queue q).kind = 1 → e.st = .ready → a.refused = 0 →
      let t := updOp (updQueue s pair q fun x => { x with addrs := addrs, entries := entries }) a.op fun o =>
        { o with data := e.vals, dst := .none }
      let u := match findOp t a.op with
        | some o => pendStore (sendRequests t o (o.todo &&& o.remote)) p.core o
        | none => t
      exec (.storeUnitStore pair q) s = .next (finishOp u a.op)) ∧
    ∀ op o d g own e data, findOp s op = some o → copyOf s o = some (d, g, own, e) →
      let left := o.bytesLeft d
      let unread := left.filter fun i => !o.byteBegun i
      (∀ t, (o.remote = 0 ∨ d.kind = 2 ∨ (d.kind = 0 ∧ unread = [])) → copyRest s o d g own e = some t →
        exec (.copyComplete op data) s = .next t) ∧
      (o.remote = 0 → left = [] → o.refusedBytes = [] → flagFree s g own o d = true →
        exec (.copyComplete op data) s = .next (finishOp (updOp (scoreLeave (examine (copyFlag (examine s) g own d)) op) op fun o =>
          { o with todo := 0, pieces := [], parts := [] }) op)) ∧
      (o.remote ≠ 0 → d.kind = 0 → unread ≠ [] → data.length = unread.length →
        exec (.copyComplete op data) s = .next (updOp s op fun o =>
          { o with parts := o.parts ++ (unread.zip data).map fun x => (x.1, 0, x.2.toNat) })) ∧
      (o.remote ≠ 0 → d.kind = 1 →
        let unsent := left.filter fun i => !o.parts.contains (i, 2, 0)
        (unsent = [] → flagFree s g own o d = true → exec (.copyComplete op data) s = .next (copyEnd (updOp s op fun o =>
          { o with pieces := o.pieces ++ left, parts := o.parts.filter fun p => p.2.1 == 1 }) o d g own)) ∧
        (unsent ≠ [] → scoreBehind s e = false → (∀ i ∈ unread, byteReadable s d g own e i = true) →
          (∀ i ∈ unsent, copyBefore s g own o (d.target s g own i) = false) →
          let r := copyRead s g own o d unsent
          exec (.copyComplete op data) s = .next (sendOut (updOp r.1 op fun o =>
            { o with parts := (o.parts.filter fun p => !unsent.contains p.1) ++ unsent.map fun i => (i, 2, 0) }) (vaOwner d.g) 16
            ([op, o.gid % 2 ^ 64, o.ctx] ++ r.2.1.flatMap fun x => [(d.globalAt x.1).toNat, x.2.toNat]))))

/-- R87, R92 to R95, R445: recalls, evictions, walks and scrubbing. A walk fills the lines of the tables that it reads, and the page TLB
where it finds an entry.
What the rules leave open here rests on log entry 38. -/
def Obligations.SliceEventsComplete : Prop :=
  ∀ (s : State),
    (∀ core tag line, (s.memory.l1.any fun l => l.core == core && l.tag == tag && l.line == line) = true →
      exec (.l1Recall core tag line) s = .next (recallCopy s core tag line)) ∧
    (∀ tag line, (s.memory.l1.any fun l => l.tag == tag && l.line == line) = true →
      exec (.directoryEviction tag line) s = .next (l1Recall s tag line none)) ∧
    (∀ tag line, (s.memory.l2.any fun l => !l.table && l.tag == tag && l.line == line) = true →
      exec (.l2Eviction tag line) s = .next (l2Evict s tag line)) ∧
    (∀ c off, c < 16 → rangeHit s c off = none → tlbHit s (homeSlice s c off) c off = none →
      (∀ t, pageWalk s c off = .ok t →
        exec (.pageWalk c off) s = .next (tlbFill (walkLines s c off) (homeSlice s c off) c t)) ∧
      ∀ e, pageWalk s c off = .error e → exec (.pageWalk c off) s = .next (walkLines s c off)) ∧
    (memoryRuns s = true → exec .l2Scrub s = .next s ∧ exec .hbmScrub s = .next s)

/-- R154 to R163: a Crucible contribution that passes its checks is applied; an unordered one at once. The order table loads, evicts
and watches its entries.
What the rules leave open here rests on log entries 41 and 42. -/
def Obligations.CrucibleEventsComplete : Prop :=
  ∀ (s : State),
    (∀ op k o x fmt hi f32 ord cs t i r, contribAt s op k = some (o, x) → o.kind = .crux fmt hi f32 ord cs → cruxReady s o x = true →
      lineHolder s o x.addr = none →
      cruxCheck s o.ctx fmt x = .ok (t, i, r) → scaleOk r x = true →
      (x.ordinal = none → exec (.crucibleArrival op k) s = .next (cruxApply t op k r).1) ∧
      (x.ordinal ≠ none → r.o ≠ 0 → exec (.crucibleArrival op k) s = .next (settleHeld (arriveAt t op k o.ctx i r x)))) ∧
    ∀ c i g e r, findOrder s c i g = some e → (getCtx s c).regions.getD i none = some r →
      (∀ t bs, e.loading = true → loadBytes s c (r.o + 2 * g) 2 = .ok (t, bs) →
        let t := homeRead t c ((r.o + 2 * g) / 128) sliceParty
        exec (.orderEntryLoad c i g) s = .next (settleHeld ((granuleWaiters s c i r g .loading).foldl
          (fun s x => examineOrdered s x.1 x.2.1 c i r)
          (stallBack (updOrder t c i g fun e => { e with loading := false, next := leValue bs, since := t.tick }) c i g (leValue bs))))) ∧
      (∀ t m, e.loading = true → loadBytes s c (r.o + 2 * g) 2 = .error m →
        t = dropOrder s c i g → exec (.orderEntryLoad c i g) s = .next (settleHeld ((granuleWaiters s c i r g .loading).foldl
          (fun s x => cruxFinal s x.1 x.2.1 ⟨0x0E, 16⟩) t))) ∧
      (e.loading = false → (granuleWaiters s c i r g .parked) = [] →
        let t := if (granuleWaiters s c i r g .held) = [] then s else s.onMemory fun m => { m with stalls := m.stalls ++ [e] }
        exec (.orderEntryEvict c i g) s = .next (dropOrder (writeOrder t e) c i g)) ∧
      (e.loading = false → ((granuleWaiters s c i r g .parked) ≠ [] ∨ (granuleWaiters s c i r g .held) ≠ []) → e.stalled = false →
        drainable s c i r g = none →
        e.since + 10 ^ 7 ≤ s.tick →
        exec (.orderStall c i g) s = .next (faultRecord (updOrder s c i g fun e => { e with stalled := true }) c
          { type := 0x07, d0 := i, d1 := g, d2 := e.next }))

/-! ### Completion: what each unit does next -/

/-- R29, R30, R42, R43, R302, R307: arbitration, promotion and the fetch of the chosen path's or stream's run. Within a run a unit goes
on, but a claim of a ring that a later unit has claimed from in this cycle waits for the next one; and a choice that has not been fetched
stands. The Press chooses one command at a time, at most one in a cycle.
What the rules leave open here rests on log entry 15. -/
def Obligations.ArbitrationEventsComplete : Prop :=
  ∀ (s : State),
    (∀ core unit, unit ≤ 4 → unitMayIssue s core unit = true → (findRun s core unit).isSome = true → claimLate s core unit = false →
      exec (.pathArbitration core unit) s = .next { s with issuer := some (core, unit) }) ∧
    (∀ core unit, unit ≤ 4 → unitMayIssue s core unit = true → findRun s core unit = none → standingChoice s core unit = true →
      exec (.pathArbitration core unit) s = .next { s with issuer := some (core, unit) }) ∧
    (∀ core unit c cs, unit ≤ 4 → unitMayIssue s core unit = true → findRun s core unit = none → standingChoice s core unit = false →
      ((unitPaths s core unit).filter fun x => x.2.2) = c :: cs →
      ((unitPaths s core unit).any fun x => promotionDue (x.1.path x.2.1)) = false →
      let best := cs.foldl (fun b x => if listLess (pathRank x.1 x.2.1) (pathRank b.1 b.2.1) then x else b) c
      let t := (unitPaths s core unit).foldl (fun s x =>
        updPath s x.1.gid x.2.1 fun p =>
          if x.1.gid == best.1.gid && x.2.1 == best.2.1 then { p with passed := 0, promoted := none }
          else if p.promoted.isSome then p
          else { p with passed := if x.2.2 then p.passed + 1 else 0 }) s
      exec (.pathArbitration core unit) s = .next
        { updSched t core unit (fun u => { u with chosen := some (best.1.gid, best.2.1) }) with issuer := some (core, unit) }) ∧
    (∀ gid entry g, findGroup s gid = some g → promotionDue (g.path entry) = true →
      let unit := if g.stream = .access then 4 else g.part
      let n := (schedOf s g.core unit).promotions
      exec (.pathPromotion gid entry) s = .next (updSched (updPath s gid entry fun p => { p with promoted := some n }) g.core unit
        fun u => { u with promotions := n + 1 })) ∧
    (∀ core unit gid e, findRun s core unit = none → unitMayIssue s core unit = true → unit < 5 →
      (schedOf s core unit).chosen = some (gid, e) →
      let t := updSched { s with issuer := none } core unit fun u => { u with chosen := none }
      exec (.runFetch core unit) s = .next (if chosenStands s core unit gid e then startRun t core unit gid e else t)) ∧
    (∀ core unit x p, findRun s core unit = none → unitMayIssue s core unit = true → 5 ≤ unit →
      (schedOf s core unit).chosen = some x → pressIssued s core = false →
      let t := updSched { s with issuer := none } core unit fun u => { u with chosen := none }
      findPress t core (unit - 5) = some p → (p.st = .running ∨ p.st = .waiting) →
      exec (.runFetch core unit) s = .next (startPressRun t core (unit - 5))) ∧
    ∀ core c cs, (s.exec.presses.filter fun p => p.core == core && pressCan s p) = c :: cs → pressIssued s core = false →
      let best := cs.foldl (fun b p => if rankLess (pressRank s p) (pressRank s b) then p else b) c
      exec (.pressArbitration core) s = .next { (updSched s core (5 + best.num) fun u =>
        { u with chosen := if (findRun s core (5 + best.num)).isSome then none else some (best.cohort, best.num) }) with
          issuer := some (core, 5 + best.num) }

/-- R47, R50, R53, R69, R119, R237, R294, R296, R298, R304: what releases a waiting head, a blocked pair and a stopped Press stream.
Arrivals of one cycle at a hoop are counted in the order of their units.
What the rules leave open here rests on log entries 35 and 40. -/
def Obligations.ReleaseEventsComplete : Prop :=
  ∀ (s : State),
    (∀ gid entry g, findGroup (examine s) gid = some g → (g.path entry).st = .waiting → (g.path entry).stopped = false →
      (g.path entry).watch.isSome = true → (g.path entry).matched.isSome = true →
      exec (.watchMatch gid entry) s = .next (updPath (examine s) gid entry fun p => { p with st := .ready })) ∧
    (∀ gid entry g d, findGroup s gid = some g → (g.path entry).st = .waiting → (g.path entry).stopped = false →
      (g.path entry).deadline = some d → d ≤ s.tick →
      exec (.swaitDeadline gid entry) s = .next (updPath s gid entry fun p => { p with st := .ready })) ∧
    (∀ gid entry g a rel v, findGroup s gid = some g → (g.path entry).watch = some (.signal a rel v) →
      (g.path entry).matched = none → (g.path entry).stopped = false → accessHeld s g (g.path entry) = false →
      veiledOutside s g.ctx a.toNat 8 = false →
      (∀ x f t bs, vaLocal s a = true → loadBytes s g.ctx (vaOffset a) 8 = .ok (t, bs) →
        let y : Dword := BitVec.ofNat 64 (leValue bs)
        let u := homeRead t g.ctx (vaOffset a / 128) g.core
        exec (.waitsigPoll gid entry x f) s =
          .next (if sigRel rel y v then updPath u gid entry fun p => { p with matched := some y } else u)) ∧
      (∀ x, vaLocal s a = false → pairDown s (vaOwner a) = false →
        exec (.waitsigPoll gid entry x 0) s =
          .next (if sigRel rel x v then updPath s gid entry fun p => { p with matched := some x } else s)) ∧
      ∀ x, vaLocal s a = false → pairDown s (vaOwner a) = true →
        exec (.waitsigPoll gid entry x 0) s = .next (raiseReturned
          (updPath s gid entry fun p => { p with watch := none, matched := none }) gid entry
          ⟨0x08, 2, (g.path entry).pc, a, 0, 2 ^ 14, 0, false⟩)) ∧
    (∀ op o h co, findOp s op = some o → o.kind = .harrive h →
      ((findGroup s o.gid).bind fun g => (findPair s g.pair).bind (·.cohort)) = some co → o.todo ≠ 0 →
      (∀ x ∈ s.exec.ops.takeWhile (fun x => x.id != op), x.gid = o.gid → x.todo ≠ 0 → ∀ k, x.kind ≠ .harrive k) →
      o.orderMet s = true →
      let unit := match findGroup s o.gid with
        | some g => if g.stream = .access then 4 else g.part
        | none => 4
      (∀ c, findCohort s co = some c →
        (c.hoopLast.getD h (0, 0)).1 ≠ s.exec.cycle ∨ (c.hoopLast.getD h (0, 0)).2 ≤ unit) →
      exec (.hoopArrivalCount op) s = .next (finishOp (updOp (hoopArrive s co h unit).2 op fun o =>
        { o with todo := 0, done := 1, res := [BitVec.ofNat 64 (hoopArrive s co h unit).1] }) op)) ∧
    (∀ pair p, findPair s pair = some p → p.resident = true → 4096 ≤ p.idle →
      let twins := s.exec.groups.filter fun g => g.pair == pair && !g.exited
      let found := twins.map fun g => (g, twinBlocked s g p)
      twins ≠ [] → (found.all fun x => x.2.isSome) = true →
      exec (.qdead pair) s = .next (found.foldl (fun s x => (x.2.getD []).foldl (fun s e =>
        raiseAt (updPath s x.1.gid e fun p => { p with st := .ready }) x.1.gid e
          [⟨0x06, 0, (x.1.path e).pc, 0, (x.1.path e).exec, 0, 0, false⟩]) s) s)) ∧
    ∀ core k p c co, findPress s core k = some p → p.cause = some c → findCohort s p.cohort = some co → p.st = .stopped → p.taken = none →
      (pressTaker s co core = none → exec (.pressCauseDelivery core k) s =
        .next (pressOrphan (faultRecord s co.ctx
          { type := 0x03, code := c.code, marks := c.marks, pc := c.pc, addr := c.addr, d0 := co.number }) core k)) ∧
      ∀ g, pressTaker s co core = some g → g.pressCause = none →
        let e := ((List.range 16).find? fun e => (g.path e).st != .free).getD 0
        let t := updGroup (updPress s core k fun p => { p with taken := some g.gid }) g.gid fun g =>
          { g with pending := g.pending ++ [(e, [c])], pressCause := some (core, k) }
        exec (.pressCauseDelivery core k) s = .next (if pathBusy t g.gid e || (g.path e).stopped then t else atBoundary t g.gid e)

/-- R120, R307, R327, R328: a Press command that nothing earlier holds finishes with its effect and frees its entry; a waiting
scoreboard entry is granted while fewer than 32 are; every budget becomes Q at a multiple of 1,000 ticks.
What the rules leave open here rests on log entry 19. -/
def Obligations.PressEventsComplete : Prop :=
  ∀ (s : State),
    (∀ id p c co, (s.exec.presses.find? fun p => p.cmds.any fun c => c.id == id) = some p →
      p.cmds.find? (fun c => c.id == id) = some c → findCohort s p.cohort = some co →
      (∀ e, s.exec.score.find? (fun e => e.id == id) = some e → scoreBehind s e = false) →
      ((p.cmds.head?.map (·.id)) = some id ∨ waitsForEarlier c.what = false) →
      exec (.pressCommandFinish id) s = .next (scoreLeave (updPress (pressPerform s p co c) p.core p.num fun p =>
        { p with cmds := p.cmds.filter fun x => x.id != id }) id)) ∧
    (∀ core e, (s.exec.score.find? fun e => e.core == core && !e.granted) = some e → grantedCount s core < 32 →
      exec (.scoreboardGrant core) s = .next (s.onExec fun x =>
        { x with score := x.score.map fun y => if y.id == e.id then { y with granted := true } else y })) ∧
    (s.tick % 1000 = 0 → exec .budgetRefill s = .next { s with cores := s.cores.map fun k => { k with budget := s.mysko.q } })

/-! ### Completion: leases -/

/-- R167, R170, R171, R173: the receiver's queue and its decision, which grants a request, puts notices on the oldest leases for exactly the
lanes that a revoking one lacks, or refuses it, and the requester's grant, notice, expiry and lane-set change, after which
the relaxed flits that it held are sent.
What the rules leave open here rests on log entries 13 and 25. -/
def Obligations.LeaseEventsComplete : Prop :=
  ∀ (s : State),
    (∀ peer lanes term rev l, lanes ≠ 0 → findLink s peer = some l →
      let kept := if (s.fabric.reqs.head?.map (·.decided)).getD false then 1 else 0
      exec (.leaseRequestArrival peer lanes term rev) s = .next (s.onFabric fun x =>
        { x with reqs :=
            placeRequest (x.reqs.take kept) (x.reqs.drop kept) ⟨peer, lanes, term, rev, l.refusals == 3, s.exec.cycle, false⟩ })) ∧
    (∀ r rest, s.fabric.reqs = r :: rest → s.fabric.notices = [] →
      let others := (s.fabric.served.filter fun v => v.peer != r.peer && v.noticed == 0).foldr insertServed []
      let revocable := (others.map fun v => v.lanes).sum
      (r.lanes ≤ s.fabric.rxPool →
        let v : Served := ⟨(fresh s).1, r.peer, r.lanes, 0, s.tick, s.tick + 1000 * r.term⟩
        exec .leaseDecision s = .next (leaseOut (updLink (renumber ((fresh s).2.onFabric fun x =>
          { x with reqs := rest, rxPool := x.rxPool - r.lanes, served := x.served ++ [v] }) r.peer false) r.peer fun l =>
            { l with refusals := 0 }) r.peer 2 [r.lanes])) ∧
      (s.fabric.rxPool < r.lanes → r.revoking = true → r.lanes ≤ s.fabric.rxPool + revocable →
        let ns := chooseNotices (r.lanes - s.fabric.rxPool) others
        (ns.map (·.2)).sum = r.lanes - s.fabric.rxPool ∧
        exec .leaseDecision s = .next ((ns.foldl (fun s n =>
          leaseOut ((fresh s).2.onFabric fun x =>
            { x with notices := x.notices ++ [⟨(fresh s).1, n.1, n.2, s.tick + 20000⟩],
                     served := x.served.map fun v => if v.id == n.1 then { v with noticed := v.noticed + n.2 } else v })
            (((s.fabric.served.find? fun v => v.id == n.1).map (·.peer)).getD 0) 4 [n.2]) s).onFabric fun x =>
          { x with reqs := { r with decided := true } :: rest })) ∧
      (s.fabric.rxPool < r.lanes → (r.revoking = false ∨ s.fabric.rxPool + revocable < r.lanes) →
        exec .leaseDecision s = .next (leaseOut (updLink (s.onFabric fun x => { x with reqs := rest }) r.peer fun l =>
          { l with refusals := min 3 (l.refusals + 1) }) r.peer 3 []))) ∧
    (∀ slot l, findLink s slot = some l → l.stray ≠ 0 →
      exec (.leaseGrant 16 slot false 0) s = .next (updLink s slot fun l => { l with stray := l.stray - 1 }) ∧
      exec (.leaseGrant 16 slot true 0) s = .next (leaseOut (updLink s slot fun l => { l with stray := l.stray - 1 }) slot 5 [0])) ∧
    (∀ c slot l, c ≠ 16 → leaseAt s c slot = some l → l.st = .pending →
      (exec (.leaseGrant c slot false 0) s = .next (resolveCtl
        ((updLease s c slot fun l => { l with st := .refused, reason := 3, held := 0 }).onFabric fun x =>
          { x with txPool := x.txPool + l.held }) fun o => o.onTicket c l.ticket)) ∧
      (l.dropAsked = false → exec (.leaseGrant c slot true 0) s = .next (resolveCtl (changeSets
        (updLease (fresh s).2 c slot fun l =>
          { l with st := .granted, until_ := s.tick + 1000 * l.term, since := (fresh s).1 }) l.peer l.held)
          fun o => o.onTicket c l.ticket)) ∧
      (l.dropAsked = true → exec (.leaseGrant c slot true 0) s = .next (resolveCtl
        (updLink (endLease (leaseOut s l.peer 5 [l.held]) c slot) l.peer fun x => { x with stray := x.stray - 1 })
          fun o => o.onTicket c l.ticket))) ∧
    (∀ c slot l n, c ≠ 16 → leaseAt s c slot = some l → l.st = .granted → n ≠ 0 → n ≤ l.held → n % 4 = 0 →
      exec (.leaseGrant c slot true n) s = .next (updLease s c slot fun l =>
        { l with st := .notice, noticed := n, noticeAt := s.tick + 20000 })) ∧
    (∀ c slot l, c ≠ 16 → leaseAt s c slot = some l → (l.st = .granted ∨ l.st = .notice) → l.until_ ≤ s.tick →
      exec (.leaseTermExpiry c slot) s = .next (endLease s c slot)) ∧
    (∀ c k l, c ≠ 16 → leaseAt s c k = some l → l.st = .notice → l.noticeAt ≤ s.tick →
      ((l.until_ ≤ s.tick ∨ l.held ≤ l.noticed) → exec (.noticeEnd c k) s = .next (endLease s c k)) ∧
      (s.tick < l.until_ → l.noticed < l.held → exec (.noticeEnd c k) s = .next (changeSets (updLease
        (s.onFabric fun x => { x with txPool := x.txPool + l.noticed }) c k fun l =>
          { l with st := .granted, held := l.held - l.noticed, noticed := 0 }) l.peer (-(l.noticed : Int))))) ∧
    (∀ peer l n, findLink s peer = some l → l.pendingSets = some n → l.unacked = 0 →
      let n := ((setGroups s peer true).map (·.2)).sum
      let t := renumber (updLink s peer fun l => { l with sets := n, pendingSets := none, held := [] }) peer true
      let u := l.held.foldl (fun s x => flitsOn (assayAdd s x.1 44 x.2.2) peer (relaxedHash x.2.1 % max 1 n) x.2.2 true) t
      exec (.laneSetChange peer) s = .next (resolveCtl u fun o => match o.kind with
          | .drop k p => p == peer && !((findLease u o.ctx k).any Lease.live)
          | _ => false)) ∧
    ∀ peer, s.fabric.formed = true → (findLink s peer).isSome = true →
      exec (.peerLeavesDomain peer) s = .next (dropPeerLeases s peer)

/-! ### Completion: what crosses the links -/

/-- R84, R125, R174 to R178, R188, R189, R345, R346, R428, R429: requests taken up from another device, the home agent, RGET on both
sides, mapping requests and XFENCE. One load of a CHASE is an event of its own.
What the rules leave open here rests on log entries 44, 45, 49 and 50. -/
def Obligations.RemoteWorkEventsComplete : Prop :=
  ∀ (s : State),
    (∀ peer r l, s.fabric.formed = true → findLink s peer = some l → l.down = false → r.ctx < 16 → r.channel < 16 → r.lanes ≠ 0 →
      (∀ n source info, r.kind = .devdec n source info → vaLocal s (r.addr.get 0) = true →
        exec (.remoteRequest peer r) s = .next (deviceDecs s r n source info)) ∧
      ((∀ n source info, r.kind ≠ .devdec n source info) → (∀ o ∈ s.exec.ops, o.gid = remoteGid peer r.group → o.told = true → o.faulted = 0) →
      let mine := s.exec.ops.filter fun o => o.gid == remoteGid peer r.group && o.pend != 0
      let n := remoteOp r peer s.exec.seq ((mine.filter fun o => r.channel != 0 && o.channel == r.channel).map (·.id))
        ((mine.filter fun o => o.kind.direct).map (·.id))
      exec (.remoteRequest peer r) s = .next (refuseUnknown (addOp (fresh s).2 n) n))) ∧
    (∀ op o k, findOp s op = some o → o.kind = .nmop k → agentReady s o k = true →
      ((o.agentNext s k).findSome? fun x => lineHolder s o (BitVec.ofNat 64 x.2.1)) = none →
      (∀ t q, k = 4 → o.chasing s = true →
        agentRead s (o.party s) o.ctx (o.chaseLink o.chased.2) = .ok (t, q) →
        exec (.homeAgentOp op) s = .next (answerRemote (finishOp
          (updOp t op fun x => { x with parts := [(1, o.chased.1 + 1, q)] }) op) op)) ∧
      ∀ t ws, (k ≠ 4 ∨ o.chasing s = false) → agentRun s o k = .ok (t, ws) →
        exec (.homeAgentOp op) s = .next (answerRemote (finishOp (updOp t op fun o =>
          { o with todo := 0, done := 1, parts := [], res := Lanes.build fun i => BitVec.ofNat 64 (ws.getD i 0) }) op) op)) ∧
    (∀ remote c a n requester t bs, s.mysko.phase = .full → c < 16 → a.toNat % 4 = 0 → n % 4 = 0 → n ≠ 0 → n ≤ 4096 →
      (getCtx s c).st ≠ .absent → servesPeer s c requester remote = true → rgetRead s c a n = .ok (t, bs) →
      exec (.rgetServe remote c a n requester) s =
        .next (rgetAnswer (assayAdd t c 46 n) requester (0 :: bs.map (·.toNat)))) ∧
    (∀ op piece data o q off n mode g p d, findOp s op = some o → o.kind = .rgetSpad q off n mode → findGroup s o.gid = some g →
      findPair s g.pair = some p → (rgetPieces 18 (o.addrs.get 0).toNat 0 n)[piece]? = some (d, data.length) →
      o.todo.getLsbD piece = true → o.after.all (opPerformed s) = true → rgetBefore s o mode (off + d) data.length = false →
      exec (.rgetPieceLanding op piece data) s = .next (finishOp (updOp
        (assayAdd (examine (spadPut s g.core p.owner mode (off + d) data)) o.ctx 47 data.length) op fun o =>
          { o with todo := o.todo &&& ~~~BitVec.ofNat 64 (2 ^ piece), pieces := o.pieces ++ [piece] }) op)) ∧
    (∀ op piece o, findOp s op = some o → ((∃ q, o.kind = .rgetQueue q) ∨ ∃ q off n mode, o.kind = .rgetSpad q off n mode) → piece < 64 →
      o.todo.getLsbD piece = true → o.dormant = false → o.after.all (opPerformed s) = true →
      exec (.transportFailure op piece) s = .next (updOp s op fun o =>
        { o with todo := o.todo &&& ~~~BitVec.ofNat 64 (2 ^ piece), faulted := o.faulted ||| BitVec.ofNat 64 (2 ^ piece),
                 cause := if o.faulted == 0 then 8 else o.cause, marks := o.marks ||| 2 ^ 7 })) ∧
    (∀ op o, findOp s op = some o → o.kind = .mapft → o.todo ≠ 0 → o.remote = 0 →
      let r := mapRun s o.ctx (vaOffset (o.addrs.get 0))
      (o.from_ = s.fabric.index →
        exec (.mapftExecute op) s = .next (settleMapft (updOp r.1 op fun o => { o with todo := 0, cause := r.2 }) o.gid)) ∧
      (o.from_ ≠ s.fabric.index →
        exec (.mapftExecute op) s = .next (dropOp (sendOut (linkSend r.1 o.ctx o.from_ o.line 16 2) o.from_ 6
          [o.gid % 2 ^ 64, o.channel, 1, r.2]) op))) ∧
    ∀ op o a b after, findOp s op = some o → o.kind = .xfence a b after → o.todo ≠ 0 → after.all (opPerformed s) = true →
      exec (.xfenceComplete op) s = .next (settleCtl (updOp s op fun o => { o with todo := 0 }) o.gid)

/-- R166, R181, R182, R408, R426, R427: flits of 80 bytes, what becomes of one that is good, bad, a probe, an acknowledgement or a request
for a replay, key generations, the reduce windows, and the device's own decrements of signals.
What the rules leave open here rests on log entries 6, 46 to 48 and 64. -/
def Obligations.LinkEventsComplete : Prop :=
  ∀ (s : State),
    (∀ peer set seq ctx l, findSet s peer false set = some l →
      let gen := fullGen l.rxGen (seq / 2 ^ 64)
      (ctx ≠ 18 → ctx ≠ 19 → ctx ≠ 20 → l.accepts gen s.tick = true → seq % 2 ^ 24 = l.rxSeq % 2 ^ 24 →
        exec (.flitReceive peer set seq true ctx) s = .next (flitGood s peer gen ctx l)) ∧
      exec (.flitReceive peer set seq true 19) s = .next (sendOut s peer 19 [set, s.fabric.index]) ∧
      exec (.flitReceive peer set seq false ctx) s = .next (flitBad s peer l)) ∧
    (∀ peer set kind gen seq payload, payload.length ≤ 64 →
      (flitBytes peer set kind gen seq payload).length = 80 ∧ (flitBytes peer set kind gen seq payload).take payload.length = payload) ∧
    (∀ peer set l, findSet s peer true set = some l →
      (∀ n, exec (.flitReceive peer set n true 18) s = .next (flitsAcked s peer set n) ∧
        exec (.flitReceive peer set n true 20) s = .next (replayFlits s peer set)) ∧
      (l.switchAt = none → (2 ^ 32 ≤ l.sent ∨ l.genSince + 10 ^ 9 ≤ s.tick) →
        exec (.keySwitchAnnounce peer set) s = .next (announceKey s peer set l.gen)) ∧
      (∀ t, l.switchAt = some t → t ≤ s.tick → s.tick ≤ t + 16000 → l.unacked = 0 →
        exec (.keySwitch peer set) s = .next (updSet s peer true set fun l =>
          { l with gen := l.gen + 1, sent := 0, genSince := s.tick, switchAt := none })) ∧
      ∀ t, l.switchAt = some t → t + 16000 < s.tick → exec (.keySwitchRetry peer set) s = .next (announceKey s peer set l.gen)) ∧
    (∀ peer set l t, findSet s peer false set = some l → l.rxNewAt = some t → t + 64000 ≤ s.tick →
      exec (.oldGenerationExpiry peer set) s = .next (updSet s peer false set fun l =>
        { l with rxGen := l.rxGen + 1, rxAnnounced := false, rxNewAt := none })) ∧
    (∀ c w m chunk x d, homeWindow s c w = some x → x.members[m]? = some d → 128 * chunk + 128 ≤ x.len →
      (∀ data t, d ≠ s.fabric.index → data.length = 128 → mrAccept s c w x m chunk data = some t →
        exec (.mrContribution c w m chunk data) s = .next (sendOut (linkSend t c d 0 0 1) d 14 [c, w, chunk])) ∧
      ∀ o q j, d = s.fabric.index → mrSource s c w chunk = some (o, q, j) →
        exec (.mrContribution c w m chunk []) s = .next (mrOwn s o w x m q j)) ∧
    (∀ op o w q back j t, findOp s op = some o → o.kind = .stmr w q back → o.todo ≠ 0 → o.dormant = false →
      back.find? (fun y => y.2 ≤ s.tick) = some (j, t) →
      (o.remote ≠ 0 → homeWindow s o.ctx w = none → exec (.mrResend op) s = .next (sendRequests (updOp s op fun o =>
        { o with kind := .stmr w q (back.filter fun y => y.1 != j) }) o (o.todo &&& BitVec.ofNat 64 (2 ^ j)))) ∧
      ∀ x m, homeWindow s o.ctx w = some x →
        (List.range x.members.length).find? (fun k => x.members.getD k 0 == s.fabric.index) = some m →
        exec (.mrResend op) s = .next (mrOwn s o w x m q j)) ∧
    (∀ c w gen chunk data x t, windowOf s c w = some x → x.home ≠ s.fabric.index → data.length = 128 → 128 * chunk + 128 ≤ x.len →
      mrStore s c w x chunk data = some t → exec (.mrDelivery c w gen chunk data) s = .next t) ∧
    ∀ k d, s.exec.sigdecs[k]? = some d →
      let t := s.onExec fun e => { e with sigdecs := e.sigdecs.filter fun x => x.id != d.id }
      (∀ u, vaOk t d.ctx d.addr = true → vaLocal t d.addr = true → signalLower t d.ctx d.addr d.n = .ok u →
        exec (.signalDecrement k) s = .next (launchesOver (touchLine u d.ctx (vaOffset d.addr / 128) hostParty))) ∧
      (vaOk t d.ctx d.addr = true → vaLocal t d.addr = false →
        exec (.signalDecrement k) s = .next (launchesOver (sendOut (linkSend t d.ctx (vaOwner d.addr) (vaOffset d.addr / 128) 0 1)
          (vaOwner d.addr) 13 [d.ctx, d.addr.toNat, d.n, d.source, d.info.toNat])))

/-! ### Completion: the PCI Express side -/

/-- R396 to R399, R422, R424: host accesses to the registers of the queues, the segments and the MSI-X table, the memory window, the
mailbox and the event word, in a phase that serves them and in one that does not.
What the rules leave open here rests on log entries 12, 60 and 101. -/
def Obligations.HostAccessEventsComplete : Prop :=
  ∀ (s : State),
    (∀ x n bar off, hostSpan x n = true → barOf x = some (bar, off) → barServed s bar = false →
      exec (.hostWindowRead x n) s = .next (replyHost s .unsupported) ∧
      ∀ v, exec (.hostWindowWrite x n v) s = .next s) ∧
    (s.mysko.phase ≠ .boot → ∀ off n, off < 2 ^ 16 → hostSpan (2 ^ 37 + off) n = true →
      exec (.hostWindowRead (2 ^ 37 + off) n) s = .next (replyHost s (.data ((List.range n).map fun i => mailByte s (off + i)))) ∧
      ∀ v, exec (.hostWindowWrite (2 ^ 37 + off) n v) s = .next (mailWrite s off (leBytes n v))) ∧
    (∀ v, s.mysko.phase ≠ .boot → exec (.eventWordClear v) s = .next (clearEvents s v)) ∧
    (barUp s = true →
    (∀ off n, off < 2 ^ 20 → hostSpan (2 ^ 36 + off) n = true →
      exec (.hostWindowRead (2 ^ 36 + off) n) s = .next (replyHost s (bar0Read s off n)) ∧
      ∀ v, exec (.hostWindowWrite (2 ^ 36 + off) n v) s = .next (bar0Write s off (leBytes n v))) ∧
    (∀ q, q < 64 →
      (∀ v, (getQueue s q).enable = false → exec (.qbase q v) s = .next (updHwQueue s q fun x => { x with base := v })) ∧
      exec (.queueEnable q) s = .next (writeQctl s q (2 ^ 63 + qctlWord (getQueue s q) % 2 ^ 63)) ∧
      exec (.queueDisable q) s = .next (writeQctl s q (qctlWord (getQueue s q) % 2 ^ 63)) ∧
      (∀ v, exec (.qctlConfig q v) s = .next (writeQctl s q v.toNat)) ∧
      (∀ v, exec (.qerr q v) s = .next (updHwQueue s q fun x => { x with err := x.err - (x.err &&& v.toNat) })) ∧
      ∀ w, (getQueue s q).feed = false → (w - (getQueue s q).rd).toNat ≤ 2 ^ (getQueue s q).size →
        (w - (getQueue s q).wr).toNat < 2 ^ 31 → exec (.doorbell q w) s = .next (updHwQueue s q fun x => { x with wr := w })) ∧
    (∀ k v, k < 64 → exec (.registerWrite (0x3000 + 16 * k) v) s =
      .next (s.onHost fun h => { h with segments := h.segments.modify k fun x => { x with base := v } })) ∧
    (∀ k v, k < 64 → exec (.registerWrite (0x3008 + 16 * k) v) s = .next (s.onHost fun h =>
      { h with segments := h.segments.modify k fun x => { x with enable := v.getLsbD 63, ctx := (v.extractLsb' 8 4).toNat } })) ∧
    (∀ k v, k < 4096 → exec (.registerWrite (0x8000 + 8 * k) v) s = .next (writeMsix s k v)) ∧
    ∀ x n, x < 2 ^ 36 → hostSpan x n = true →
      (windowTarget s x = none → exec (.hostWindowRead x n) s = .next (replyHost s .completerAbort)) ∧
      ∀ c a, windowTarget s x = some (c, a) →
        (∀ t bs, veiledOutside s c a.toNat n = false → loadBytes s c (vaOffset a) n = .ok (t, bs) →
          exec (.hostWindowRead x n) s =
            .next (replyHost ((linesOf (vaOffset a) n).foldl (fun s l => homeRead s c l hostParty) t) (.data bs))) ∧
        ∀ (v : Nat) (t : State), storeBytes (snoop s c (vaOffset a) n none) c (vaOffset a) (leBytes n v) = .ok t →
          exec (.hostWindowWrite x n v) s = .next ((linesOf (vaOffset a) n).foldl (fun s l => touchLine s c l hostParty) t))

/-- R85, R348, R399 to R405: a packet that passes its checks is accepted; LAUNCH enqueues one; dependences that hold let a launch be
placed, or end a barrier packet; and a head that has waited 1 ms is starved.
What the rules leave open here rests on log entries 58 and 59. -/
def Obligations.LaunchEventsComplete : Prop :=
  ∀ (s : State),
    (∀ q t p u l, q < 64 → barUp s = true →
      let x := getQueue s q
      x.enable = true → x.rd ≠ x.wr → x.current = none → (getCtx s x.ctx).st ≠ .absent → (getCtx s x.ctx).st ≠ .ending →
      readLocal s x.ctx (packetAt x x.rd) 128 = some (t, p) → acceptPacket t q x.ctx x.rd.toNat p = .ok (u, l) →
      exec (.packetRead q) s = .next (updHwQueue (writeStatus
        ((u.onExec fun e => { e with launches := e.launches ++ [l] }).onMemory fun m =>
          { m with icache := m.icache.filter fun y => y.ctx != x.ctx || (getCore u y.core).owner != some x.ctx })
        x.ctx (packetAt x x.rd) 1) q fun x => { x with rd := x.rd + 1, current := some l.id })) ∧
    (∀ op o q t p u, findOp s op = some o → o.kind = .launch q → o.todo ≠ 0 → o.orderMet s = true → q < 64 →
      let x := getQueue s q
      x.feed = true → x.ctx = o.ctx → (x.wr - x.rd).toNat < 2 ^ x.size →
      readLocal s o.ctx (o.addrs.get 0) 128 = some (t, p) → homeStore t o.ctx (vaOffset (packetAt x x.wr)) p hostParty = .ok u →
      exec (.launchPacketRead op) s = .next (finishOp (updOp (updHwQueue u q fun x => { x with wr := x.wr + 1 }) op fun o =>
        { o with todo := 0 }) op)) ∧
    (∀ id l, findLaunch s id = some l → (getQueue s l.queue).current = some id → l.met = none → l.deps.all (depHolds s l.ctx) = true →
      (l.barrier = false → exec (.dependenceMet id) s = .next (updLaunch (depReads s l) id fun l => { l with met := some s.tick })) ∧
      (l.barrier = true → exec (.dependenceMet id) s = .next (updHwQueue
        ((if l.completion = 0 then depReads s l else sendDec (depReads s l) l.ctx l.completion 1 (l.queue + l.index % 2 ^ 32 * 2 ^ 32)).onExec fun e =>
          { e with launches := e.launches.filter fun x => x.id != id }) l.queue fun x => { x with current := none }))) ∧
    ∀ q l t, headLaunch s q = some l → l.starved = false → l.met = some t → t + 10 ^ 6 ≤ s.tick →
      exec (.priorityStarvation q) s = .next (updLaunch s l.id fun l => { l with starved := true })

/-- R40, R41, R46, R48 to R50, R72, R406, R411, R447: units are placed, restored, migrated, saved and retired.
What the rules leave open here rests on log entries 51 to 57. -/
def Obligations.PlacementEventsComplete : Prop :=
  ∀ (s : State),
    (∀ core part, core < 160 → part < 4 →
      (∀ q t, placeHead s q core part = some t → exec (.placement (.queue q) core part) s = .next t) ∧
      (∀ p t, findPair s p.id = some p → placeSavedPair s p core part = some t → exec (.placement (.pair p.id) core part) s = .next t) ∧
      (∀ co t, findCohort s co.id = some co → placeSavedCohort s co core part = some t →
        exec (.placement (.cohort co.id) core part) s = .next t) ∧
      ∀ p t x u, findPair s p.id = some p → p.core ≠ core → migratable s p = true → cohortWaits s p.ctx = true →
        accessesDone s p.id = true → savePair s p = some t → findPair t p.id = some x → placeSavedPair t x core part = some u →
        exec (.migration p.id core part) s = .next u) ∧
    (∀ core unit g gs p t, unit ≤ 4 → stuckInGrow s core unit = g :: gs →
      let y := gs.foldl (fun b x => if b.age < x.age ∨ (b.age = x.age ∧ b.slot < x.slot) then x else b) g
      findPair s y.pair = some p → heldByDebug s p.unit = false →
      saveTarget (updPath s y.gid y.grantPath fun p => { p with granted := true }) p.unit = some t →
      exec (.growPreemption core unit) s = .next (faultRecord t y.ctx
        { type := 0x0D, group := some (y, 0), d0 := unit, d1 := heldGranules s y })) ∧
    (∀ p t g w u, findPair s p.id = some p → heldByDebug s p.unit = false → saveTarget s p.unit = some t → g ∈ s.exec.groups →
      g.exited = false → (((findPair s g.pair).map (·.resident)).getD true) = false →
      (g.circles.any fun k => (longCwait s p.id).contains (g.ctx, k.1)) = true →
      findPair t g.pair = some w → w.cohort = none → pairGood s w = true → placeSavedPair t w p.core 0 = some u →
      exec (.cwaitPreemption p.id) s = .next t) ∧
    (∀ tgt t, mustLeave s tgt = true → ((getCtx s (targetCtx s tgt)).st = .stopping ∨ heldByDebug s tgt = false) →
      saveTarget s tgt = some t → exec (.preemption tgt) s = .next t) ∧
    (∀ p, findPair s p.id = some p → p.resident = true → p.cohort = none → pairDrained s p.id = true →
      exec (.retirement (.pair p.id)) s = .next (unitRetired (removePair s p.id) p.launch)) ∧
    ∀ co t, findCohort s co.id = some co → cohortStep s co = some t → exec (.retirement (.cohort co.id)) s = .next t

/-! ### Completion: Mysko's commands -/

/-- R410 to R412, R432, R440: contexts are created, given cores and rid of them, stopped, resumed and ended; one that has drained is Absent,
owns no core and holds no pair, cohort, launch or operation, and the commands that waited for it are done with status 0.
What the rules leave open here rests on log entries 62 and 63. -/
def Obligations.ContextCommandsComplete : Prop :=
  ∀ (s : State),
    (∀ slot c, Commanded s slot served → c < 16 →
      (∀ block cores, sealQueued s c = false → createStatus s c block.toNat cores = 0 →
        let t := dropContextLines s c
        exec (.ctxCreate slot c block cores) s = .next (mailDone (formMembers (giveCores
          (updCtx t c fun _ =>
            { blockCtx t block.toNat cores with
              prevSeq := (getCtx s c).prevSeq, windowWait := (getCtx s c).windowWait, invalWait := (getCtx s c).invalWait })
          (maskCores cores) c) c) slot 0)) ∧
      (∀ add rem,
        let gone := (maskCores rem).filter fun k => (getCore s k).owner == some c
        let drained := gone.foldl (fun s k => drainAll 4096 s k) s
        coresStatus s c add rem = 0 → (∀ k ∈ gone, (getCore drained k).ringOn = true → (getCore drained k).fifo = []) →
        exec (.ctxCores slot c add rem) s = .next (mailDone (updCtx (giveCores (gone.foldl leaveCore drained) (maskCores add) c) c fun x =>
          { x with cores := (x.cores &&& ~~~rem) ||| add }) slot 0)) ∧
      ((getCtx s c).st = .live → exec (.ctxStop slot c) s =
        .next (mailTake (updCtx s c fun x => { x with st := .stopping, waiting := x.waiting ++ [slot] }) slot)) ∧
      ((getCtx s c).st = .stopped → exec (.ctxResume slot c) s =
        .next (mailDone (updCtx s c fun x => { x with st := .live }) slot 0)) ∧
      (((getCtx s c).st = .live ∨ (getCtx s c).st = .stopping ∨ (getCtx s c).st = .stopped) → exec (.ctxEnd slot c) s =
        .next (mailTake (endContext (updCtx s c fun x => { x with waiting := x.waiting ++ [slot] }) c) slot))) ∧
    ∀ c, c < 16 →
      ((getCtx s c).st = .stopping → anyResident s c = false → exec (.contextStopped c) s =
        .next (finishWaiting (updCtx s c fun x => { x with st := .stopped }) c 0)) ∧
      let t := endIdleGroups s c
      ((getCtx t c).st = .ending → inFlight t c = false →
        (∀ r ∈ s.exec.runs, r.unit ≤ 4 → ((findGroup s r.gid).map (·.ctx)) ≠ some c) →
        let cohorts := (t.exec.cohorts.filter fun co => co.ctx == c).map (·.id)
        let u := (((t.exec.pairs.filter fun p => p.ctx == c).map (·.id)).foldl removePair t).onExec fun e =>
          { e with
            cohorts := e.cohorts.filter fun co => co.ctx != c
            presses := e.presses.filter fun p => !cohorts.contains p.cohort
            allocs := e.allocs.filter fun a => match a.owner with
              | .cohort i => !cohorts.contains i
              | _ => true
            launches := e.launches.filter fun l => l.ctx != c
            ops := e.ops.filter fun o => o.ctx != c }
        let v := ((List.range 160).filter fun k => (getCore u k).owner == some c).foldl
          (fun s k => leaveCore (drainAll 4096 s k) k) u
        let w := finishWaiting (updCtx v c fun x => { x with st := .absent, cores := 0, debug := false }) c 0
        exec (.contextDrained c) s = .next w ∧
        (getCtx w c).st = .absent ∧ (getCtx w c).cores = 0 ∧ (getCtx w c).waiting = [] ∧
        (∀ k, k < 160 → (getCore w k).owner ≠ some c) ∧ (∀ p ∈ w.exec.pairs, p.ctx ≠ c) ∧ (∀ co ∈ w.exec.cohorts, co.ctx ≠ c) ∧
        (∀ o ∈ w.exec.ops, o.ctx ≠ c) ∧ (∀ l ∈ w.exec.launches, l.ctx ≠ c) ∧
        ∀ slot ∈ (getCtx v c).waiting, mailWord w slot 1 = BitVec.ofNat 64 (2 ^ 63) ∧ (mailWord w slot 0).getLsbD 63 = false)

/-- R83, R153, R179, R416 to R419, R425, R429, R437, R440: invalidation, range entries, regions, reduce windows, members, peers and the
job.
What the rules leave open here rests on log entry 63. -/
def Obligations.TableCommandsComplete : Prop :=
  ∀ (s : State) (slot : Nat),
    (∀ d left, invalWaiting s slot = some (d, left) →
      (left.all fun y => ((contribAt s y.1 y.2).map fun x => !x.2.checked).getD true) = true →
      (∀ c off len glob, exec (.inval slot c off len glob) s =
        .next (mailDone (updCtx s d fun x => { x with invalWait := x.invalWait.filter fun w => w.1 != slot }) slot 0)) ∧
      ∀ k, exec (.rangeClear slot k) s =
        .next (mailDone (updCtx s d fun x => { x with invalWait := x.invalWait.filter fun w => w.1 != slot }) slot 0)) ∧
    (∀ c k, (getCtx s c).windowWait.contains (slot, k) = true →
      exec (.windowEnable slot c k) s = .next (windowDone s slot c k) ∧
      exec (.windowDisable slot c k) s = .next (windowDone s slot c k)) ∧
    (Commanded s slot served →
    (∀ k, k < 32 →
      (∀ e, rangeOk s e = true → exec (.rangeSet slot k e) s = .next (mailDone (s.onMemory fun m =>
        { m with ranges := m.ranges.set k (if e.getLsbD 255 then some (parseRange e) else none) }) slot 0)) ∧
      ∀ r, s.memory.ranges.getD k none = some r → invalWaiting s slot = none → exec (.rangeClear slot k) s = .next
        (runInval (s.onMemory fun m => { m with ranges := m.ranges.set k none }) slot r.ctx r.base (r.limit - r.base) r.global)) ∧
    ∀ c, c < 16 → ((getCtx s c).st = .live ∨ (getCtx s c).st = .stopping ∨ (getCtx s c).st = .stopped) →
      (∀ off len glob, off.toNat % 8192 = 0 → len.toNat % 8192 = 0 → invalWaiting s slot = none →
        exec (.inval slot c off len glob) s = .next (runInval s slot c off.toNat len.toNat glob)) ∧
      (∀ k, k < 64 →
        let a := (getCtx s c).regionBase + 64 * k
        let b := (getCtx s c).windowBase + 64 * k
        (∀ r t, tableRegion s a = some r → registerRegion s c k r = some t →
          exec (.regionEnable slot c k) s = .next (mailDone t slot 0)) ∧
        (((getCtx s c).regions.getD k none).isSome = true →
          exec (.regionDisable slot c k) s = .next (mailDone (removeRegion s c k) slot 0)) ∧
        ((getCtx s c).windowWait.contains (slot, k) = false →
          (∀ x, tableWindow s c b = some x → stagingRoom s x = true → ((getCtx s c).windows.getD k none) = none →
            exec (.windowEnable slot c k) s = .next (mailTake (markEntry (updCtx s c fun y =>
              { y with windows := y.windows.set k (some x), windowWait := y.windowWait ++ [(slot, k)] }) b true) slot)) ∧
          (((getCtx s c).windows.getD k none).isSome = true → exec (.windowDisable slot c k) s = .next (mailTake (markEntry
            ((updCtx s c fun y =>
              { y with windows := y.windows.set k none, windowWait := y.windowWait ++ [(slot, k)] }).onFabric fun x =>
              { x with staging := x.staging.filter fun y => !(y.ctx == c && y.win == k) }) b false) slot)))) ∧
      (∀ mask, s.mysko.phase = .full → sealQueued s c = false → mask.getLsbD s.fabric.index = true →
        exec (.ctxMembers slot c mask) s = .next (mailDone (formMembers (updCtx s c fun x => { x with members := mask }) c) slot 0)) ∧
      (∀ base n, s.mysko.phase = .full → base.toNat % 4096 = 0 → n ≠ 0 → n ≤ 4096 → physOk s base.toNat (32 * n) = true →
        exec (.peerTable slot c base n) s =
          .next (mailDone (updCtx s c fun x => { x with peerBase := base.toNat, peerCount := n }) slot 0)) ∧
      ∀ job, (getCtx s c).created = true → sealQueued s c = false →
        exec (.jobSet slot c job) s = .next (mailDone (formMembers (updCtx s c fun x => { x with job := job }) c) slot 0))

/-- R16, R165 to R168, R422 to R431, R450: images, phases, the domain, ports and power, the clock and the reference of the timebase.
What the rules leave open here rests on log entries 5, 8 and 65 to 70. -/
def Obligations.BringupEventsComplete : Prop :=
  ∀ (s : State),
    (∀ slot, Commanded s slot [.reduced, .full] →
      (∀ addr len pieces, physOk s addr.toNat len = true → imagePasses s.mysko.fused (physBytes s addr.toNat len) = true →
        exec (.fwStage slot addr len pieces) s = .next (mailDone (s.onMysko fun m =>
          { m with fw := m.fw.set (stageSlot m) (slotOf (physBytes s addr.toNat len)) }) slot 0)) ∧
      ∀ limit q, 1200 ≤ limit → limit ≤ 3200 → 16384 ≤ q → q ≤ 262144 → exec (.powerSet slot limit q) s =
        .next (mailDone (s.onMysko fun m => { m with limit := limit, q := q }) slot 0)) ∧
    (∀ slot, Commanded s slot [.recovery] → ∀ addr len pieces, imagePasses s.mysko.fused (pieces.take len) = true →
      exec (.fwStage slot addr len pieces) s = .next (mailDone (s.onMysko fun m =>
        { m with fw := m.fw.set (stageSlot m) (slotOf (pieces.take len)) }) slot 0)) ∧
    (∀ slot, Commanded s slot [.reduced] → (s.mysko.stacksTrained ||| s.mysko.stacksFenced) = BitVec.allOnes 12 →
      s.mysko.rings = true → s.mysko.selfTest = true → anyLive s = false →
      exec (.serviceFull slot) s = .next (mailDone
        ({ enterPhase (s.onMysko fun m => { m with clock := 1000, serviceEpoch := m.serviceEpoch + 1 }) .full with mem := [] }.onMemory
          fun m => { m with l2 := [], tlb := [], l1 := [], icache := [] }) slot 0)) ∧
    (∀ slot, Commanded s slot [.full] →
      (∀ index count map floors, anyLive s = false → count ≤ 1024 → index < count → physOk s map.toNat 16384 = true →
        physOk s floors.toNat 4096 = true →
        let lanes := readLaneMap s map.toNat
        let ps := domainPairs s index count floors.toNat
        floorsOk lanes ps = true →
        exec (.domainForm slot index count map floors none) s =
          .next (mailDone (installDomain (sendProbes s ps) index count lanes ps) slot 0) ∧
        ∀ b ∈ ps.map (·.1), exec (.domainForm slot index count map floors (some b)) s =
          .next (mailDone (sendProbes s ps) slot (8 + b * 2 ^ 16))) ∧
      (anyLive s = false → exec (.domainLeave slot) s = .next (mailDone (endDomain s) slot 0)) ∧
      ∀ port entry, port < 8 → entry.extractLsb' 0 63 = 0 → entry.extractLsb' 256 256 = 0 →
        (entry.getLsbD 63 = false ∨ s.mysko.fencedUnits.contains (5, port) = false) →
        exec (.uePort slot port entry) s = .next (mailDone (s.onFabric fun x => { x with ports := x.ports.set port entry }) slot 0)) ∧
    (let kept : Mysko := { Mysko.zero with fw := s.mysko.fw, fused := s.mysko.fused, sequence := s.mysko.sequence }
     (∀ f, romChoice kept = some f → s.mysko.deviceFenced = false → exec .powerOnReset s =
       .next ({ State.reset with mysko := kept, agenda := s.agenda }.onMysko fun m =>
         { m with running := f.version, fused := max m.fused f.rollback })) ∧
     (romChoice kept = none → exec .powerOnReset s =
       .next (enterPhase { State.reset with mysko := kept, agenda := s.agenda } .recovery))) ∧
    (s.mysko.phase = .boot → started s = true → exec .stack0Trained s =
      .next (enterPhase (s.onMysko fun m => { m with stacksTrained := 1 }) .reduced)) ∧
    (∀ hbm found, bringupOpen s = true →
      let trained := s.mysko.stacksTrained ||| hbm
      let t := ((List.range 160).filter fun k => !found.cores.getLsbD k).foldl (fun s k => fenceCore s k (pairsOn s k)) (s.onMysko fun m =>
        { m with stacksTrained := trained, stacksFenced := ~~~trained, rings := found.rings, selfTest := found.crucibles })
      exec (.bringupComplete hbm found) s =
        .next (if found.crucibles then t else (endAllContexts t).onMysko fun m => { m with deviceFenced := true })) ∧
    (∀ watts junction inlet, s.tick % 100000 = 0 → exec (.powerSample watts junction inlet) s =
      .next (s.onMysko fun m => clockStep { m with samples := (watts :: m.samples).take 10, junction := junction, inlet := inlet })) ∧
    (s.mysko.tripped = false → 880 ≤ s.mysko.junction → s.mysko.stopped = false → allAbsent s = false → exec .thermalTrip s =
      .next ((endAllContexts s).onMysko fun m => { m with tripped := true })) ∧
    ((s.mysko.tripped = true ∨ 880 ≤ s.mysko.junction) → s.mysko.stopped = false → allAbsent s = true → exec .thermalTrip s =
      .next ((errorRecord ((endAllContexts s).onMysko fun m => { m with tripped := true }) 3 6 0 15 0 0).onMysko fun m =>
        { m with stopped := true })) ∧
    (∀ offset, s.fabric.formed = true → s.fabric.index ≠ 0 → s.tick % 100000 = 0 → -100 ≤ offset → offset ≤ 100 →
      exec (.timeExchange offset) s = .next (s.onMysko fun m =>
        { m with offset := offset, slew := -offset, alerted := false, offsetSince := none })) ∧
    ∀ t, s.fabric.formed = true → s.fabric.index ≠ 0 → s.mysko.alerted = false → s.mysko.offsetSince = some t → t + 10000000 < s.tick →
      exec .timeOffsetAlert s =
      .next (errorRecord (setEvent (s.onMysko fun m => { m with alerted := true }) 3) 2 6 0 15 0 0)

/-- R351, R432 to R456: Hallmark and membership records, the error log, traces and the debugger.
What the rules leave open here rests on log entries 5, 7 and 71 to 77. -/
def Obligations.RecordEventsComplete : Prop :=
  ∀ (s : State),
    (∀ slot, Commanded s slot served →
      (∀ c, c < 16 → (getCtx s c).created = true →
        (∃ ws, exec (.hmRead slot c) s = .next (mailReply s slot ws) ∧ (0x010, (getCtx s c).satMask) ∈ ws ∧
          (0x218, BitVec.ofNat 64 s.tick) ∈ ws ∧ ∀ n < 64, (0x018 + 8 * n, BitVec.ofNat 64 ((getCtx s c).counters.getD n 0)) ∈ ws) ∧
        (s.mysko.seals.length < 64 → ∀ dst,
          (destOk s dst 5632 = true → exec (.hmSeal slot c dst) s =
            .next (mailTake (s.onMysko fun m => { m with seals := m.seals ++ [.hmSeal slot c dst] }) slot)) ∧
          (destOk s dst (membershipSize (getCtx s c).memberKeys.length + 4632) = true → exec (.domAttest slot c dst) s =
            .next (mailTake (s.onMysko fun m => { m with seals := m.seals ++ [.domAttest slot c dst] }) slot)))) ∧
      (∀ dst, destOk s dst 7235 = true → exec (.idRead slot dst) s = .next (mailDone (physWrite s dst.toNat
        (fitBytes 2592 Config.identityKey ++ fitBytes 16 Config.serial ++ fitBytes 4627 Config.endorsement)) slot 0)) ∧
      (∀ dst n, n ≠ 0 → n ≤ 1024 → destOk s dst (32 * n) = true → exec (.errRead slot dst n) s = .next (mailDone
        ((physWrite s dst.toNat ((s.mysko.log.reverse.take n).flatMap ErrRec.bytes)).onMysko fun m => { m with log := [], lost := 0 })
        slot (s.mysko.lost * 2 ^ 8))) ∧
      (∀ core base cap shift, core < 160 → base.toNat % 4096 = 0 → 4096 ≤ base.toNat → 7 ≤ cap → cap ≤ 20 →
        physOk s base.toNat (32 * 2 ^ cap) = true → (shift = 0 ∨ (10 ≤ shift ∧ shift ≤ 20)) →
        exec (.traceSet slot core base cap shift) s = .next (mailDone (updCore (physWrite s (base.toNat - 8) (leBytes 4 0)) core fun k =>
          { k with ringBase := base.toNat, ringLog := cap, ringOn := true, ringIndex := 0, shift := shift, needFull := true }) slot 0)) ∧
      (∀ c base, c < 16 → ((getCtx s c).st = .live ∨ (getCtx s c).st = .stopping ∨ (getCtx s c).st = .stopped) →
        base.toNat % 4096 = 0 → physOk s base.toNat 4096 = true → exec (.debugSet slot c true base) s = .next (mailDone
          (updCtx s c fun x => { x with debug := true, debugBase := base.toNat, debugIndex := 0 }) slot 0)) ∧
      ∀ c index stream entry g, debugGroup s c index stream = some g → pathStatus s c index stream entry = 0 →
        ((getCtx s c).debug = true → (g.path entry).stopped = false →
          (pathBusy s g.gid entry = true → exec (.debugStop slot c index stream entry) s =
            .next (mailDone (updPath s g.gid entry fun p => { p with stopAsked := true }) slot 0)) ∧
          (pathBusy s g.gid entry = false → (g.path entry).st ≠ .parked → residentGroup s g = true →
            exec (.debugStop slot c index stream entry) s =
              .next (mailDone (debugStop s g.gid entry (2 ^ 32 - 1) (g.path entry).pc) slot 0))) ∧
        ((g.path entry).stopped = true → (findPair s g.pair).bind (·.area) = none →
          (stream ≠ .press → exec (.debugRelease slot c index stream entry) s =
            .next (mailDone (updPath s g.gid entry fun p => { p with st := .ready, stopped := false }) slot 0)) ∧
          ∀ dst, destOk s dst (partSize g) = true → exec (.debugDump slot c index stream entry dst) s = .next (mailDone
            (writeChunks (zeroRange s dst.toNat (partSize g)) dst.toNat
              (partChunks g (((findPair s g.pair).map (·.lod)).getD 0))) slot 0))) ∧
    (∀ q qs, s.mysko.seals = q :: qs →
      let t := s.onMysko fun m => { m with seals := qs }
      (∀ id o signal, q = .hmseal id → findOp s id = some o → o.kind = .hmseal signal → o.after.all (opPerformed s) = true →
        exec .sealPerform s = .next (sealGroup t o signal)) ∧
      (∀ slot c dst, q = .hmSeal slot c dst →
        let n := s.mysko.sequence + 1
        let u := t.onMysko fun m => { m with sequence := n }
        exec .sealPerform s = .next (mailDone (updCtx (physWrite u dst.toNat (hallmarkBytes u c n)) c fun x =>
          { x with prevSeq := n }) slot 0)) ∧
      ∀ slot c dst, q = .domAttest slot c dst →
        let n := s.mysko.sequence + 1
        let u := t.onMysko fun m => { m with sequence := n }
        exec .sealPerform s = .next (mailDone (physWrite u dst.toNat (membershipBytes u c n)) slot 0)) ∧
    (∀ r, 1 ≤ r.kind → r.kind ≤ 6 → 1 ≤ r.struct → r.struct ≤ 7 → r.unit < 2 ^ 16 → r.ctx < 16 → s.mysko.phase ≠ .boot →
      (r.cls = 2 → exec (.errorReport r) s = .next (errorRecord s r.cls r.kind r.unit r.ctx r.addr r.struct)) ∧
      (r.cls = 3 → exec (.errorReport r) s = .next (fence (errorRecord s r.cls r.kind r.unit r.ctx r.addr r.struct) r))) ∧
    (∀ core t, drainOne s core = some t → exec (.traceDrain core) s = .next t) ∧
    ∀ core, core < 160 → (getCore s core).shift ≠ 0 → s.exec.cycle % 2 ^ (getCore s core).shift = 0 →
      (getCore s core).sampledAt ≠ some s.exec.cycle →
      exec (.traceSample core) s = .next (updCore ((List.range 5).foldl (fun s u => sampleUnit s core u)
        { s with issuer := s.issuer.filter fun x => x.1 != core || 4 < x.2 }) core fun k =>
        { k with sampledAt := some s.exec.cycle })

/-! ### Accesses that skip or trap -/

/-- R51, R58, R63, R83, R274, R288: an access without effective lanes only pops and pushes its ports; one with a lane that fails the
checks of R83, or a misaligned atomic, raises ADDRFAULT for those lanes at the run's boundary and does nothing; and a scratchpad store
that has lanes out of range goes on its way in the others and raises SPADRANGE.
What the rules leave open here rests on log entry 26. -/
def Obligations.AccessesThatSkipOrTrap : Prop :=
  ∀ (f : FmtM) (s : State) (sl : Slot),
    let eff := sl.eff f.guard
    let t := noteIssued s sl
    let popped (i : Instr) : State := popPorts t sl (wordPorts i)
    (∀ e ∈ [Instr.ldv, .ldp, .grld, .lds, .ldcl, .ldsT], Issues s sl (e f) → eff = 0 →
      exec (e f) s = .next (after (e f) sl (openDst t sl f.dst 0).1)) ∧
    (∀ e ∈ [Instr.st, .sts, .stcl], Issues s sl (e f) → eff = 0 → exec (e f) s = .next (after (e f) sl (popped (e f)))) ∧
    (∀ e ∈ [Instr.aadd, .asub, .aand, .aor, .axor, .amin, .amax, .aminu, .amaxu, .axchg, .acas, .fadd],
      let mis := maskOf fun i => eff.getLsbD i && (sl.gaddr f i).toNat % 2 ^ f.width.toNat != 0
      let bad := badLanes t sl.g.ctx eff (sl.gaddr f)
      Issues s sl (e f) →
        (eff = 0 → ocFull sl.g (if !f.dst.nwb then some .atom else none) = false →
          exec (e f) s = .next (after (e f) sl (popped (e f)))) ∧
        (bad ||| mis ≠ 0 → exec (e f) s = .next (afterCause (e f) sl t
          (addrCause sl (bad ||| mis) (sl.gaddr f) (if mis != 0 then 2 else 0))))) ∧
    (∀ e ∈ [Instr.ldv, .st], Issues s sl (e f) → badLanes t sl.g.ctx eff (sl.gaddr f) ≠ 0 → (e = .ldv → f.dst.reg.toNat < 240) →
      exec (e f) s = .next (afterCause (e f) sl t (addrCause sl (badLanes t sl.g.ctx eff (sl.gaddr f)) (sl.gaddr f) 0))) ∧
    (let n := 2 ^ f.width.toNat
     let bad := spadBad t sl false n eff (sl.saddr f)
     let good := eff &&& ~~~bad
     let k := OpKind.spadStore false f.swz.toNat n
     Issues s sl (.sts f) → bad ≠ 0 → good ≠ 0 →
     exec (.sts f) s = .next (afterCause (.sts f) sl
       (sendOp (popped (.sts f)) { baseOp (popped (.sts f)) sl k with
         todo := good, addrs := intLanes (sl.saddr f), data := sl.sdata f.c, scope := f.scope.toNat, order := f.order.toNat })
       (spadCause sl bad (BitVec.ofInt 64 (((lowestLane bad).map (sl.saddr f)).getD 0)))))

/-! ### Steps and words -/

/-- R29, R30, R52, R190, R219: a step runs what stands on the agenda; else the instruction in the issuing unit's slot; else it fetches the
chosen path's run and executes its head at once. A run that fails a check is not run: its path takes, at the PC of the head, the first
in the order of R52 of a fetch fault, ILLEGAL, WRONGSTREAM, PRIV, RUNLONG and QDIV that holds of some slot of it. The slots of a run that
passes are the decodings of the words of its fetch lines, the first of them at the path's PC.
What the rules leave open here rests on log entries 9, 87 and 104. -/
def Obligations.StepRunsDecodedInstruction : Prop :=
  (∀ (s : State) i rest, s.agenda = i :: rest → (s.mysko.stopped = false ∨ needsClock i = false) →
    step s = exec i { s with agenda := rest }) ∧
  (∀ (s : State), s.agenda = [] → s.mysko.stopped = false →
    (∀ sl i, currentSlot s = some sl → sl.run.slots[sl.run.idx]? = some (sl.pc, i) → step s = exec i s) ∧
    (∀ core unit, s.issuer = some (core, unit) → findRun s core unit = none →
      (∀ i, issuerInstr (issuerFetch s) = some i → step s = exec i (issuerFetch s)) ∧
      (issuerInstr (issuerFetch s) = none → step s = .next (issuerFetch s)) ∧
      ∀ gid e g pr, unit < 5 → unitMayIssue s core unit = true → (schedOf s core unit).chosen = some (gid, e) →
        chosenStands s core unit gid e = true →
        let t := updSched { s with issuer := none } core unit fun x => { x with chosen := none }
        findGroup t gid = some g → findPair t g.pair = some pr → (∀ x ∈ g.pending, x.1 ≠ e) → entryCause t g (g.path e) = none →
        let fetched := fetchRun (updPath t gid e fun p => { p with entered := true }) g pr e (g.path e).pc
        (∀ u slots, fetched = (u, .ok slots) → findRun u core unit = none →
          issuerInstr (issuerFetch s) = (slots[0]?).map (·.2)) ∧
        ∀ u code marks addr, fetched = (u, .trap code marks addr) →
          issuerFetch s = raiseAt u gid e [⟨code, 0, (g.path e).pc, addr, (g.path e).exec, marks, 0, false⟩])) ∧
  (∀ (s : State) (g : Group) (pr : Pair) (entry : Nat) (head : Dword),
    let r := gatherRun s g.core g.ctx head
    let rs := r.2.1
    let ended := r.2.2.1
    (∀ e a, r.2.2.2 = some (e, a) →
      (fetchRun s g pr entry head).2 = .trap e.code e.marks (if e.code = 0x0F then a else pcLine a)) ∧
    (r.2.2.2 = none →
      let found (n : Nat) : Bool := rs.any fun x => classify r.1 g pr x.word == some n
      let parity := rs.all parityOk
      let reserved := rs.all fun x => lineWord x.line % 2 ^ 18 == 0
      let paired := pairingOk false rs
      let legal := parity && reserved && paired && structureOk (g.stream == .access) rs && !found 0x01
      let qdiv := ((runParts (decodeSlots rs)).any fun x => portsNamed x.2.1 x.2.2.1 x.2.2.2 != []) && entry != 0
      (fetchRun s g pr entry head).2 =
        if legal = false then
          .trap 0x01 ((if parity then 0 else 2 ^ 8) + (if reserved then 0 else 2 ^ 10) + (if paired then 0 else 2 ^ 9))
            (((rs.find? fun x => !parityOk x).map (·.pc)).getD 0)
        else if found 0x02 then .trap 0x02 0 0
        else if found 0x0C then .trap 0x0C 0 0
        else if ended = false then .trap 0x04 0 0
        else if qdiv then .trap 0x05 0 0
        else .ok (decodeSlots rs))) ∧
  ∀ (s : State) (g : Group) (pr : Pair) (entry : Nat) (head : Dword) (u : State) (slots : List (Dword × Instr)),
    fetchRun s g pr entry head = (u, .ok slots) →
      let rs := (gatherRun s g.core g.ctx head).2.1
      slots.length = rs.length ∧
      (∀ (k : Nat) (r : RawSlot), rs[k]? = some r → ∃ i, decode r.word = .ok i ∧ slots[k]? = some (r.pc, i) ∧
        r.word = slotWord r.line (r.pc.extractLsb' 0 3).toNat) ∧
      ∀ v d, fetchLine s g.core g.ctx (pcLine head) = .ok (v, d) → (gather s g.core g.ctx 24 head).2.1.all parityOk = true →
        (rs[0]?).map (fun r => (r.pc, r.word)) = some (head, slotWord d (head.extractLsb' 0 3).toNat)

/-- R190, R196 to R206, R217 to R228: words written bit by bit from the encoding tables decode to the instructions that they stand for.
-/
def Obligations.EncodedWordsDecode : Prop :=
  decode (BitVec.ofNat 96 0x0102F0000000000091A00000) = .ok (.trap ⟨⟨true, ⟨false, 15⟩, ⟨0, false, 0⟩, .vec 0⟩, .vec 0, .vec 0, 4660, 0⟩) ∧
  decode (BitVec.ofNat 96 0x2002F0180181A00000000040) = .ok (.vadd ⟨⟨true, ⟨false, 15⟩, ⟨0, false, 12⟩, .vec 3⟩, .vec 13, .vec 0, 0, 0, 4, 0⟩) ∧
  decode (BitVec.ofNat 96 0x20113B9000A05BD800000041) = .ok (.vmad ⟨⟨false, ⟨true, 3⟩, ⟨2, true, 200⟩, .vec 1⟩, .uni 2, .short 123, 0, 0, 4, 1⟩) ∧
  decode (BitVec.ofNat 96 0x6000F0120540000000900001) = .ok (.vaddI ⟨⟨false, ⟨false, 15⟩, ⟨0, false, 9⟩, .vec 10⟩, 2147483649, 4, 0, 1⟩) ∧
  decode (BitVec.ofNat 96 0x702CF010006F56DF77800001) = .ok (.smovI ⟨⟨false, ⟨false, 15⟩, ⟨0, false, 8⟩, .vec 0⟩, 3735928559, 0, 0, 1⟩) ∧
  decode (BitVec.ofNat 96 0x8000F1E081006002C563FFFC) = .ok (.ldv ⟨⟨false, ⟨false, 15⟩, ⟨0, false, 240⟩, .uni 2⟩, .vec 3, .vec 0, 5, 4, 1, 2, true, 2, 0, 262140⟩) ∧
  decode (BitVec.ofNat 96 0x8400F00C8100602081B00000) = .ok (.aadd ⟨⟨false, ⟨false, 15⟩, ⟨0, false, 6⟩, .uni 2⟩, .vec 3, .vec 4, 1, 0, 0, 3, false, 3, 0, 0⟩) ∧
  decode (BitVec.ofNat 96 0xC00B6000000000D000014800) = .ok (.bdiv ⟨⟨true, ⟨true, 6⟩, ⟨0, false, 0⟩, .vec 0⟩, 3, 2, 5, 1, 0, 0⟩) ∧
  decode (BitVec.ofNat 96 0xE000F00F80800007FF00FFFE) = .ok (.mload ⟨⟨false, ⟨false, 15⟩, ⟨0, false, 7⟩, .short 1⟩, .vec 0, .vec 0, 524032, 255, 63, 2⟩) ∧
  decode (BitVec.ofNat 96 0xE100F0060200C00294000001) = .ok (.mma ⟨⟨false, ⟨false, 15⟩, ⟨0, false, 3⟩, .vec 4⟩, .vec 6, .vec 0, 10, 10, 0, 1⟩)

/-- R196 to R206: for every well-formed word, decoding its encoding gives it back, with every operand at every value that the encoding
admits. -/
def Obligations.DecodeOfEncode : Prop :=
  ∀ i : Instr, i.isWord = true → i.wellFormed = true → decode (encode i) = .ok i

/-- R196 to R206: what decodes is a well-formed word, and its encoding is the word that was decoded: no bit of a word is dropped. -/
def Obligations.EncodeOfDecode : Prop :=
  ∀ (w : BitVec 96) (i : Instr), decode w = .ok i → i.isWord = true ∧ i.wellFormed = true ∧ encode i = w

/-! ### Registers, elements and predicates -/

/-- R58: P15 reads as all ones and ignores writes; a guard that names it leaves an instruction unguarded, or without effective lanes
when negated; effective lanes are EXEC and the guard, inverted when negated; and a vector result is written in the effective lanes
only, and in no register when no-write-back is set or the destination is a queue port. -/
def Obligations.PredicatesAndEffectiveLanes : Prop :=
  (∀ (g : Group) (m : Mask), g.pred 15 = BitVec.allOnes 64 ∧ g.setPred 15 m = g) ∧
  (∀ (sl : Slot), sl.eff ⟨false, 15⟩ = sl.p.exec ∧ sl.eff ⟨true, 15⟩ = 0 ∧
    ∀ n, sl.eff ⟨false, n⟩ = sl.p.exec &&& sl.g.pred n.toNat ∧ sl.eff ⟨true, n⟩ = sl.p.exec &&& ~~~(sl.g.pred n.toNat)) ∧
  ∀ (s : State) (sl : Slot) (d : Dst) (eff : Mask) (v : Lanes) (g : Group), findGroup s sl.g.gid = some g →
    ∃ u, findGroup (writeVec s sl d eff v) sl.g.gid = some u ∧
      ∀ n i, i < 64 → (u.vreg n).get i =
        if n = d.reg.toNat ∧ n < 240 ∧ n < g.vregs.length ∧ d.nwb = false ∧ eff.getLsbD i = true then v.get i else (g.vreg n).get i

/-- R250: VSEL is minor 0x0F of major 0x21, its source C is a predicate named with kind 0b00, and each effective lane takes a where the
bit of P[c] is set and b where it is clear. -/
def Obligations.SelectByPredicate : Prop :=
  (∀ (f : FmtA), (encode (.vsel f)).extractLsb' 88 8 = 0x21 ∧ (encode (.vsel f)).extractLsb' 82 6 = 0x0F ∧
    ((Instr.vsel f).wellFormed = true → ∃ n : BitVec 8, f.c = .vec n ∧ n.toNat < 16)) ∧
  ∀ (f : FmtA) (s : State) (sl : Slot) (n : BitVec 8), f.c = .vec n → Issues s sl (.vsel f) →
    ∃ v, exec (.vsel f) s = .next (after (.vsel f) sl (vecResult (.vsel f) f.toHead s sl v)) ∧
      ∀ i, i < 64 → v.get i = if (sl.g.pred n.toNat).getLsbD i then (sl.srcA f).get i else (sl.srcB f).get i

/-- R244, R245, R247: every element of an integer result is its operation on the same elements of the sources, and in a lane of 32 bits
nothing stands above them. An exact result wraps modulo 2^k; a saturated one is the value of the element's range nearest to it. -/
def Obligations.ElementResults : Prop :=
  (∀ (fmt : BitVec 5) (w : Nat) (op : Nat → Nat → Nat → Nat → Nat) (a b c : Lanes) (i j : Nat), (w = 32 ∨ w = 64) → i < 64 →
    j < elemCount fmt →
    let k := elemWidth fmt w
    bitsNat ((lanes3 fmt w op a b c).get i).toNat (k * j) k =
      op k (bitsNat (a.get i).toNat (k * j) k) (bitsNat (b.get i).toNat (k * j) k) (bitsNat (c.get i).toNat (k * j) k) % 2 ^ k ∧
    (w = 32 → ((lanes3 fmt w op a b c).get i).toNat < 2 ^ 32)) ∧
  ∀ (k : Nat) (signed : Bool) (z : Int), (k = 8 ∨ k = 16 ∨ k = 32 ∨ k = 64) →
    ((narrowInt k signed false z : Nat) : Int) = z % 2 ^ k ∧
    let lo : Int := if signed then -2 ^ (k - 1) else 0
    let hi : Int := if signed then 2 ^ (k - 1) - 1 else 2 ^ k - 1
    elemVal k signed (narrowInt k signed true z) = max lo (min hi z)

/-! ### Frames -/

/-- R29, R51, R58, R199: what a register word leaves unchanged. Outside its group nothing but the assay counters of its context and the
queues of its ports changes: every byte of memory and of scratchpad, every other group, pair and context reads as before. In its group
the registers and predicates that it names as destinations may change, and the PC and state of its path, and nothing else. -/
def Obligations.RegisterWordFrame : Prop :=
  ∀ (i : Instr) (s : State) (sl : Slot) (t : State), registerWord i = true → Issues s sl i → (sl.last = true → QuietEnd s sl) →
    exec i s = .next t →
    SameOutside s t ∧
    (∀ c, c ≠ sl.g.ctx → getCtx t c = getCtx s c) ∧
    (∃ counters mask, getCtx t sl.g.ctx = { getCtx s sl.g.ctx with counters := counters, satMask := mask }) ∧
    (∀ gid, gid ≠ sl.g.gid → findGroup t gid = findGroup s gid) ∧
    (∀ id, id ≠ sl.g.pair → findPair t id = findPair s id) ∧
    (wordPorts i = [] → t.exec.ops = s.exec.ops ∧ (pushedPort i = none → findPair t sl.g.pair = findPair s sl.g.pair)) ∧
    ∃ u, findGroup t sl.g.gid = some u ∧ SameGroup sl.g u ∧
      (∀ n, n ∉ vectorDests i → u.vreg n = sl.g.vreg n) ∧ (∀ n, n ∉ uniformDests i → u.sreg n = sl.g.sreg n) ∧
      (∀ n, n ∉ predicateDests i → u.pred n = sl.g.pred n) ∧
      (∀ e, e ≠ sl.run.entry → u.path e = sl.g.path e) ∧ SamePath sl.p (u.path sl.run.entry)

/-- R29, R51: the end of a run at which nothing else is due gives up the unit's run and moves the path's PC to the next head: nothing
else changes. -/
def Obligations.EndOfRunFrame : Prop :=
  ∀ (s : State) (sl : Slot) (next : Dword), currentSlot s = some sl → QuietEnd s sl →
    let t := finishRun s sl next
    SameOutside s t ∧ t.ctxs = s.ctxs ∧ t.exec.pairs = s.exec.pairs ∧ t.exec.ops = s.exec.ops ∧
    (∀ gid, gid ≠ sl.g.gid → findGroup t gid = findGroup s gid) ∧
    (∀ core unit, (core, unit) ≠ (sl.run.core, sl.run.unit) → findRun t core unit = findRun s core unit) ∧
    findRun t sl.run.core sl.run.unit = none ∧
    ∃ u, findGroup t sl.g.gid = some u ∧ SameGroup sl.g u ∧ u.vregs = sl.g.vregs ∧ u.sregs = sl.g.sregs ∧ u.preds = sl.g.preds ∧
      (∀ e, e ≠ sl.run.entry → u.path e = sl.g.path e) ∧ SamePath sl.p (u.path sl.run.entry) ∧
      (sl.run.entry < sl.g.paths.length → (u.path sl.run.entry).pc = next ∧ (u.path sl.run.entry).st = .ready)

/-- R99, R111, R112, R280, R287: the issue of a global load, store or atomic changes no byte of memory or scratchpad, no register and no
predicate: its effect comes when its access is performed, and when its data lands. Only ST leaves something at its issue: bytes of its
lanes in Shared lines of its own core's L1 stay pending there, where its group alone can read them.
What the rules leave open here rests on log entries 27 and 37. -/
def Obligations.GlobalAccessIssueFrame : Prop :=
  ∀ e ∈ [Instr.ldv, .ldp, .grld, .pfetch, .st, .stq, .aadd, .asub, .aand, .aor, .axor, .amin, .amax, .aminu, .amaxu, .axchg, .acas, .fadd],
    ∀ (f : FmtM) (s : State) (sl : Slot) (t : State), Issues s sl (e f) → sl.last = false → exec (e f) s = .next t →
      SameMemory s t ∧ t.memory = { s.memory with pending := t.memory.pending } ∧
      (e f = .st f ∨ t.memory = s.memory) ∧ t.exec.allocs = s.exec.allocs ∧ t.exec.presses = s.exec.presses ∧ t.mysko = s.mysko ∧
      (∀ gid, gid ≠ sl.g.gid → findGroup t gid = findGroup s gid) ∧
      ∃ u, findGroup t sl.g.gid = some u ∧
        u.vregs = sl.g.vregs ∧ u.sregs = sl.g.sregs ∧ u.preds = sl.g.preds ∧ u.trap = sl.g.trap ∧ u.sup = sl.g.sup ∧
        u.paths = sl.g.paths

/-- R88, R94, R98, R99, R111, R280: an access of a store performed at a home slice that holds the line writable changes the bytes only
that the access stores: every other byte of physical memory reads as before, through L2 and behind it, and the stored ones hold the
lane's data. Bytes that a higher lane of the store writes too are left to it. Access `x / 64` of lane `x % 64` is the one that the event
names, and `u` is its address and its length.
What the rules leave open here rests on log entry 36. -/
def Obligations.StorePerformedFrame : Prop :=
  ∀ (s : State) (op x w : Nat) (o : Op) (u : Nat × Dword × Nat) (l : L2Line), findOp s op = some o → o.kind = .store w →
    (o.unitsLeft (x % 64)).find? (fun u => u.1 == x / 64) = some u → unitReady s o (x % 64) u.2 = true →
    lineHolder s o u.2.1 = none → o.from_ = s.fabric.index →
    let off := vaOffset u.2.1
    let kept := o.keptBytes (2 ^ w) (x % 64) u.2
    vaOk s o.ctx u.2.1 = true → vaLocal s u.2.1 = true → off % 128 + u.2.2 ≤ 128 → l2Find s o.ctx off = some l →
    l.w = true → l.data.length = 128 →
    (∀ y ∈ s.memory.l2, y.table = false → y.tag = l.tag → y.line = l.line → y = l) → (∀ y ∈ s.memory.l2, y.frame = l.frame → y = l) →
    ∃ t, exec (.homeSliceAccess op x) s = .next t ∧
      (∀ p, (∀ y ∈ kept, p ≠ 128 * l.frame + off % 128 + y.1) → physByte t p = physByte s p) ∧
      (∀ y ∈ kept, physByte t (128 * l.frame + off % 128 + y.1) = y.2) ∧
      (∀ y ∈ kept, y.1 < u.2.2 ∧ y.2 = BitVec.ofNat 8 ((o.data.get (x % 64)).toNat /
        256 ^ ((u.2.1 - o.addrs.get (x % 64)).toNat + y.1))) ∧
      t.exec.allocs = s.exec.allocs ∧ (∀ gid, ∀ g, findGroup s gid = some g → ∃ u, findGroup t gid = some u ∧
        u.vregs = g.vregs ∧ u.sregs = g.sregs ∧ u.preds = g.preds ∧ u.paths = g.paths ∧ u.trap = g.trap)

/-- R77, R79, R82, R98, R99, R284: the issue of a store to scratchpad or cluster memory changes no byte; an access of it, performed at
its bank, changes the bytes at its own places only, under its swizzle mode: every other byte of every allocation, and every byte of
memory, reads as before. Access `x / 64` of lane `x % 64` is the one that the event names, and `u` is its address and its length. -/
def Obligations.ScratchpadStoreFrame : Prop :=
  (∀ e ∈ [Instr.sts, .stcl], ∀ (f : FmtM) (s : State) (sl : Slot) (t : State), Issues s sl (e f) → sl.last = false →
    exec (e f) s = .next t →
    SameMemory s t ∧ t.memory = s.memory ∧ t.exec.allocs = s.exec.allocs ∧
    (∀ gid, ∀ g, findGroup s gid = some g → ∃ u, findGroup t gid = some u ∧
      u.vregs = g.vregs ∧ u.sregs = g.sregs ∧ u.preds = g.preds ∧ u.trap = g.trap)) ∧
  ∀ (s : State) (op x mode n k off : Nat) (cl : Bool) (own : PlaceSrc) (o : Op) (u : Nat × Dword × Nat), findOp s op = some o →
    o.kind = .spadStore cl mode n → (o.unitsLeft (x % 64)).find? (fun u => u.1 == x / 64) = some u →
    unitReady s o (x % 64) u.2 = true → o.spadAt s u.2 = some (k, own, off) →
    ∃ t, exec (.homeSliceAccess op x) s = .next t ∧ SameMemory s t ∧ t.memory = s.memory ∧
      (∀ core y a, findAlloc s core y = some a → ∃ b, findAlloc t core y = some b ∧ b.base = a.base ∧ b.size = a.size ∧
        ∀ p, (core ≠ k ∨ y ≠ own ∨ ∀ z ∈ o.keptBytes n (x % 64) u.2, p ≠ swizzle mode (off + z.1)) → b.read p = a.read p) ∧
      (∀ gid, ∀ g, findGroup s gid = some g → ∃ v, findGroup t gid = some v ∧
        v.vregs = g.vregs ∧ v.sregs = g.sregs ∧ v.preds = g.preds ∧ v.trap = g.trap)

/-! ### Memory -/

/-- The model's memory (log entries 2 and 4): a byte reads back what was written, every other byte keeps its value, and two memories in
canonical form that read alike are equal. -/
def Obligations.MemoryReadsBackWrites : Prop :=
  ∀ (e : Nat) (m n : List Host.Cell), Memory.wf e m → Memory.wf e n →
    (∀ a b, Memory.read e (Memory.write e m a b) a = b ∧ ∀ x, x ≠ a → Memory.read e (Memory.write e m a b) x = Memory.read e m x) ∧
    ((∀ a, Memory.read e m a = Memory.read e n a) → m = n)

/-- The canonical form of memory is kept by every step (log entries 2 and 4). -/
def Obligations.StepKeepsMemoryCanonical : Prop :=
  ∀ (s t : State), MemoryCanonical s → step s = .next t → MemoryCanonical t

/-- R422, R424, R426: after power-on the machine is in Boot, with nothing in memory, no context, no group and no domain, and its memory
is in canonical form.
What the rules leave open here rests on log entries 2, 8 and 11. -/
def Obligations.ResetState : Prop :=
  MemoryCanonical State.reset ∧ State.reset.mysko.phase = .boot ∧ State.reset.tick = 0 ∧ State.reset.mem = [] ∧
  (∀ c, c < 16 → (getCtx State.reset c).st = .absent ∧ (getCtx State.reset c).created = false) ∧
  (∀ k, k < 160 → (getCore State.reset k).owner = none ∧ (getCore State.reset k).num = k) ∧
  State.reset.exec.groups = [] ∧ State.reset.exec.runs = [] ∧ State.reset.exec.ops = [] ∧ State.reset.fabric.formed = false ∧
  State.reset.fabric.index = 0 ∧ State.reset.mysko.events = 0 ∧ State.reset.mysko.q = 163840

/-! ### Traps and the clock -/

/-- R51, R339, R342, R343, R420: taking a trap. The path goes on at the handler's entry in supervisor state with EXEC as R51 sets it;
TREPC, TREXEC, TRADDR, TRLANES and TRCAUSE hold the saved PC, the path's EXEC, the cause's address and lanes and its code, class and
marks; MAPST and the group's registers are as before.
What the rules leave open here rests on log entries 43 and 81. -/
def Obligations.TrapEntry : Prop :=
  ∀ (s : State) (gid e : Nat) (c : Cause) (cs : List Cause) (saved : Dword) (g : Group) (u : State) (d : List Byte),
    findGroup s gid = some g → g.sup ≠ some e → e < g.paths.length → c.cls ≠ 2 →
    let h := handlerEntry s g.ctx g.stream
    h ≠ 0 → pcOk h = true → fetchLine s g.core g.ctx (pcLine h) = .ok (u, d) → targetMarked d h = true →
    ∃ k, findGroup (takeTrap s gid e (c :: cs) saved) gid = some k ∧ k.sup = some e ∧
      (k.path e).pc = h ∧ (k.path e).st = .ready ∧ (k.path e).lanes = (g.path e).lanes ∧ (k.path e).stack = (g.path e).stack ∧
      (k.path e).exec = (if c.lanewise then c.lanes &&& (g.path e).lanes else (g.path e).exec) ∧
      k.trap.epc = saved ∧ k.trap.exec = (g.path e).exec ∧ k.trap.addr = c.addr ∧ k.trap.lanes = c.lanes ∧ k.trap.mapst = g.trap.mapst ∧
      (c.code < 2 ^ 8 → c.cls < 4 → k.trap.cause.extractLsb' 0 8 = BitVec.ofNat 8 c.code ∧
        k.trap.cause.extractLsb' 8 2 = BitVec.ofNat 2 c.cls ∧ k.trap.cause.getLsbD 31 = !cs.isEmpty) ∧
      (c.cls = 1 → k.trap.pc0 = c.pc ∧ k.trap.pc1 = ((cs[0]?).map (·.pc)).getD 0) ∧
      k.vregs = g.vregs ∧ k.sregs = g.sregs ∧ k.preds = g.preds ∧ (∀ x, x ≠ e → k.path x = g.path x)

/-- R344: the return from the handler. The path's EXEC is TREXEC within its lane set, its PC is TREPC, supervisor state ends, and the
trap registers and the group's other registers keep their values.
What the rules leave open here rests on log entries 21 and 75. -/
def Obligations.TrapReturn : Prop :=
  ∀ (s : State) (gid e : Nat) (g : Group), findGroup s gid = some g → e < g.paths.length →
    ∃ k, findGroup (returnFromTrap s gid e) gid = some k ∧ k.sup = none ∧ (k.path e).pc = g.trap.epc ∧
      (k.path e).exec = g.trap.exec &&& (g.path e).lanes ∧ (k.path e).lanes = (g.path e).lanes ∧ (k.path e).stack = (g.path e).stack ∧
      k.trap = g.trap ∧ k.vregs = g.vregs ∧ k.sregs = g.sregs ∧ k.preds = g.preds ∧ ∀ x, x ≠ e → k.path x = g.path x

/-- R16, R430: once a thermal trip has stopped the clock, a step faults where the agenda asks for a word or an event of the cores, Ladles,
slices or Crucibles, which that clock moves; and nothing else makes a step fault.
What the rules leave open here rests on log entry 68. -/
def Obligations.OnlyAStoppedClockFaults : Prop :=
  ∀ (s : State),
    (∀ i rest, s.mysko.stopped = true → s.agenda = i :: rest → needsClock i = true → step s = .fault .clockStopped) ∧
    ∀ x, step s = .fault x → s.mysko.stopped = true ∧ ∃ i rest, s.agenda = i :: rest ∧ needsClock i = true

/-! ### The Press -/

/-- R318: MZERO sets every element of its accumulator to +0, and no other accumulator or tile. -/
def Obligations.MzeroClearsItsAccumulator : Prop :=
  ∀ (s : State) (f : FmtXA) (c : PressCmd) (p : PressCtx) (co : Cohort), c.what = .mzero f →
    findPress s p.core p.num = some p → f.dst.reg.toNat < p.accs.length →
    (s.exec.presses.find? fun p => p.cmds.any fun x => x.id == c.id) = some p → p.cmds.find? (fun x => x.id == c.id) = some c →
    findCohort s p.cohort = some co → (s.exec.score.find? fun e => e.id == c.id) = none → (p.cmds.head?.map (·.id)) = some c.id →
    ∃ t q, exec (.pressCommandFinish c.id) s = .next t ∧ findPress t p.core p.num = some q ∧
      q.accs[f.dst.reg.toNat]? = some (List.replicate 4096 0) ∧ (∀ n, n ≠ f.dst.reg.toNat → q.accs[n]? = p.accs[n]?) ∧
      q.tiles = p.tiles
end

