-- ==== Sys2Proof/Laws/State.lean ====
section
/-!
SUPPORT. One law per field and update of the state: the field an update writes, and every field that it leaves. No later proof
unfolds a record update.
-/

namespace Sys2Proof.Machine

/-! ### The parts of the state -/

@[simp] theorem State.onExec_mem (s : State) (f : Exec → Exec) : (s.onExec f).mem = s.mem := rfl
@[simp] theorem State.onExec_tick (s : State) (f : Exec → Exec) : (s.onExec f).tick = s.tick := rfl
@[simp] theorem State.onExec_issuer (s : State) (f : Exec → Exec) : (s.onExec f).issuer = s.issuer := rfl
@[simp] theorem State.onExec_agenda (s : State) (f : Exec → Exec) : (s.onExec f).agenda = s.agenda := rfl
@[simp] theorem State.onExec_turn (s : State) (f : Exec → Exec) : (s.onExec f).turn = s.turn := rfl
@[simp] theorem State.onExec_mysko (s : State) (f : Exec → Exec) : (s.onExec f).mysko = s.mysko := rfl
@[simp] theorem State.onExec_fabric (s : State) (f : Exec → Exec) : (s.onExec f).fabric = s.fabric := rfl
@[simp] theorem State.onExec_host (s : State) (f : Exec → Exec) : (s.onExec f).host = s.host := rfl
@[simp] theorem State.onExec_memory (s : State) (f : Exec → Exec) : (s.onExec f).memory = s.memory := rfl
@[simp] theorem State.onExec_exec (s : State) (f : Exec → Exec) : (s.onExec f).exec = f s.exec := rfl
@[simp] theorem State.onExec_ctxs (s : State) (f : Exec → Exec) : (s.onExec f).ctxs = s.ctxs := rfl
@[simp] theorem State.onExec_cores (s : State) (f : Exec → Exec) : (s.onExec f).cores = s.cores := rfl
@[simp] theorem State.onMysko_mem (s : State) (f : Mysko → Mysko) : (s.onMysko f).mem = s.mem := rfl
@[simp] theorem State.onMysko_tick (s : State) (f : Mysko → Mysko) : (s.onMysko f).tick = s.tick := rfl
@[simp] theorem State.onMysko_issuer (s : State) (f : Mysko → Mysko) : (s.onMysko f).issuer = s.issuer := rfl
@[simp] theorem State.onMysko_agenda (s : State) (f : Mysko → Mysko) : (s.onMysko f).agenda = s.agenda := rfl
@[simp] theorem State.onMysko_turn (s : State) (f : Mysko → Mysko) : (s.onMysko f).turn = s.turn := rfl
@[simp] theorem State.onMysko_mysko (s : State) (f : Mysko → Mysko) : (s.onMysko f).mysko = f s.mysko := rfl
@[simp] theorem State.onMysko_fabric (s : State) (f : Mysko → Mysko) : (s.onMysko f).fabric = s.fabric := rfl
@[simp] theorem State.onMysko_host (s : State) (f : Mysko → Mysko) : (s.onMysko f).host = s.host := rfl
@[simp] theorem State.onMysko_memory (s : State) (f : Mysko → Mysko) : (s.onMysko f).memory = s.memory := rfl
@[simp] theorem State.onMysko_exec (s : State) (f : Mysko → Mysko) : (s.onMysko f).exec = s.exec := rfl
@[simp] theorem State.onMysko_ctxs (s : State) (f : Mysko → Mysko) : (s.onMysko f).ctxs = s.ctxs := rfl
@[simp] theorem State.onMysko_cores (s : State) (f : Mysko → Mysko) : (s.onMysko f).cores = s.cores := rfl
@[simp] theorem State.onFabric_mem (s : State) (f : Fabric → Fabric) : (s.onFabric f).mem = s.mem := rfl
@[simp] theorem State.onFabric_tick (s : State) (f : Fabric → Fabric) : (s.onFabric f).tick = s.tick := rfl
@[simp] theorem State.onFabric_issuer (s : State) (f : Fabric → Fabric) : (s.onFabric f).issuer = s.issuer := rfl
@[simp] theorem State.onFabric_agenda (s : State) (f : Fabric → Fabric) : (s.onFabric f).agenda = s.agenda := rfl
@[simp] theorem State.onFabric_turn (s : State) (f : Fabric → Fabric) : (s.onFabric f).turn = s.turn := rfl
@[simp] theorem State.onFabric_mysko (s : State) (f : Fabric → Fabric) : (s.onFabric f).mysko = s.mysko := rfl
@[simp] theorem State.onFabric_fabric (s : State) (f : Fabric → Fabric) : (s.onFabric f).fabric = f s.fabric := rfl
@[simp] theorem State.onFabric_host (s : State) (f : Fabric → Fabric) : (s.onFabric f).host = s.host := rfl
@[simp] theorem State.onFabric_memory (s : State) (f : Fabric → Fabric) : (s.onFabric f).memory = s.memory := rfl
@[simp] theorem State.onFabric_exec (s : State) (f : Fabric → Fabric) : (s.onFabric f).exec = s.exec := rfl
@[simp] theorem State.onFabric_ctxs (s : State) (f : Fabric → Fabric) : (s.onFabric f).ctxs = s.ctxs := rfl
@[simp] theorem State.onFabric_cores (s : State) (f : Fabric → Fabric) : (s.onFabric f).cores = s.cores := rfl
@[simp] theorem State.onHost_mem (s : State) (f : HostSide → HostSide) : (s.onHost f).mem = s.mem := rfl
@[simp] theorem State.onHost_tick (s : State) (f : HostSide → HostSide) : (s.onHost f).tick = s.tick := rfl
@[simp] theorem State.onHost_issuer (s : State) (f : HostSide → HostSide) : (s.onHost f).issuer = s.issuer := rfl
@[simp] theorem State.onHost_agenda (s : State) (f : HostSide → HostSide) : (s.onHost f).agenda = s.agenda := rfl
@[simp] theorem State.onHost_turn (s : State) (f : HostSide → HostSide) : (s.onHost f).turn = s.turn := rfl
@[simp] theorem State.onHost_mysko (s : State) (f : HostSide → HostSide) : (s.onHost f).mysko = s.mysko := rfl
@[simp] theorem State.onHost_fabric (s : State) (f : HostSide → HostSide) : (s.onHost f).fabric = s.fabric := rfl
@[simp] theorem State.onHost_host (s : State) (f : HostSide → HostSide) : (s.onHost f).host = f s.host := rfl
@[simp] theorem State.onHost_memory (s : State) (f : HostSide → HostSide) : (s.onHost f).memory = s.memory := rfl
@[simp] theorem State.onHost_exec (s : State) (f : HostSide → HostSide) : (s.onHost f).exec = s.exec := rfl
@[simp] theorem State.onHost_ctxs (s : State) (f : HostSide → HostSide) : (s.onHost f).ctxs = s.ctxs := rfl
@[simp] theorem State.onHost_cores (s : State) (f : HostSide → HostSide) : (s.onHost f).cores = s.cores := rfl
@[simp] theorem State.onMemory_mem (s : State) (f : MemSide → MemSide) : (s.onMemory f).mem = s.mem := rfl
@[simp] theorem State.onMemory_tick (s : State) (f : MemSide → MemSide) : (s.onMemory f).tick = s.tick := rfl
@[simp] theorem State.onMemory_issuer (s : State) (f : MemSide → MemSide) : (s.onMemory f).issuer = s.issuer := rfl
@[simp] theorem State.onMemory_agenda (s : State) (f : MemSide → MemSide) : (s.onMemory f).agenda = s.agenda := rfl
@[simp] theorem State.onMemory_turn (s : State) (f : MemSide → MemSide) : (s.onMemory f).turn = s.turn := rfl
@[simp] theorem State.onMemory_mysko (s : State) (f : MemSide → MemSide) : (s.onMemory f).mysko = s.mysko := rfl
@[simp] theorem State.onMemory_fabric (s : State) (f : MemSide → MemSide) : (s.onMemory f).fabric = s.fabric := rfl
@[simp] theorem State.onMemory_host (s : State) (f : MemSide → MemSide) : (s.onMemory f).host = s.host := rfl
@[simp] theorem State.onMemory_memory (s : State) (f : MemSide → MemSide) : (s.onMemory f).memory = f s.memory := rfl
@[simp] theorem State.onMemory_exec (s : State) (f : MemSide → MemSide) : (s.onMemory f).exec = s.exec := rfl
@[simp] theorem State.onMemory_ctxs (s : State) (f : MemSide → MemSide) : (s.onMemory f).ctxs = s.ctxs := rfl
@[simp] theorem State.onMemory_cores (s : State) (f : MemSide → MemSide) : (s.onMemory f).cores = s.cores := rfl

/-! ### The records of the execution side -/

@[simp] theorem updGroup_mem (s : State) (gid : Nat) (f : Group → Group) : (updGroup s gid f).mem = s.mem := rfl
@[simp] theorem updGroup_tick (s : State) (gid : Nat) (f : Group → Group) : (updGroup s gid f).tick = s.tick := rfl
@[simp] theorem updGroup_issuer (s : State) (gid : Nat) (f : Group → Group) : (updGroup s gid f).issuer = s.issuer := rfl
@[simp] theorem updGroup_agenda (s : State) (gid : Nat) (f : Group → Group) : (updGroup s gid f).agenda = s.agenda := rfl
@[simp] theorem updGroup_turn (s : State) (gid : Nat) (f : Group → Group) : (updGroup s gid f).turn = s.turn := rfl
@[simp] theorem updGroup_mysko (s : State) (gid : Nat) (f : Group → Group) : (updGroup s gid f).mysko = s.mysko := rfl
@[simp] theorem updGroup_fabric (s : State) (gid : Nat) (f : Group → Group) : (updGroup s gid f).fabric = s.fabric := rfl
@[simp] theorem updGroup_host (s : State) (gid : Nat) (f : Group → Group) : (updGroup s gid f).host = s.host := rfl
@[simp] theorem updGroup_memory (s : State) (gid : Nat) (f : Group → Group) : (updGroup s gid f).memory = s.memory := rfl
@[simp] theorem updGroup_ctxs (s : State) (gid : Nat) (f : Group → Group) : (updGroup s gid f).ctxs = s.ctxs := rfl
@[simp] theorem updGroup_cores (s : State) (gid : Nat) (f : Group → Group) : (updGroup s gid f).cores = s.cores := rfl
theorem updGroup_groups (s : State) (gid : Nat) (f : Group → Group) :
    (updGroup s gid f).exec.groups = s.exec.groups.map fun g => if g.gid == gid then f g else g := rfl
@[simp] theorem updGroup_pairs (s : State) (gid : Nat) (f : Group → Group) : (updGroup s gid f).exec.pairs = s.exec.pairs := rfl
@[simp] theorem updGroup_cohorts (s : State) (gid : Nat) (f : Group → Group) : (updGroup s gid f).exec.cohorts = s.exec.cohorts := rfl
@[simp] theorem updGroup_presses (s : State) (gid : Nat) (f : Group → Group) : (updGroup s gid f).exec.presses = s.exec.presses := rfl
@[simp] theorem updGroup_allocs (s : State) (gid : Nat) (f : Group → Group) : (updGroup s gid f).exec.allocs = s.exec.allocs := rfl
@[simp] theorem updGroup_runs (s : State) (gid : Nat) (f : Group → Group) : (updGroup s gid f).exec.runs = s.exec.runs := rfl
@[simp] theorem updGroup_scheds (s : State) (gid : Nat) (f : Group → Group) : (updGroup s gid f).exec.scheds = s.exec.scheds := rfl
@[simp] theorem updGroup_ops (s : State) (gid : Nat) (f : Group → Group) : (updGroup s gid f).exec.ops = s.exec.ops := rfl
@[simp] theorem updGroup_winAcc (s : State) (gid : Nat) (f : Group → Group) : (updGroup s gid f).exec.winAcc = s.exec.winAcc := rfl
@[simp] theorem updGroup_score (s : State) (gid : Nat) (f : Group → Group) : (updGroup s gid f).exec.score = s.exec.score := rfl
@[simp] theorem updGroup_circles (s : State) (gid : Nat) (f : Group → Group) : (updGroup s gid f).exec.circles = s.exec.circles := rfl
@[simp] theorem updGroup_sigdecs (s : State) (gid : Nat) (f : Group → Group) : (updGroup s gid f).exec.sigdecs = s.exec.sigdecs := rfl
@[simp] theorem updGroup_launches (s : State) (gid : Nat) (f : Group → Group) : (updGroup s gid f).exec.launches = s.exec.launches := rfl
@[simp] theorem updGroup_seq (s : State) (gid : Nat) (f : Group → Group) : (updGroup s gid f).exec.seq = s.exec.seq := rfl
@[simp] theorem updPair_mem (s : State) (id : Nat) (f : Pair → Pair) : (updPair s id f).mem = s.mem := rfl
@[simp] theorem updPair_tick (s : State) (id : Nat) (f : Pair → Pair) : (updPair s id f).tick = s.tick := rfl
@[simp] theorem updPair_issuer (s : State) (id : Nat) (f : Pair → Pair) : (updPair s id f).issuer = s.issuer := rfl
@[simp] theorem updPair_agenda (s : State) (id : Nat) (f : Pair → Pair) : (updPair s id f).agenda = s.agenda := rfl
@[simp] theorem updPair_turn (s : State) (id : Nat) (f : Pair → Pair) : (updPair s id f).turn = s.turn := rfl
@[simp] theorem updPair_mysko (s : State) (id : Nat) (f : Pair → Pair) : (updPair s id f).mysko = s.mysko := rfl
@[simp] theorem updPair_fabric (s : State) (id : Nat) (f : Pair → Pair) : (updPair s id f).fabric = s.fabric := rfl
@[simp] theorem updPair_host (s : State) (id : Nat) (f : Pair → Pair) : (updPair s id f).host = s.host := rfl
@[simp] theorem updPair_memory (s : State) (id : Nat) (f : Pair → Pair) : (updPair s id f).memory = s.memory := rfl
@[simp] theorem updPair_ctxs (s : State) (id : Nat) (f : Pair → Pair) : (updPair s id f).ctxs = s.ctxs := rfl
@[simp] theorem updPair_cores (s : State) (id : Nat) (f : Pair → Pair) : (updPair s id f).cores = s.cores := rfl
@[simp] theorem updPair_groups (s : State) (id : Nat) (f : Pair → Pair) : (updPair s id f).exec.groups = s.exec.groups := rfl
theorem updPair_pairs (s : State) (id : Nat) (f : Pair → Pair) :
    (updPair s id f).exec.pairs = s.exec.pairs.map fun p => if p.id == id then f p else p := rfl
@[simp] theorem updPair_cohorts (s : State) (id : Nat) (f : Pair → Pair) : (updPair s id f).exec.cohorts = s.exec.cohorts := rfl
@[simp] theorem updPair_presses (s : State) (id : Nat) (f : Pair → Pair) : (updPair s id f).exec.presses = s.exec.presses := rfl
@[simp] theorem updPair_allocs (s : State) (id : Nat) (f : Pair → Pair) : (updPair s id f).exec.allocs = s.exec.allocs := rfl
@[simp] theorem updPair_runs (s : State) (id : Nat) (f : Pair → Pair) : (updPair s id f).exec.runs = s.exec.runs := rfl
@[simp] theorem updPair_scheds (s : State) (id : Nat) (f : Pair → Pair) : (updPair s id f).exec.scheds = s.exec.scheds := rfl
@[simp] theorem updPair_ops (s : State) (id : Nat) (f : Pair → Pair) : (updPair s id f).exec.ops = s.exec.ops := rfl
@[simp] theorem updPair_winAcc (s : State) (id : Nat) (f : Pair → Pair) : (updPair s id f).exec.winAcc = s.exec.winAcc := rfl
@[simp] theorem updPair_score (s : State) (id : Nat) (f : Pair → Pair) : (updPair s id f).exec.score = s.exec.score := rfl
@[simp] theorem updPair_circles (s : State) (id : Nat) (f : Pair → Pair) : (updPair s id f).exec.circles = s.exec.circles := rfl
@[simp] theorem updPair_sigdecs (s : State) (id : Nat) (f : Pair → Pair) : (updPair s id f).exec.sigdecs = s.exec.sigdecs := rfl
@[simp] theorem updPair_launches (s : State) (id : Nat) (f : Pair → Pair) : (updPair s id f).exec.launches = s.exec.launches := rfl
@[simp] theorem updPair_seq (s : State) (id : Nat) (f : Pair → Pair) : (updPair s id f).exec.seq = s.exec.seq := rfl
@[simp] theorem updCohort_mem (s : State) (id : Nat) (f : Cohort → Cohort) : (updCohort s id f).mem = s.mem := rfl
@[simp] theorem updCohort_tick (s : State) (id : Nat) (f : Cohort → Cohort) : (updCohort s id f).tick = s.tick := rfl
@[simp] theorem updCohort_issuer (s : State) (id : Nat) (f : Cohort → Cohort) : (updCohort s id f).issuer = s.issuer := rfl
@[simp] theorem updCohort_agenda (s : State) (id : Nat) (f : Cohort → Cohort) : (updCohort s id f).agenda = s.agenda := rfl
@[simp] theorem updCohort_turn (s : State) (id : Nat) (f : Cohort → Cohort) : (updCohort s id f).turn = s.turn := rfl
@[simp] theorem updCohort_mysko (s : State) (id : Nat) (f : Cohort → Cohort) : (updCohort s id f).mysko = s.mysko := rfl
@[simp] theorem updCohort_fabric (s : State) (id : Nat) (f : Cohort → Cohort) : (updCohort s id f).fabric = s.fabric := rfl
@[simp] theorem updCohort_host (s : State) (id : Nat) (f : Cohort → Cohort) : (updCohort s id f).host = s.host := rfl
@[simp] theorem updCohort_memory (s : State) (id : Nat) (f : Cohort → Cohort) : (updCohort s id f).memory = s.memory := rfl
@[simp] theorem updCohort_ctxs (s : State) (id : Nat) (f : Cohort → Cohort) : (updCohort s id f).ctxs = s.ctxs := rfl
@[simp] theorem updCohort_cores (s : State) (id : Nat) (f : Cohort → Cohort) : (updCohort s id f).cores = s.cores := rfl
@[simp] theorem updCohort_groups (s : State) (id : Nat) (f : Cohort → Cohort) : (updCohort s id f).exec.groups = s.exec.groups := rfl
@[simp] theorem updCohort_pairs (s : State) (id : Nat) (f : Cohort → Cohort) : (updCohort s id f).exec.pairs = s.exec.pairs := rfl
theorem updCohort_cohorts (s : State) (id : Nat) (f : Cohort → Cohort) :
    (updCohort s id f).exec.cohorts = s.exec.cohorts.map fun p => if p.id == id then f p else p := rfl
@[simp] theorem updCohort_presses (s : State) (id : Nat) (f : Cohort → Cohort) : (updCohort s id f).exec.presses = s.exec.presses := rfl
@[simp] theorem updCohort_allocs (s : State) (id : Nat) (f : Cohort → Cohort) : (updCohort s id f).exec.allocs = s.exec.allocs := rfl
@[simp] theorem updCohort_runs (s : State) (id : Nat) (f : Cohort → Cohort) : (updCohort s id f).exec.runs = s.exec.runs := rfl
@[simp] theorem updCohort_scheds (s : State) (id : Nat) (f : Cohort → Cohort) : (updCohort s id f).exec.scheds = s.exec.scheds := rfl
@[simp] theorem updCohort_ops (s : State) (id : Nat) (f : Cohort → Cohort) : (updCohort s id f).exec.ops = s.exec.ops := rfl
@[simp] theorem updCohort_winAcc (s : State) (id : Nat) (f : Cohort → Cohort) : (updCohort s id f).exec.winAcc = s.exec.winAcc := rfl
@[simp] theorem updCohort_score (s : State) (id : Nat) (f : Cohort → Cohort) : (updCohort s id f).exec.score = s.exec.score := rfl
@[simp] theorem updCohort_circles (s : State) (id : Nat) (f : Cohort → Cohort) : (updCohort s id f).exec.circles = s.exec.circles := rfl
@[simp] theorem updCohort_sigdecs (s : State) (id : Nat) (f : Cohort → Cohort) : (updCohort s id f).exec.sigdecs = s.exec.sigdecs := rfl
@[simp] theorem updCohort_launches (s : State) (id : Nat) (f : Cohort → Cohort) : (updCohort s id f).exec.launches = s.exec.launches := rfl
@[simp] theorem updCohort_seq (s : State) (id : Nat) (f : Cohort → Cohort) : (updCohort s id f).exec.seq = s.exec.seq := rfl
@[simp] theorem updOp_mem (s : State) (id : Nat) (f : Op → Op) : (updOp s id f).mem = s.mem := rfl
@[simp] theorem updOp_tick (s : State) (id : Nat) (f : Op → Op) : (updOp s id f).tick = s.tick := rfl
@[simp] theorem updOp_issuer (s : State) (id : Nat) (f : Op → Op) : (updOp s id f).issuer = s.issuer := rfl
@[simp] theorem updOp_agenda (s : State) (id : Nat) (f : Op → Op) : (updOp s id f).agenda = s.agenda := rfl
@[simp] theorem updOp_turn (s : State) (id : Nat) (f : Op → Op) : (updOp s id f).turn = s.turn := rfl
@[simp] theorem updOp_mysko (s : State) (id : Nat) (f : Op → Op) : (updOp s id f).mysko = s.mysko := rfl
@[simp] theorem updOp_fabric (s : State) (id : Nat) (f : Op → Op) : (updOp s id f).fabric = s.fabric := rfl
@[simp] theorem updOp_host (s : State) (id : Nat) (f : Op → Op) : (updOp s id f).host = s.host := rfl
@[simp] theorem updOp_memory (s : State) (id : Nat) (f : Op → Op) : (updOp s id f).memory = s.memory := rfl
@[simp] theorem updOp_ctxs (s : State) (id : Nat) (f : Op → Op) : (updOp s id f).ctxs = s.ctxs := rfl
@[simp] theorem updOp_cores (s : State) (id : Nat) (f : Op → Op) : (updOp s id f).cores = s.cores := rfl
@[simp] theorem updOp_groups (s : State) (id : Nat) (f : Op → Op) : (updOp s id f).exec.groups = s.exec.groups := rfl
@[simp] theorem updOp_pairs (s : State) (id : Nat) (f : Op → Op) : (updOp s id f).exec.pairs = s.exec.pairs := rfl
@[simp] theorem updOp_cohorts (s : State) (id : Nat) (f : Op → Op) : (updOp s id f).exec.cohorts = s.exec.cohorts := rfl
@[simp] theorem updOp_presses (s : State) (id : Nat) (f : Op → Op) : (updOp s id f).exec.presses = s.exec.presses := rfl
@[simp] theorem updOp_allocs (s : State) (id : Nat) (f : Op → Op) : (updOp s id f).exec.allocs = s.exec.allocs := rfl
@[simp] theorem updOp_runs (s : State) (id : Nat) (f : Op → Op) : (updOp s id f).exec.runs = s.exec.runs := rfl
@[simp] theorem updOp_scheds (s : State) (id : Nat) (f : Op → Op) : (updOp s id f).exec.scheds = s.exec.scheds := rfl
theorem updOp_ops (s : State) (id : Nat) (f : Op → Op) :
    (updOp s id f).exec.ops = s.exec.ops.map fun o => if o.id == id then f o else o := rfl
@[simp] theorem updOp_winAcc (s : State) (id : Nat) (f : Op → Op) : (updOp s id f).exec.winAcc = s.exec.winAcc := rfl
@[simp] theorem updOp_score (s : State) (id : Nat) (f : Op → Op) : (updOp s id f).exec.score = s.exec.score := rfl
@[simp] theorem updOp_circles (s : State) (id : Nat) (f : Op → Op) : (updOp s id f).exec.circles = s.exec.circles := rfl
@[simp] theorem updOp_sigdecs (s : State) (id : Nat) (f : Op → Op) : (updOp s id f).exec.sigdecs = s.exec.sigdecs := rfl
@[simp] theorem updOp_launches (s : State) (id : Nat) (f : Op → Op) : (updOp s id f).exec.launches = s.exec.launches := rfl
@[simp] theorem updOp_seq (s : State) (id : Nat) (f : Op → Op) : (updOp s id f).exec.seq = s.exec.seq := rfl
@[simp] theorem updLaunch_mem (s : State) (id : Nat) (f : Launch → Launch) : (updLaunch s id f).mem = s.mem := rfl
@[simp] theorem updLaunch_tick (s : State) (id : Nat) (f : Launch → Launch) : (updLaunch s id f).tick = s.tick := rfl
@[simp] theorem updLaunch_issuer (s : State) (id : Nat) (f : Launch → Launch) : (updLaunch s id f).issuer = s.issuer := rfl
@[simp] theorem updLaunch_agenda (s : State) (id : Nat) (f : Launch → Launch) : (updLaunch s id f).agenda = s.agenda := rfl
@[simp] theorem updLaunch_turn (s : State) (id : Nat) (f : Launch → Launch) : (updLaunch s id f).turn = s.turn := rfl
@[simp] theorem updLaunch_mysko (s : State) (id : Nat) (f : Launch → Launch) : (updLaunch s id f).mysko = s.mysko := rfl
@[simp] theorem updLaunch_fabric (s : State) (id : Nat) (f : Launch → Launch) : (updLaunch s id f).fabric = s.fabric := rfl
@[simp] theorem updLaunch_host (s : State) (id : Nat) (f : Launch → Launch) : (updLaunch s id f).host = s.host := rfl
@[simp] theorem updLaunch_memory (s : State) (id : Nat) (f : Launch → Launch) : (updLaunch s id f).memory = s.memory := rfl
@[simp] theorem updLaunch_ctxs (s : State) (id : Nat) (f : Launch → Launch) : (updLaunch s id f).ctxs = s.ctxs := rfl
@[simp] theorem updLaunch_cores (s : State) (id : Nat) (f : Launch → Launch) : (updLaunch s id f).cores = s.cores := rfl
@[simp] theorem updLaunch_groups (s : State) (id : Nat) (f : Launch → Launch) : (updLaunch s id f).exec.groups = s.exec.groups := rfl
@[simp] theorem updLaunch_pairs (s : State) (id : Nat) (f : Launch → Launch) : (updLaunch s id f).exec.pairs = s.exec.pairs := rfl
@[simp] theorem updLaunch_cohorts (s : State) (id : Nat) (f : Launch → Launch) : (updLaunch s id f).exec.cohorts = s.exec.cohorts := rfl
@[simp] theorem updLaunch_presses (s : State) (id : Nat) (f : Launch → Launch) : (updLaunch s id f).exec.presses = s.exec.presses := rfl
@[simp] theorem updLaunch_allocs (s : State) (id : Nat) (f : Launch → Launch) : (updLaunch s id f).exec.allocs = s.exec.allocs := rfl
@[simp] theorem updLaunch_runs (s : State) (id : Nat) (f : Launch → Launch) : (updLaunch s id f).exec.runs = s.exec.runs := rfl
@[simp] theorem updLaunch_scheds (s : State) (id : Nat) (f : Launch → Launch) : (updLaunch s id f).exec.scheds = s.exec.scheds := rfl
@[simp] theorem updLaunch_ops (s : State) (id : Nat) (f : Launch → Launch) : (updLaunch s id f).exec.ops = s.exec.ops := rfl
@[simp] theorem updLaunch_winAcc (s : State) (id : Nat) (f : Launch → Launch) : (updLaunch s id f).exec.winAcc = s.exec.winAcc := rfl
@[simp] theorem updLaunch_score (s : State) (id : Nat) (f : Launch → Launch) : (updLaunch s id f).exec.score = s.exec.score := rfl
@[simp] theorem updLaunch_circles (s : State) (id : Nat) (f : Launch → Launch) : (updLaunch s id f).exec.circles = s.exec.circles := rfl
@[simp] theorem updLaunch_sigdecs (s : State) (id : Nat) (f : Launch → Launch) : (updLaunch s id f).exec.sigdecs = s.exec.sigdecs := rfl
theorem updLaunch_launches (s : State) (id : Nat) (f : Launch → Launch) :
    (updLaunch s id f).exec.launches = s.exec.launches.map fun o => if o.id == id then f o else o := rfl
@[simp] theorem updLaunch_seq (s : State) (id : Nat) (f : Launch → Launch) : (updLaunch s id f).exec.seq = s.exec.seq := rfl
@[simp] theorem updPress_mem (s : State) (core num : Nat) (f : PressCtx → PressCtx) : (updPress s core num f).mem = s.mem := rfl
@[simp] theorem updPress_tick (s : State) (core num : Nat) (f : PressCtx → PressCtx) : (updPress s core num f).tick = s.tick := rfl
@[simp] theorem updPress_issuer (s : State) (core num : Nat) (f : PressCtx → PressCtx) : (updPress s core num f).issuer = s.issuer := rfl
@[simp] theorem updPress_agenda (s : State) (core num : Nat) (f : PressCtx → PressCtx) : (updPress s core num f).agenda = s.agenda := rfl
@[simp] theorem updPress_turn (s : State) (core num : Nat) (f : PressCtx → PressCtx) : (updPress s core num f).turn = s.turn := rfl
@[simp] theorem updPress_mysko (s : State) (core num : Nat) (f : PressCtx → PressCtx) : (updPress s core num f).mysko = s.mysko := rfl
@[simp] theorem updPress_fabric (s : State) (core num : Nat) (f : PressCtx → PressCtx) : (updPress s core num f).fabric = s.fabric := rfl
@[simp] theorem updPress_host (s : State) (core num : Nat) (f : PressCtx → PressCtx) : (updPress s core num f).host = s.host := rfl
@[simp] theorem updPress_memory (s : State) (core num : Nat) (f : PressCtx → PressCtx) : (updPress s core num f).memory = s.memory := rfl
@[simp] theorem updPress_ctxs (s : State) (core num : Nat) (f : PressCtx → PressCtx) : (updPress s core num f).ctxs = s.ctxs := rfl
@[simp] theorem updPress_cores (s : State) (core num : Nat) (f : PressCtx → PressCtx) : (updPress s core num f).cores = s.cores := rfl
@[simp] theorem updPress_groups (s : State) (core num : Nat) (f : PressCtx → PressCtx) : (updPress s core num f).exec.groups = s.exec.groups := rfl
@[simp] theorem updPress_pairs (s : State) (core num : Nat) (f : PressCtx → PressCtx) : (updPress s core num f).exec.pairs = s.exec.pairs := rfl
@[simp] theorem updPress_cohorts (s : State) (core num : Nat) (f : PressCtx → PressCtx) : (updPress s core num f).exec.cohorts = s.exec.cohorts := rfl
theorem updPress_presses (s : State) (core num : Nat) (f : PressCtx → PressCtx) :
    (updPress s core num f).exec.presses = s.exec.presses.map fun p => if p.core == core && p.num == num then f p else p := rfl
@[simp] theorem updPress_allocs (s : State) (core num : Nat) (f : PressCtx → PressCtx) : (updPress s core num f).exec.allocs = s.exec.allocs := rfl
@[simp] theorem updPress_runs (s : State) (core num : Nat) (f : PressCtx → PressCtx) : (updPress s core num f).exec.runs = s.exec.runs := rfl
@[simp] theorem updPress_scheds (s : State) (core num : Nat) (f : PressCtx → PressCtx) : (updPress s core num f).exec.scheds = s.exec.scheds := rfl
@[simp] theorem updPress_ops (s : State) (core num : Nat) (f : PressCtx → PressCtx) : (updPress s core num f).exec.ops = s.exec.ops := rfl
@[simp] theorem updPress_winAcc (s : State) (core num : Nat) (f : PressCtx → PressCtx) : (updPress s core num f).exec.winAcc = s.exec.winAcc := rfl
@[simp] theorem updPress_score (s : State) (core num : Nat) (f : PressCtx → PressCtx) : (updPress s core num f).exec.score = s.exec.score := rfl
@[simp] theorem updPress_circles (s : State) (core num : Nat) (f : PressCtx → PressCtx) : (updPress s core num f).exec.circles = s.exec.circles := rfl
@[simp] theorem updPress_sigdecs (s : State) (core num : Nat) (f : PressCtx → PressCtx) : (updPress s core num f).exec.sigdecs = s.exec.sigdecs := rfl
@[simp] theorem updPress_launches (s : State) (core num : Nat) (f : PressCtx → PressCtx) : (updPress s core num f).exec.launches = s.exec.launches := rfl
@[simp] theorem updPress_seq (s : State) (core num : Nat) (f : PressCtx → PressCtx) : (updPress s core num f).exec.seq = s.exec.seq := rfl
@[simp] theorem updRun_mem (s : State) (core unit : Nat) (f : Run → Run) : (updRun s core unit f).mem = s.mem := rfl
@[simp] theorem updRun_tick (s : State) (core unit : Nat) (f : Run → Run) : (updRun s core unit f).tick = s.tick := rfl
@[simp] theorem updRun_issuer (s : State) (core unit : Nat) (f : Run → Run) : (updRun s core unit f).issuer = s.issuer := rfl
@[simp] theorem updRun_agenda (s : State) (core unit : Nat) (f : Run → Run) : (updRun s core unit f).agenda = s.agenda := rfl
@[simp] theorem updRun_turn (s : State) (core unit : Nat) (f : Run → Run) : (updRun s core unit f).turn = s.turn := rfl
@[simp] theorem updRun_mysko (s : State) (core unit : Nat) (f : Run → Run) : (updRun s core unit f).mysko = s.mysko := rfl
@[simp] theorem updRun_fabric (s : State) (core unit : Nat) (f : Run → Run) : (updRun s core unit f).fabric = s.fabric := rfl
@[simp] theorem updRun_host (s : State) (core unit : Nat) (f : Run → Run) : (updRun s core unit f).host = s.host := rfl
@[simp] theorem updRun_memory (s : State) (core unit : Nat) (f : Run → Run) : (updRun s core unit f).memory = s.memory := rfl
@[simp] theorem updRun_ctxs (s : State) (core unit : Nat) (f : Run → Run) : (updRun s core unit f).ctxs = s.ctxs := rfl
@[simp] theorem updRun_cores (s : State) (core unit : Nat) (f : Run → Run) : (updRun s core unit f).cores = s.cores := rfl
@[simp] theorem updRun_groups (s : State) (core unit : Nat) (f : Run → Run) : (updRun s core unit f).exec.groups = s.exec.groups := rfl
@[simp] theorem updRun_pairs (s : State) (core unit : Nat) (f : Run → Run) : (updRun s core unit f).exec.pairs = s.exec.pairs := rfl
@[simp] theorem updRun_cohorts (s : State) (core unit : Nat) (f : Run → Run) : (updRun s core unit f).exec.cohorts = s.exec.cohorts := rfl
@[simp] theorem updRun_presses (s : State) (core unit : Nat) (f : Run → Run) : (updRun s core unit f).exec.presses = s.exec.presses := rfl
@[simp] theorem updRun_allocs (s : State) (core unit : Nat) (f : Run → Run) : (updRun s core unit f).exec.allocs = s.exec.allocs := rfl
theorem updRun_runs (s : State) (core unit : Nat) (f : Run → Run) :
    (updRun s core unit f).exec.runs = s.exec.runs.map fun r => if r.core == core && r.unit == unit then f r else r := rfl
@[simp] theorem updRun_scheds (s : State) (core unit : Nat) (f : Run → Run) : (updRun s core unit f).exec.scheds = s.exec.scheds := rfl
@[simp] theorem updRun_ops (s : State) (core unit : Nat) (f : Run → Run) : (updRun s core unit f).exec.ops = s.exec.ops := rfl
@[simp] theorem updRun_winAcc (s : State) (core unit : Nat) (f : Run → Run) : (updRun s core unit f).exec.winAcc = s.exec.winAcc := rfl
@[simp] theorem updRun_score (s : State) (core unit : Nat) (f : Run → Run) : (updRun s core unit f).exec.score = s.exec.score := rfl
@[simp] theorem updRun_circles (s : State) (core unit : Nat) (f : Run → Run) : (updRun s core unit f).exec.circles = s.exec.circles := rfl
@[simp] theorem updRun_sigdecs (s : State) (core unit : Nat) (f : Run → Run) : (updRun s core unit f).exec.sigdecs = s.exec.sigdecs := rfl
@[simp] theorem updRun_launches (s : State) (core unit : Nat) (f : Run → Run) : (updRun s core unit f).exec.launches = s.exec.launches := rfl
@[simp] theorem updRun_seq (s : State) (core unit : Nat) (f : Run → Run) : (updRun s core unit f).exec.seq = s.exec.seq := rfl
@[simp] theorem dropRun_mem (s : State) (core unit : Nat) : (dropRun s core unit).mem = s.mem := rfl
@[simp] theorem dropRun_tick (s : State) (core unit : Nat) : (dropRun s core unit).tick = s.tick := rfl
@[simp] theorem dropRun_issuer (s : State) (core unit : Nat) : (dropRun s core unit).issuer = s.issuer := rfl
@[simp] theorem dropRun_agenda (s : State) (core unit : Nat) : (dropRun s core unit).agenda = s.agenda := rfl
@[simp] theorem dropRun_turn (s : State) (core unit : Nat) : (dropRun s core unit).turn = s.turn := rfl
@[simp] theorem dropRun_mysko (s : State) (core unit : Nat) : (dropRun s core unit).mysko = s.mysko := rfl
@[simp] theorem dropRun_fabric (s : State) (core unit : Nat) : (dropRun s core unit).fabric = s.fabric := rfl
@[simp] theorem dropRun_host (s : State) (core unit : Nat) : (dropRun s core unit).host = s.host := rfl
@[simp] theorem dropRun_memory (s : State) (core unit : Nat) : (dropRun s core unit).memory = s.memory := rfl
@[simp] theorem dropRun_ctxs (s : State) (core unit : Nat) : (dropRun s core unit).ctxs = s.ctxs := rfl
@[simp] theorem dropRun_cores (s : State) (core unit : Nat) : (dropRun s core unit).cores = s.cores := rfl
@[simp] theorem dropRun_groups (s : State) (core unit : Nat) : (dropRun s core unit).exec.groups = s.exec.groups := rfl
@[simp] theorem dropRun_pairs (s : State) (core unit : Nat) : (dropRun s core unit).exec.pairs = s.exec.pairs := rfl
@[simp] theorem dropRun_cohorts (s : State) (core unit : Nat) : (dropRun s core unit).exec.cohorts = s.exec.cohorts := rfl
@[simp] theorem dropRun_presses (s : State) (core unit : Nat) : (dropRun s core unit).exec.presses = s.exec.presses := rfl
@[simp] theorem dropRun_allocs (s : State) (core unit : Nat) : (dropRun s core unit).exec.allocs = s.exec.allocs := rfl
theorem dropRun_runs (s : State) (core unit : Nat) :
    (dropRun s core unit).exec.runs = s.exec.runs.filter fun r => !(r.core == core && r.unit == unit) := rfl
@[simp] theorem dropRun_scheds (s : State) (core unit : Nat) : (dropRun s core unit).exec.scheds = s.exec.scheds := rfl
@[simp] theorem dropRun_ops (s : State) (core unit : Nat) : (dropRun s core unit).exec.ops = s.exec.ops := rfl
@[simp] theorem dropRun_winAcc (s : State) (core unit : Nat) : (dropRun s core unit).exec.winAcc = s.exec.winAcc := rfl
@[simp] theorem dropRun_score (s : State) (core unit : Nat) : (dropRun s core unit).exec.score = s.exec.score := rfl
@[simp] theorem dropRun_circles (s : State) (core unit : Nat) : (dropRun s core unit).exec.circles = s.exec.circles := rfl
@[simp] theorem dropRun_sigdecs (s : State) (core unit : Nat) : (dropRun s core unit).exec.sigdecs = s.exec.sigdecs := rfl
@[simp] theorem dropRun_launches (s : State) (core unit : Nat) : (dropRun s core unit).exec.launches = s.exec.launches := rfl
@[simp] theorem dropRun_seq (s : State) (core unit : Nat) : (dropRun s core unit).exec.seq = s.exec.seq := rfl
@[simp] theorem dropOp_mem (s : State) (id : Nat) : (dropOp s id).mem = s.mem := rfl
@[simp] theorem dropOp_tick (s : State) (id : Nat) : (dropOp s id).tick = s.tick := rfl
@[simp] theorem dropOp_issuer (s : State) (id : Nat) : (dropOp s id).issuer = s.issuer := rfl
@[simp] theorem dropOp_agenda (s : State) (id : Nat) : (dropOp s id).agenda = s.agenda := rfl
@[simp] theorem dropOp_turn (s : State) (id : Nat) : (dropOp s id).turn = s.turn := rfl
@[simp] theorem dropOp_mysko (s : State) (id : Nat) : (dropOp s id).mysko = s.mysko := rfl
@[simp] theorem dropOp_fabric (s : State) (id : Nat) : (dropOp s id).fabric = s.fabric := rfl
@[simp] theorem dropOp_host (s : State) (id : Nat) : (dropOp s id).host = s.host := rfl
@[simp] theorem dropOp_memory (s : State) (id : Nat) : (dropOp s id).memory = s.memory := rfl
@[simp] theorem dropOp_ctxs (s : State) (id : Nat) : (dropOp s id).ctxs = s.ctxs := rfl
@[simp] theorem dropOp_cores (s : State) (id : Nat) : (dropOp s id).cores = s.cores := rfl
@[simp] theorem dropOp_groups (s : State) (id : Nat) : (dropOp s id).exec.groups = s.exec.groups := rfl
@[simp] theorem dropOp_pairs (s : State) (id : Nat) : (dropOp s id).exec.pairs = s.exec.pairs := rfl
@[simp] theorem dropOp_cohorts (s : State) (id : Nat) : (dropOp s id).exec.cohorts = s.exec.cohorts := rfl
@[simp] theorem dropOp_presses (s : State) (id : Nat) : (dropOp s id).exec.presses = s.exec.presses := rfl
@[simp] theorem dropOp_allocs (s : State) (id : Nat) : (dropOp s id).exec.allocs = s.exec.allocs := rfl
@[simp] theorem dropOp_runs (s : State) (id : Nat) : (dropOp s id).exec.runs = s.exec.runs := rfl
@[simp] theorem dropOp_scheds (s : State) (id : Nat) : (dropOp s id).exec.scheds = s.exec.scheds := rfl
theorem dropOp_ops (s : State) (id : Nat) :
    (dropOp s id).exec.ops = s.exec.ops.filter fun o => o.id != id := rfl
@[simp] theorem dropOp_winAcc (s : State) (id : Nat) : (dropOp s id).exec.winAcc = s.exec.winAcc := rfl
@[simp] theorem dropOp_score (s : State) (id : Nat) : (dropOp s id).exec.score = s.exec.score := rfl
@[simp] theorem dropOp_circles (s : State) (id : Nat) : (dropOp s id).exec.circles = s.exec.circles := rfl
@[simp] theorem dropOp_sigdecs (s : State) (id : Nat) : (dropOp s id).exec.sigdecs = s.exec.sigdecs := rfl
@[simp] theorem dropOp_launches (s : State) (id : Nat) : (dropOp s id).exec.launches = s.exec.launches := rfl
@[simp] theorem dropOp_seq (s : State) (id : Nat) : (dropOp s id).exec.seq = s.exec.seq := rfl
@[simp] theorem addOp_mem (s : State) (o : Op) : (addOp s o).mem = s.mem := rfl
@[simp] theorem addOp_tick (s : State) (o : Op) : (addOp s o).tick = s.tick := rfl
@[simp] theorem addOp_issuer (s : State) (o : Op) : (addOp s o).issuer = s.issuer := rfl
@[simp] theorem addOp_agenda (s : State) (o : Op) : (addOp s o).agenda = s.agenda := rfl
@[simp] theorem addOp_turn (s : State) (o : Op) : (addOp s o).turn = s.turn := rfl
@[simp] theorem addOp_mysko (s : State) (o : Op) : (addOp s o).mysko = s.mysko := rfl
@[simp] theorem addOp_fabric (s : State) (o : Op) : (addOp s o).fabric = s.fabric := rfl
@[simp] theorem addOp_host (s : State) (o : Op) : (addOp s o).host = s.host := rfl
@[simp] theorem addOp_memory (s : State) (o : Op) : (addOp s o).memory = s.memory := rfl
@[simp] theorem addOp_ctxs (s : State) (o : Op) : (addOp s o).ctxs = s.ctxs := rfl
@[simp] theorem addOp_cores (s : State) (o : Op) : (addOp s o).cores = s.cores := rfl
@[simp] theorem addOp_groups (s : State) (o : Op) : (addOp s o).exec.groups = s.exec.groups := rfl
@[simp] theorem addOp_pairs (s : State) (o : Op) : (addOp s o).exec.pairs = s.exec.pairs := rfl
@[simp] theorem addOp_cohorts (s : State) (o : Op) : (addOp s o).exec.cohorts = s.exec.cohorts := rfl
@[simp] theorem addOp_presses (s : State) (o : Op) : (addOp s o).exec.presses = s.exec.presses := rfl
@[simp] theorem addOp_allocs (s : State) (o : Op) : (addOp s o).exec.allocs = s.exec.allocs := rfl
@[simp] theorem addOp_runs (s : State) (o : Op) : (addOp s o).exec.runs = s.exec.runs := rfl
@[simp] theorem addOp_scheds (s : State) (o : Op) : (addOp s o).exec.scheds = s.exec.scheds := rfl
theorem addOp_ops (s : State) (o : Op) :
    (addOp s o).exec.ops = s.exec.ops ++ [o] := rfl
@[simp] theorem addOp_winAcc (s : State) (o : Op) : (addOp s o).exec.winAcc = s.exec.winAcc := rfl
@[simp] theorem addOp_score (s : State) (o : Op) : (addOp s o).exec.score = s.exec.score := rfl
@[simp] theorem addOp_circles (s : State) (o : Op) : (addOp s o).exec.circles = s.exec.circles := rfl
@[simp] theorem addOp_sigdecs (s : State) (o : Op) : (addOp s o).exec.sigdecs = s.exec.sigdecs := rfl
@[simp] theorem addOp_launches (s : State) (o : Op) : (addOp s o).exec.launches = s.exec.launches := rfl
@[simp] theorem addOp_seq (s : State) (o : Op) : (addOp s o).exec.seq = s.exec.seq := rfl
@[simp] theorem updPath_mem (s : State) (gid e : Nat) (f : Path → Path) : (updPath s gid e f).mem = s.mem := rfl
@[simp] theorem updPath_tick (s : State) (gid e : Nat) (f : Path → Path) : (updPath s gid e f).tick = s.tick := rfl
@[simp] theorem updPath_issuer (s : State) (gid e : Nat) (f : Path → Path) : (updPath s gid e f).issuer = s.issuer := rfl
@[simp] theorem updPath_agenda (s : State) (gid e : Nat) (f : Path → Path) : (updPath s gid e f).agenda = s.agenda := rfl
@[simp] theorem updPath_turn (s : State) (gid e : Nat) (f : Path → Path) : (updPath s gid e f).turn = s.turn := rfl
@[simp] theorem updPath_mysko (s : State) (gid e : Nat) (f : Path → Path) : (updPath s gid e f).mysko = s.mysko := rfl
@[simp] theorem updPath_fabric (s : State) (gid e : Nat) (f : Path → Path) : (updPath s gid e f).fabric = s.fabric := rfl
@[simp] theorem updPath_host (s : State) (gid e : Nat) (f : Path → Path) : (updPath s gid e f).host = s.host := rfl
@[simp] theorem updPath_memory (s : State) (gid e : Nat) (f : Path → Path) : (updPath s gid e f).memory = s.memory := rfl
@[simp] theorem updPath_ctxs (s : State) (gid e : Nat) (f : Path → Path) : (updPath s gid e f).ctxs = s.ctxs := rfl
@[simp] theorem updPath_cores (s : State) (gid e : Nat) (f : Path → Path) : (updPath s gid e f).cores = s.cores := rfl
theorem updPath_groups (s : State) (gid e : Nat) (f : Path → Path) :
    (updPath s gid e f).exec.groups = s.exec.groups.map fun g => if g.gid == gid then { g with paths := g.paths.modify e f } else g := rfl
@[simp] theorem updPath_pairs (s : State) (gid e : Nat) (f : Path → Path) : (updPath s gid e f).exec.pairs = s.exec.pairs := rfl
@[simp] theorem updPath_cohorts (s : State) (gid e : Nat) (f : Path → Path) : (updPath s gid e f).exec.cohorts = s.exec.cohorts := rfl
@[simp] theorem updPath_presses (s : State) (gid e : Nat) (f : Path → Path) : (updPath s gid e f).exec.presses = s.exec.presses := rfl
@[simp] theorem updPath_allocs (s : State) (gid e : Nat) (f : Path → Path) : (updPath s gid e f).exec.allocs = s.exec.allocs := rfl
@[simp] theorem updPath_runs (s : State) (gid e : Nat) (f : Path → Path) : (updPath s gid e f).exec.runs = s.exec.runs := rfl
@[simp] theorem updPath_scheds (s : State) (gid e : Nat) (f : Path → Path) : (updPath s gid e f).exec.scheds = s.exec.scheds := rfl
@[simp] theorem updPath_ops (s : State) (gid e : Nat) (f : Path → Path) : (updPath s gid e f).exec.ops = s.exec.ops := rfl
@[simp] theorem updPath_winAcc (s : State) (gid e : Nat) (f : Path → Path) : (updPath s gid e f).exec.winAcc = s.exec.winAcc := rfl
@[simp] theorem updPath_score (s : State) (gid e : Nat) (f : Path → Path) : (updPath s gid e f).exec.score = s.exec.score := rfl
@[simp] theorem updPath_circles (s : State) (gid e : Nat) (f : Path → Path) : (updPath s gid e f).exec.circles = s.exec.circles := rfl
@[simp] theorem updPath_sigdecs (s : State) (gid e : Nat) (f : Path → Path) : (updPath s gid e f).exec.sigdecs = s.exec.sigdecs := rfl
@[simp] theorem updPath_launches (s : State) (gid e : Nat) (f : Path → Path) : (updPath s gid e f).exec.launches = s.exec.launches := rfl
@[simp] theorem updPath_seq (s : State) (gid e : Nat) (f : Path → Path) : (updPath s gid e f).exec.seq = s.exec.seq := rfl
@[simp] theorem updQueue_mem (s : State) (pair q : Nat) (f : Queue → Queue) : (updQueue s pair q f).mem = s.mem := rfl
@[simp] theorem updQueue_tick (s : State) (pair q : Nat) (f : Queue → Queue) : (updQueue s pair q f).tick = s.tick := rfl
@[simp] theorem updQueue_issuer (s : State) (pair q : Nat) (f : Queue → Queue) : (updQueue s pair q f).issuer = s.issuer := rfl
@[simp] theorem updQueue_agenda (s : State) (pair q : Nat) (f : Queue → Queue) : (updQueue s pair q f).agenda = s.agenda := rfl
@[simp] theorem updQueue_turn (s : State) (pair q : Nat) (f : Queue → Queue) : (updQueue s pair q f).turn = s.turn := rfl
@[simp] theorem updQueue_mysko (s : State) (pair q : Nat) (f : Queue → Queue) : (updQueue s pair q f).mysko = s.mysko := rfl
@[simp] theorem updQueue_fabric (s : State) (pair q : Nat) (f : Queue → Queue) : (updQueue s pair q f).fabric = s.fabric := rfl
@[simp] theorem updQueue_host (s : State) (pair q : Nat) (f : Queue → Queue) : (updQueue s pair q f).host = s.host := rfl
@[simp] theorem updQueue_memory (s : State) (pair q : Nat) (f : Queue → Queue) : (updQueue s pair q f).memory = s.memory := rfl
@[simp] theorem updQueue_ctxs (s : State) (pair q : Nat) (f : Queue → Queue) : (updQueue s pair q f).ctxs = s.ctxs := rfl
@[simp] theorem updQueue_cores (s : State) (pair q : Nat) (f : Queue → Queue) : (updQueue s pair q f).cores = s.cores := rfl
@[simp] theorem updQueue_groups (s : State) (pair q : Nat) (f : Queue → Queue) : (updQueue s pair q f).exec.groups = s.exec.groups := rfl
theorem updQueue_pairs (s : State) (pair q : Nat) (f : Queue → Queue) :
    (updQueue s pair q f).exec.pairs = s.exec.pairs.map fun p => if p.id == pair then { p with queues := p.queues.modify q f, idle := 0 } else p := rfl
@[simp] theorem updQueue_cohorts (s : State) (pair q : Nat) (f : Queue → Queue) : (updQueue s pair q f).exec.cohorts = s.exec.cohorts := rfl
@[simp] theorem updQueue_presses (s : State) (pair q : Nat) (f : Queue → Queue) : (updQueue s pair q f).exec.presses = s.exec.presses := rfl
@[simp] theorem updQueue_allocs (s : State) (pair q : Nat) (f : Queue → Queue) : (updQueue s pair q f).exec.allocs = s.exec.allocs := rfl
@[simp] theorem updQueue_runs (s : State) (pair q : Nat) (f : Queue → Queue) : (updQueue s pair q f).exec.runs = s.exec.runs := rfl
@[simp] theorem updQueue_scheds (s : State) (pair q : Nat) (f : Queue → Queue) : (updQueue s pair q f).exec.scheds = s.exec.scheds := rfl
@[simp] theorem updQueue_ops (s : State) (pair q : Nat) (f : Queue → Queue) : (updQueue s pair q f).exec.ops = s.exec.ops := rfl
@[simp] theorem updQueue_winAcc (s : State) (pair q : Nat) (f : Queue → Queue) : (updQueue s pair q f).exec.winAcc = s.exec.winAcc := rfl
@[simp] theorem updQueue_score (s : State) (pair q : Nat) (f : Queue → Queue) : (updQueue s pair q f).exec.score = s.exec.score := rfl
@[simp] theorem updQueue_circles (s : State) (pair q : Nat) (f : Queue → Queue) : (updQueue s pair q f).exec.circles = s.exec.circles := rfl
@[simp] theorem updQueue_sigdecs (s : State) (pair q : Nat) (f : Queue → Queue) : (updQueue s pair q f).exec.sigdecs = s.exec.sigdecs := rfl
@[simp] theorem updQueue_launches (s : State) (pair q : Nat) (f : Queue → Queue) : (updQueue s pair q f).exec.launches = s.exec.launches := rfl
@[simp] theorem updQueue_seq (s : State) (pair q : Nat) (f : Queue → Queue) : (updQueue s pair q f).exec.seq = s.exec.seq := rfl
@[simp] theorem updEntry_mem (s : State) (pair q id : Nat) (f : Entry → Entry) : (updEntry s pair q id f).mem = s.mem := rfl
@[simp] theorem updEntry_tick (s : State) (pair q id : Nat) (f : Entry → Entry) : (updEntry s pair q id f).tick = s.tick := rfl
@[simp] theorem updEntry_issuer (s : State) (pair q id : Nat) (f : Entry → Entry) : (updEntry s pair q id f).issuer = s.issuer := rfl
@[simp] theorem updEntry_agenda (s : State) (pair q id : Nat) (f : Entry → Entry) : (updEntry s pair q id f).agenda = s.agenda := rfl
@[simp] theorem updEntry_turn (s : State) (pair q id : Nat) (f : Entry → Entry) : (updEntry s pair q id f).turn = s.turn := rfl
@[simp] theorem updEntry_mysko (s : State) (pair q id : Nat) (f : Entry → Entry) : (updEntry s pair q id f).mysko = s.mysko := rfl
@[simp] theorem updEntry_fabric (s : State) (pair q id : Nat) (f : Entry → Entry) : (updEntry s pair q id f).fabric = s.fabric := rfl
@[simp] theorem updEntry_host (s : State) (pair q id : Nat) (f : Entry → Entry) : (updEntry s pair q id f).host = s.host := rfl
@[simp] theorem updEntry_memory (s : State) (pair q id : Nat) (f : Entry → Entry) : (updEntry s pair q id f).memory = s.memory := rfl
@[simp] theorem updEntry_ctxs (s : State) (pair q id : Nat) (f : Entry → Entry) : (updEntry s pair q id f).ctxs = s.ctxs := rfl
@[simp] theorem updEntry_cores (s : State) (pair q id : Nat) (f : Entry → Entry) : (updEntry s pair q id f).cores = s.cores := rfl
@[simp] theorem updEntry_groups (s : State) (pair q id : Nat) (f : Entry → Entry) : (updEntry s pair q id f).exec.groups = s.exec.groups := rfl
@[simp] theorem updEntry_cohorts (s : State) (pair q id : Nat) (f : Entry → Entry) : (updEntry s pair q id f).exec.cohorts = s.exec.cohorts := rfl
@[simp] theorem updEntry_presses (s : State) (pair q id : Nat) (f : Entry → Entry) : (updEntry s pair q id f).exec.presses = s.exec.presses := rfl
@[simp] theorem updEntry_allocs (s : State) (pair q id : Nat) (f : Entry → Entry) : (updEntry s pair q id f).exec.allocs = s.exec.allocs := rfl
@[simp] theorem updEntry_runs (s : State) (pair q id : Nat) (f : Entry → Entry) : (updEntry s pair q id f).exec.runs = s.exec.runs := rfl
@[simp] theorem updEntry_scheds (s : State) (pair q id : Nat) (f : Entry → Entry) : (updEntry s pair q id f).exec.scheds = s.exec.scheds := rfl
@[simp] theorem updEntry_ops (s : State) (pair q id : Nat) (f : Entry → Entry) : (updEntry s pair q id f).exec.ops = s.exec.ops := rfl
@[simp] theorem updEntry_winAcc (s : State) (pair q id : Nat) (f : Entry → Entry) : (updEntry s pair q id f).exec.winAcc = s.exec.winAcc := rfl
@[simp] theorem updEntry_score (s : State) (pair q id : Nat) (f : Entry → Entry) : (updEntry s pair q id f).exec.score = s.exec.score := rfl
@[simp] theorem updEntry_circles (s : State) (pair q id : Nat) (f : Entry → Entry) : (updEntry s pair q id f).exec.circles = s.exec.circles := rfl
@[simp] theorem updEntry_sigdecs (s : State) (pair q id : Nat) (f : Entry → Entry) : (updEntry s pair q id f).exec.sigdecs = s.exec.sigdecs := rfl
@[simp] theorem updEntry_launches (s : State) (pair q id : Nat) (f : Entry → Entry) : (updEntry s pair q id f).exec.launches = s.exec.launches := rfl
@[simp] theorem updEntry_seq (s : State) (pair q id : Nat) (f : Entry → Entry) : (updEntry s pair q id f).exec.seq = s.exec.seq := rfl
@[simp] theorem updSched_mem (s : State) (core unit : Nat) (f : UnitSched → UnitSched) : (updSched s core unit f).mem = s.mem := rfl
@[simp] theorem updSched_tick (s : State) (core unit : Nat) (f : UnitSched → UnitSched) : (updSched s core unit f).tick = s.tick := rfl
@[simp] theorem updSched_issuer (s : State) (core unit : Nat) (f : UnitSched → UnitSched) : (updSched s core unit f).issuer = s.issuer := rfl
@[simp] theorem updSched_agenda (s : State) (core unit : Nat) (f : UnitSched → UnitSched) : (updSched s core unit f).agenda = s.agenda := rfl
@[simp] theorem updSched_turn (s : State) (core unit : Nat) (f : UnitSched → UnitSched) : (updSched s core unit f).turn = s.turn := rfl
@[simp] theorem updSched_mysko (s : State) (core unit : Nat) (f : UnitSched → UnitSched) : (updSched s core unit f).mysko = s.mysko := rfl
@[simp] theorem updSched_fabric (s : State) (core unit : Nat) (f : UnitSched → UnitSched) : (updSched s core unit f).fabric = s.fabric := rfl
@[simp] theorem updSched_host (s : State) (core unit : Nat) (f : UnitSched → UnitSched) : (updSched s core unit f).host = s.host := rfl
@[simp] theorem updSched_memory (s : State) (core unit : Nat) (f : UnitSched → UnitSched) : (updSched s core unit f).memory = s.memory := rfl
@[simp] theorem updSched_ctxs (s : State) (core unit : Nat) (f : UnitSched → UnitSched) : (updSched s core unit f).ctxs = s.ctxs := rfl
@[simp] theorem updSched_cores (s : State) (core unit : Nat) (f : UnitSched → UnitSched) : (updSched s core unit f).cores = s.cores := rfl
@[simp] theorem updSched_groups (s : State) (core unit : Nat) (f : UnitSched → UnitSched) : (updSched s core unit f).exec.groups = s.exec.groups := rfl
@[simp] theorem updSched_pairs (s : State) (core unit : Nat) (f : UnitSched → UnitSched) : (updSched s core unit f).exec.pairs = s.exec.pairs := rfl
@[simp] theorem updSched_cohorts (s : State) (core unit : Nat) (f : UnitSched → UnitSched) : (updSched s core unit f).exec.cohorts = s.exec.cohorts := rfl
@[simp] theorem updSched_presses (s : State) (core unit : Nat) (f : UnitSched → UnitSched) : (updSched s core unit f).exec.presses = s.exec.presses := rfl
@[simp] theorem updSched_allocs (s : State) (core unit : Nat) (f : UnitSched → UnitSched) : (updSched s core unit f).exec.allocs = s.exec.allocs := rfl
@[simp] theorem updSched_runs (s : State) (core unit : Nat) (f : UnitSched → UnitSched) : (updSched s core unit f).exec.runs = s.exec.runs := rfl
theorem updSched_scheds (s : State) (core unit : Nat) (f : UnitSched → UnitSched) :
    (updSched s core unit f).exec.scheds = (s.exec.scheds.filter fun u => !(u.core == core && u.unit == unit)) ++ [f (schedOf s core unit)] := rfl
@[simp] theorem updSched_ops (s : State) (core unit : Nat) (f : UnitSched → UnitSched) : (updSched s core unit f).exec.ops = s.exec.ops := rfl
@[simp] theorem updSched_winAcc (s : State) (core unit : Nat) (f : UnitSched → UnitSched) : (updSched s core unit f).exec.winAcc = s.exec.winAcc := rfl
@[simp] theorem updSched_score (s : State) (core unit : Nat) (f : UnitSched → UnitSched) : (updSched s core unit f).exec.score = s.exec.score := rfl
@[simp] theorem updSched_circles (s : State) (core unit : Nat) (f : UnitSched → UnitSched) : (updSched s core unit f).exec.circles = s.exec.circles := rfl
@[simp] theorem updSched_sigdecs (s : State) (core unit : Nat) (f : UnitSched → UnitSched) : (updSched s core unit f).exec.sigdecs = s.exec.sigdecs := rfl
@[simp] theorem updSched_launches (s : State) (core unit : Nat) (f : UnitSched → UnitSched) : (updSched s core unit f).exec.launches = s.exec.launches := rfl
@[simp] theorem updSched_seq (s : State) (core unit : Nat) (f : UnitSched → UnitSched) : (updSched s core unit f).exec.seq = s.exec.seq := rfl
@[simp] theorem fresh_mem (s : State) : (fresh s).2.mem = s.mem := rfl
@[simp] theorem fresh_tick (s : State) : (fresh s).2.tick = s.tick := rfl
@[simp] theorem fresh_issuer (s : State) : (fresh s).2.issuer = s.issuer := rfl
@[simp] theorem fresh_agenda (s : State) : (fresh s).2.agenda = s.agenda := rfl
@[simp] theorem fresh_turn (s : State) : (fresh s).2.turn = s.turn := rfl
@[simp] theorem fresh_mysko (s : State) : (fresh s).2.mysko = s.mysko := rfl
@[simp] theorem fresh_fabric (s : State) : (fresh s).2.fabric = s.fabric := rfl
@[simp] theorem fresh_host (s : State) : (fresh s).2.host = s.host := rfl
@[simp] theorem fresh_memory (s : State) : (fresh s).2.memory = s.memory := rfl
@[simp] theorem fresh_ctxs (s : State) : (fresh s).2.ctxs = s.ctxs := rfl
@[simp] theorem fresh_cores (s : State) : (fresh s).2.cores = s.cores := rfl
@[simp] theorem fresh_groups (s : State) : (fresh s).2.exec.groups = s.exec.groups := rfl
@[simp] theorem fresh_pairs (s : State) : (fresh s).2.exec.pairs = s.exec.pairs := rfl
@[simp] theorem fresh_cohorts (s : State) : (fresh s).2.exec.cohorts = s.exec.cohorts := rfl
@[simp] theorem fresh_presses (s : State) : (fresh s).2.exec.presses = s.exec.presses := rfl
@[simp] theorem fresh_allocs (s : State) : (fresh s).2.exec.allocs = s.exec.allocs := rfl
@[simp] theorem fresh_runs (s : State) : (fresh s).2.exec.runs = s.exec.runs := rfl
@[simp] theorem fresh_scheds (s : State) : (fresh s).2.exec.scheds = s.exec.scheds := rfl
@[simp] theorem fresh_ops (s : State) : (fresh s).2.exec.ops = s.exec.ops := rfl
@[simp] theorem fresh_winAcc (s : State) : (fresh s).2.exec.winAcc = s.exec.winAcc := rfl
@[simp] theorem fresh_score (s : State) : (fresh s).2.exec.score = s.exec.score := rfl
@[simp] theorem fresh_circles (s : State) : (fresh s).2.exec.circles = s.exec.circles := rfl
@[simp] theorem fresh_sigdecs (s : State) : (fresh s).2.exec.sigdecs = s.exec.sigdecs := rfl
@[simp] theorem fresh_launches (s : State) : (fresh s).2.exec.launches = s.exec.launches := rfl
@[simp] theorem fresh_seq (s : State) : (fresh s).2.exec.seq = s.exec.seq + 1 := rfl
@[simp] theorem fresh_fst (s : State) : (fresh s).1 = s.exec.seq := rfl

/-! ### The other records -/

@[simp] theorem updCtx_mem (s : State) (c : Nat) (f : Ctx → Ctx) : (updCtx s c f).mem = s.mem := rfl
@[simp] theorem updCtx_tick (s : State) (c : Nat) (f : Ctx → Ctx) : (updCtx s c f).tick = s.tick := rfl
@[simp] theorem updCtx_issuer (s : State) (c : Nat) (f : Ctx → Ctx) : (updCtx s c f).issuer = s.issuer := rfl
@[simp] theorem updCtx_agenda (s : State) (c : Nat) (f : Ctx → Ctx) : (updCtx s c f).agenda = s.agenda := rfl
@[simp] theorem updCtx_turn (s : State) (c : Nat) (f : Ctx → Ctx) : (updCtx s c f).turn = s.turn := rfl
@[simp] theorem updCtx_mysko (s : State) (c : Nat) (f : Ctx → Ctx) : (updCtx s c f).mysko = s.mysko := rfl
@[simp] theorem updCtx_fabric (s : State) (c : Nat) (f : Ctx → Ctx) : (updCtx s c f).fabric = s.fabric := rfl
@[simp] theorem updCtx_host (s : State) (c : Nat) (f : Ctx → Ctx) : (updCtx s c f).host = s.host := rfl
@[simp] theorem updCtx_memory (s : State) (c : Nat) (f : Ctx → Ctx) : (updCtx s c f).memory = s.memory := rfl
@[simp] theorem updCtx_exec (s : State) (c : Nat) (f : Ctx → Ctx) : (updCtx s c f).exec = s.exec := rfl
@[simp] theorem updCtx_ctxs (s : State) (c : Nat) (f : Ctx → Ctx) : (updCtx s c f).ctxs = s.ctxs.modify c f := rfl
@[simp] theorem updCtx_cores (s : State) (c : Nat) (f : Ctx → Ctx) : (updCtx s c f).cores = s.cores := rfl
@[simp] theorem updCore_mem (s : State) (c : Nat) (f : Core → Core) : (updCore s c f).mem = s.mem := rfl
@[simp] theorem updCore_tick (s : State) (c : Nat) (f : Core → Core) : (updCore s c f).tick = s.tick := rfl
@[simp] theorem updCore_issuer (s : State) (c : Nat) (f : Core → Core) : (updCore s c f).issuer = s.issuer := rfl
@[simp] theorem updCore_agenda (s : State) (c : Nat) (f : Core → Core) : (updCore s c f).agenda = s.agenda := rfl
@[simp] theorem updCore_turn (s : State) (c : Nat) (f : Core → Core) : (updCore s c f).turn = s.turn := rfl
@[simp] theorem updCore_mysko (s : State) (c : Nat) (f : Core → Core) : (updCore s c f).mysko = s.mysko := rfl
@[simp] theorem updCore_fabric (s : State) (c : Nat) (f : Core → Core) : (updCore s c f).fabric = s.fabric := rfl
@[simp] theorem updCore_host (s : State) (c : Nat) (f : Core → Core) : (updCore s c f).host = s.host := rfl
@[simp] theorem updCore_memory (s : State) (c : Nat) (f : Core → Core) : (updCore s c f).memory = s.memory := rfl
@[simp] theorem updCore_exec (s : State) (c : Nat) (f : Core → Core) : (updCore s c f).exec = s.exec := rfl
@[simp] theorem updCore_ctxs (s : State) (c : Nat) (f : Core → Core) : (updCore s c f).ctxs = s.ctxs := rfl
@[simp] theorem updCore_cores (s : State) (c : Nat) (f : Core → Core) : (updCore s c f).cores = s.cores.modify c f := rfl
@[simp] theorem updLease_mem (s : State) (c slot : Nat) (f : Lease → Lease) : (updLease s c slot f).mem = s.mem := rfl
@[simp] theorem updLease_tick (s : State) (c slot : Nat) (f : Lease → Lease) : (updLease s c slot f).tick = s.tick := rfl
@[simp] theorem updLease_issuer (s : State) (c slot : Nat) (f : Lease → Lease) : (updLease s c slot f).issuer = s.issuer := rfl
@[simp] theorem updLease_agenda (s : State) (c slot : Nat) (f : Lease → Lease) : (updLease s c slot f).agenda = s.agenda := rfl
@[simp] theorem updLease_turn (s : State) (c slot : Nat) (f : Lease → Lease) : (updLease s c slot f).turn = s.turn := rfl
@[simp] theorem updLease_mysko (s : State) (c slot : Nat) (f : Lease → Lease) : (updLease s c slot f).mysko = s.mysko := rfl
@[simp] theorem updLease_fabric (s : State) (c slot : Nat) (f : Lease → Lease) : (updLease s c slot f).fabric = s.fabric := rfl
@[simp] theorem updLease_host (s : State) (c slot : Nat) (f : Lease → Lease) : (updLease s c slot f).host = s.host := rfl
@[simp] theorem updLease_memory (s : State) (c slot : Nat) (f : Lease → Lease) : (updLease s c slot f).memory = s.memory := rfl
@[simp] theorem updLease_exec (s : State) (c slot : Nat) (f : Lease → Lease) : (updLease s c slot f).exec = s.exec := rfl
@[simp] theorem updLease_cores (s : State) (c slot : Nat) (f : Lease → Lease) : (updLease s c slot f).cores = s.cores := rfl
@[simp] theorem updOrder_mem (s : State) (c i g : Nat) (f : OrderEntry → OrderEntry) : (updOrder s c i g f).mem = s.mem := rfl
@[simp] theorem updOrder_tick (s : State) (c i g : Nat) (f : OrderEntry → OrderEntry) : (updOrder s c i g f).tick = s.tick := rfl
@[simp] theorem updOrder_issuer (s : State) (c i g : Nat) (f : OrderEntry → OrderEntry) : (updOrder s c i g f).issuer = s.issuer := rfl
@[simp] theorem updOrder_agenda (s : State) (c i g : Nat) (f : OrderEntry → OrderEntry) : (updOrder s c i g f).agenda = s.agenda := rfl
@[simp] theorem updOrder_turn (s : State) (c i g : Nat) (f : OrderEntry → OrderEntry) : (updOrder s c i g f).turn = s.turn := rfl
@[simp] theorem updOrder_mysko (s : State) (c i g : Nat) (f : OrderEntry → OrderEntry) : (updOrder s c i g f).mysko = s.mysko := rfl
@[simp] theorem updOrder_fabric (s : State) (c i g : Nat) (f : OrderEntry → OrderEntry) : (updOrder s c i g f).fabric = s.fabric := rfl
@[simp] theorem updOrder_host (s : State) (c i g : Nat) (f : OrderEntry → OrderEntry) : (updOrder s c i g f).host = s.host := rfl
@[simp] theorem updOrder_exec (s : State) (c i g : Nat) (f : OrderEntry → OrderEntry) : (updOrder s c i g f).exec = s.exec := rfl
@[simp] theorem updOrder_ctxs (s : State) (c i g : Nat) (f : OrderEntry → OrderEntry) : (updOrder s c i g f).ctxs = s.ctxs := rfl
@[simp] theorem updOrder_cores (s : State) (c i g : Nat) (f : OrderEntry → OrderEntry) : (updOrder s c i g f).cores = s.cores := rfl
@[simp] theorem updSet_mem (s : State) (peer : Nat) (out : Bool) (set : Nat) (f : LaneSet → LaneSet) : (updSet s peer out set f).mem = s.mem := rfl
@[simp] theorem updSet_tick (s : State) (peer : Nat) (out : Bool) (set : Nat) (f : LaneSet → LaneSet) : (updSet s peer out set f).tick = s.tick := rfl
@[simp] theorem updSet_issuer (s : State) (peer : Nat) (out : Bool) (set : Nat) (f : LaneSet → LaneSet) : (updSet s peer out set f).issuer = s.issuer := rfl
@[simp] theorem updSet_agenda (s : State) (peer : Nat) (out : Bool) (set : Nat) (f : LaneSet → LaneSet) : (updSet s peer out set f).agenda = s.agenda := rfl
@[simp] theorem updSet_turn (s : State) (peer : Nat) (out : Bool) (set : Nat) (f : LaneSet → LaneSet) : (updSet s peer out set f).turn = s.turn := rfl
@[simp] theorem updSet_mysko (s : State) (peer : Nat) (out : Bool) (set : Nat) (f : LaneSet → LaneSet) : (updSet s peer out set f).mysko = s.mysko := rfl
@[simp] theorem updSet_host (s : State) (peer : Nat) (out : Bool) (set : Nat) (f : LaneSet → LaneSet) : (updSet s peer out set f).host = s.host := rfl
@[simp] theorem updSet_memory (s : State) (peer : Nat) (out : Bool) (set : Nat) (f : LaneSet → LaneSet) : (updSet s peer out set f).memory = s.memory := rfl
@[simp] theorem updSet_exec (s : State) (peer : Nat) (out : Bool) (set : Nat) (f : LaneSet → LaneSet) : (updSet s peer out set f).exec = s.exec := rfl
@[simp] theorem updSet_ctxs (s : State) (peer : Nat) (out : Bool) (set : Nat) (f : LaneSet → LaneSet) : (updSet s peer out set f).ctxs = s.ctxs := rfl
@[simp] theorem updSet_cores (s : State) (peer : Nat) (out : Bool) (set : Nat) (f : LaneSet → LaneSet) : (updSet s peer out set f).cores = s.cores := rfl
@[simp] theorem updLink_mem (s : State) (peer : Nat) (f : PeerLink → PeerLink) : (updLink s peer f).mem = s.mem := rfl
@[simp] theorem updLink_tick (s : State) (peer : Nat) (f : PeerLink → PeerLink) : (updLink s peer f).tick = s.tick := rfl
@[simp] theorem updLink_issuer (s : State) (peer : Nat) (f : PeerLink → PeerLink) : (updLink s peer f).issuer = s.issuer := rfl
@[simp] theorem updLink_agenda (s : State) (peer : Nat) (f : PeerLink → PeerLink) : (updLink s peer f).agenda = s.agenda := rfl
@[simp] theorem updLink_turn (s : State) (peer : Nat) (f : PeerLink → PeerLink) : (updLink s peer f).turn = s.turn := rfl
@[simp] theorem updLink_mysko (s : State) (peer : Nat) (f : PeerLink → PeerLink) : (updLink s peer f).mysko = s.mysko := rfl
@[simp] theorem updLink_host (s : State) (peer : Nat) (f : PeerLink → PeerLink) : (updLink s peer f).host = s.host := rfl
@[simp] theorem updLink_memory (s : State) (peer : Nat) (f : PeerLink → PeerLink) : (updLink s peer f).memory = s.memory := rfl
@[simp] theorem updLink_exec (s : State) (peer : Nat) (f : PeerLink → PeerLink) : (updLink s peer f).exec = s.exec := rfl
@[simp] theorem updLink_ctxs (s : State) (peer : Nat) (f : PeerLink → PeerLink) : (updLink s peer f).ctxs = s.ctxs := rfl
@[simp] theorem updLink_cores (s : State) (peer : Nat) (f : PeerLink → PeerLink) : (updLink s peer f).cores = s.cores := rfl
@[simp] theorem updHwQueue_mem (s : State) (q : Nat) (f : HwQueue → HwQueue) : (updHwQueue s q f).mem = s.mem := rfl
@[simp] theorem updHwQueue_tick (s : State) (q : Nat) (f : HwQueue → HwQueue) : (updHwQueue s q f).tick = s.tick := rfl
@[simp] theorem updHwQueue_issuer (s : State) (q : Nat) (f : HwQueue → HwQueue) : (updHwQueue s q f).issuer = s.issuer := rfl
@[simp] theorem updHwQueue_agenda (s : State) (q : Nat) (f : HwQueue → HwQueue) : (updHwQueue s q f).agenda = s.agenda := rfl
@[simp] theorem updHwQueue_turn (s : State) (q : Nat) (f : HwQueue → HwQueue) : (updHwQueue s q f).turn = s.turn := rfl
@[simp] theorem updHwQueue_mysko (s : State) (q : Nat) (f : HwQueue → HwQueue) : (updHwQueue s q f).mysko = s.mysko := rfl
@[simp] theorem updHwQueue_fabric (s : State) (q : Nat) (f : HwQueue → HwQueue) : (updHwQueue s q f).fabric = s.fabric := rfl
@[simp] theorem updHwQueue_memory (s : State) (q : Nat) (f : HwQueue → HwQueue) : (updHwQueue s q f).memory = s.memory := rfl
@[simp] theorem updHwQueue_exec (s : State) (q : Nat) (f : HwQueue → HwQueue) : (updHwQueue s q f).exec = s.exec := rfl
@[simp] theorem updHwQueue_ctxs (s : State) (q : Nat) (f : HwQueue → HwQueue) : (updHwQueue s q f).ctxs = s.ctxs := rfl
@[simp] theorem updHwQueue_cores (s : State) (q : Nat) (f : HwQueue → HwQueue) : (updHwQueue s q f).cores = s.cores := rfl
@[simp] theorem State.memWrite_tick (s : State) (a : Nat) (b : Byte) : (s.memWrite a b).tick = s.tick := rfl
@[simp] theorem State.memWrite_issuer (s : State) (a : Nat) (b : Byte) : (s.memWrite a b).issuer = s.issuer := rfl
@[simp] theorem State.memWrite_agenda (s : State) (a : Nat) (b : Byte) : (s.memWrite a b).agenda = s.agenda := rfl
@[simp] theorem State.memWrite_turn (s : State) (a : Nat) (b : Byte) : (s.memWrite a b).turn = s.turn := rfl
@[simp] theorem State.memWrite_mysko (s : State) (a : Nat) (b : Byte) : (s.memWrite a b).mysko = s.mysko := rfl
@[simp] theorem State.memWrite_fabric (s : State) (a : Nat) (b : Byte) : (s.memWrite a b).fabric = s.fabric := rfl
@[simp] theorem State.memWrite_host (s : State) (a : Nat) (b : Byte) : (s.memWrite a b).host = s.host := rfl
@[simp] theorem State.memWrite_memory (s : State) (a : Nat) (b : Byte) : (s.memWrite a b).memory = s.memory := rfl
@[simp] theorem State.memWrite_exec (s : State) (a : Nat) (b : Byte) : (s.memWrite a b).exec = s.exec := rfl
@[simp] theorem State.memWrite_ctxs (s : State) (a : Nat) (b : Byte) : (s.memWrite a b).ctxs = s.ctxs := rfl
@[simp] theorem State.memWrite_cores (s : State) (a : Nat) (b : Byte) : (s.memWrite a b).cores = s.cores := rfl
@[simp] theorem physWriteByte_tick (s : State) (a : Nat) (b : Byte) : (physWriteByte s a b).tick = s.tick := rfl
@[simp] theorem physWriteByte_issuer (s : State) (a : Nat) (b : Byte) : (physWriteByte s a b).issuer = s.issuer := rfl
@[simp] theorem physWriteByte_agenda (s : State) (a : Nat) (b : Byte) : (physWriteByte s a b).agenda = s.agenda := rfl
@[simp] theorem physWriteByte_turn (s : State) (a : Nat) (b : Byte) : (physWriteByte s a b).turn = s.turn := rfl
@[simp] theorem physWriteByte_mysko (s : State) (a : Nat) (b : Byte) : (physWriteByte s a b).mysko = s.mysko := rfl
@[simp] theorem physWriteByte_fabric (s : State) (a : Nat) (b : Byte) : (physWriteByte s a b).fabric = s.fabric := rfl
@[simp] theorem physWriteByte_host (s : State) (a : Nat) (b : Byte) : (physWriteByte s a b).host = s.host := rfl
@[simp] theorem physWriteByte_exec (s : State) (a : Nat) (b : Byte) : (physWriteByte s a b).exec = s.exec := rfl
@[simp] theorem physWriteByte_ctxs (s : State) (a : Nat) (b : Byte) : (physWriteByte s a b).ctxs = s.ctxs := rfl
@[simp] theorem physWriteByte_cores (s : State) (a : Nat) (b : Byte) : (physWriteByte s a b).cores = s.cores := rfl

/-! ### What the readers of records see -/

theorem find_map_upd {α : Type} (key : α → Nat) (l : List α) (id n : Nat) (f : α → α) (hf : ∀ x, key (f x) = key x) :
    (l.map fun x => if key x == id then f x else x).find? (fun x => key x == n) =
      (l.find? fun x => key x == n).map fun x => if n = id then f x else x := by
  induction l with
  | nil => rfl
  | cons x t ih =>
    by_cases h : key x = id <;> by_cases h' : key x = n <;> simp_all

/-- A group changed is the group found; every other group is found as before. -/
theorem findGroup_updGroup (s : State) (gid n : Nat) (f : Group → Group) (hf : ∀ g, (f g).gid = g.gid) :
    findGroup (updGroup s gid f) n = (findGroup s n).map fun g => if n = gid then f g else g :=
  find_map_upd Group.gid s.exec.groups gid n f hf

theorem findGroup_updPath (s : State) (gid e n : Nat) (f : Path → Path) :
    findGroup (updPath s gid e f) n =
      (findGroup s n).map fun g => if n = gid then { g with paths := g.paths.modify e f } else g :=
  findGroup_updGroup s gid n _ fun _ => rfl

theorem findPair_updPair (s : State) (id n : Nat) (f : Pair → Pair) (hf : ∀ p, (f p).id = p.id) :
    findPair (updPair s id f) n = (findPair s n).map fun p => if n = id then f p else p :=
  find_map_upd Pair.id s.exec.pairs id n f hf

theorem findCohort_updCohort (s : State) (id n : Nat) (f : Cohort → Cohort) (hf : ∀ p, (f p).id = p.id) :
    findCohort (updCohort s id f) n = (findCohort s n).map fun p => if n = id then f p else p :=
  find_map_upd Cohort.id s.exec.cohorts id n f hf

theorem findOp_updOp (s : State) (id n : Nat) (f : Op → Op) (hf : ∀ o, (f o).id = o.id) :
    findOp (updOp s id f) n = (findOp s n).map fun o => if n = id then f o else o :=
  find_map_upd Op.id s.exec.ops id n f hf

theorem getCtx_updCtx (s : State) (c n : Nat) (f : Ctx → Ctx) (h : n < s.ctxs.length) :
    getCtx (updCtx s c f) n = if c = n then f (getCtx s n) else getCtx s n := by
  unfold getCtx updCtx
  rw [List.getD_eq_getElem _ _ (by simpa using h), List.getD_eq_getElem _ _ h, List.getElem_modify]

theorem getCore_updCore (s : State) (c n : Nat) (f : Core → Core) (h : n < s.cores.length) :
    getCore (updCore s c f) n = if c = n then f (getCore s n) else getCore s n := by
  unfold getCore updCore
  rw [List.getD_eq_getElem _ _ (by simpa using h), List.getD_eq_getElem _ _ h, List.getElem_modify]

/-- P15 reads as all ones and ignores writes; what a register write leaves (R58). -/
@[simp] theorem Group.setVreg_sregs (g : Group) (n : Nat) (v : Lanes) : (g.setVreg n v).sregs = g.sregs := rfl
@[simp] theorem Group.setVreg_preds (g : Group) (n : Nat) (v : Lanes) : (g.setVreg n v).preds = g.preds := rfl
@[simp] theorem Group.setVreg_paths (g : Group) (n : Nat) (v : Lanes) : (g.setVreg n v).paths = g.paths := rfl
@[simp] theorem Group.setVreg_gid (g : Group) (n : Nat) (v : Lanes) : (g.setVreg n v).gid = g.gid := rfl
@[simp] theorem Group.setSreg_vregs (g : Group) (n : Nat) (v : Word) : (g.setSreg n v).vregs = g.vregs := rfl
@[simp] theorem Group.setSreg_preds (g : Group) (n : Nat) (v : Word) : (g.setSreg n v).preds = g.preds := rfl
@[simp] theorem Group.setSreg_paths (g : Group) (n : Nat) (v : Word) : (g.setSreg n v).paths = g.paths := rfl
@[simp] theorem Group.setSreg_gid (g : Group) (n : Nat) (v : Word) : (g.setSreg n v).gid = g.gid := rfl

end Sys2Proof.Machine
end

