-- ==== Sys2Proof/Laws/Issue.lean ====
section
/-!
SUPPORT. What the shared operations of issue can do, said once: how an instruction's act ends, when an event, a command or a host
access happens, and which fields a register write, a queue operation and a counter leave.
-/

namespace Sys2Proof.Machine

open Sys2Proof.Safety

/-! ### Instruction words -/

/-- Without an issuing group a word is refused by name. -/
theorem issueWord_noIssuer {s : State} (i : Instr) (act : State → Slot → Act) (h : currentSlot s = none) :
    issueWord s i act = .refused .noIssuer := by simp [issueWord, h]

/-- A word whose head is held back has no effect of its own: its head waits, or its poisoned entry traps (R31, R65). -/
theorem issueWord_gated {s t : State} {sl : Slot} {i : Instr} (act : State → Slot → Act) (h : currentSlot s = some sl)
    (hg : headGate s sl i = some t) : issueWord s i act = .next t := by simp [issueWord, h, hg]

/-- A word that issues has the effect of its act. -/
theorem issueWord_issues {s : State} {sl : Slot} {i : Instr} (act : State → Slot → Act) (h : Issues s sl i) :
    issueWord s i act = .next (settle s sl i (act (noteIssued s sl) sl)) := by simp [issueWord, h.1, h.2]

/-- Everything that issuing a word can do. -/
theorem issueWord_next {s t : State} {i : Instr} {act : State → Slot → Act} (h : issueWord s i act = .next t) :
    ∃ sl, currentSlot s = some sl ∧
      (headGate s sl i = some t ∨ (Issues s sl i ∧ t = settle s sl i (act (noteIssued s sl) sl))) := by
  unfold issueWord at h
  split at h
  · cases h
  · rename_i sl hs
    refine ⟨sl, hs, ?_⟩
    split at h
    · rename_i u hu; cases h; exact .inl hu
    · rename_i hg; cases h; exact .inr ⟨⟨hs, hg⟩, rfl⟩

/-- Issuing a word never faults, and is refused for want of an issuer only. -/
theorem issueWord_refused {s : State} {i : Instr} {act : State → Slot → Act} {r : Refusal} (h : issueWord s i act = .refused r) :
    currentSlot s = none ∧ r = .noIssuer := by
  unfold issueWord at h
  split at h
  · rename_i hs; cases h; exact ⟨hs, rfl⟩
  · split at h <;> cases h

theorem issueWord_fault {s : State} {i : Instr} {act : State → Slot → Act} (x : Fault) : issueWord s i act ≠ .fault x := by
  intro h
  unfold issueWord at h
  split at h
  · cases h
  · split at h <;> cases h

theorem issueWord_done {s t : State} {sl : Slot} {i : Instr} {act : State → Slot → Act} (h : Issues s sl i)
    (ha : act (noteIssued s sl) sl = .done t) : issueWord s i act = .next (after i sl t) := by
  rw [issueWord_issues act h, ha]; rfl

theorem issueWord_wait {s t : State} {sl : Slot} {i : Instr} {act : State → Slot → Act} (h : Issues s sl i)
    (ha : act (noteIssued s sl) sl = .wait t) : issueWord s i act = .next (headWaits (unissued s t) sl) := by
  rw [issueWord_issues act h, ha]; rfl

theorem issueWord_cause {s t : State} {sl : Slot} {i : Instr} {act : State → Slot → Act} {c : Cause} (h : Issues s sl i)
    (ha : act (noteIssued s sl) sl = .cause t c) : issueWord s i act = .next (afterCause i sl t c) := by
  rw [issueWord_issues act h, ha]; rfl

theorem issueWord_goto {s t : State} {sl : Slot} {i : Instr} {act : State → Slot → Act} {p : Dword} (h : Issues s sl i)
    (ha : act (noteIssued s sl) sl = .goto t p) (hb : badTarget (noteIssued s sl) sl.g p = false) :
    issueWord s i act = .next (afterTransfer i sl t p) := by
  rw [issueWord_issues act h, ha]; simp [settle, hb, afterTransfer]

theorem issueWord_badTarget {s t : State} {sl : Slot} {i : Instr} {act : State → Slot → Act} {p : Dword} (h : Issues s sl i)
    (ha : act (noteIssued s sl) sl = .goto t p) (hb : badTarget (noteIssued s sl) sl.g p = true) :
    issueWord s i act = .next (badTargetTrap (noteIssued s sl) sl p) := by
  rw [issueWord_issues act h, ha]; simp [settle, hb]

theorem issueWord_jump {s t : State} {sl : Slot} {i : Instr} {act : State → Slot → Act} {p : Dword} (h : Issues s sl i)
    (ha : act (noteIssued s sl) sl = .jump t p) : issueWord s i act = .next (afterTransfer i sl t p) := by
  rw [issueWord_issues act h, ha]; rfl

theorem issueWord_leave {s t : State} {sl : Slot} {i : Instr} {act : State → Slot → Act} (h : Issues s sl i)
    (ha : act (noteIssued s sl) sl = .leave t) :
    issueWord s i act = .next (freeUnit (countIssue t sl i false) sl.run.core sl.run.unit) := by
  rw [issueWord_issues act h, ha]; rfl

theorem issueWord_park {s t : State} {sl : Slot} {i : Instr} {act : State → Slot → Act} (h : Issues s sl i)
    (ha : act (noteIssued s sl) sl = .park t) :
    issueWord s i act = .next (stopIfAsked (freeUnit (unissued s t) sl.run.core sl.run.unit) sl.run.gid sl.run.entry) := by
  rw [issueWord_issues act h, ha]; rfl

theorem issueWord_stall {s : State} {sl : Slot} {i : Instr} {act : State → Slot → Act} (h : Issues s sl i)
    (ha : act (noteIssued s sl) sl = .stall) : issueWord s i act = .next { s with issuer := none } := by
  rw [issueWord_issues act h, ha]; rfl

/-- A slot behind the head has nothing before its own effect. -/
theorem headGate_behind {s : State} {sl : Slot} (i : Instr) (h : sl.run.idx ≠ 0) : headGate s sl i = none := by
  simp [headGate, h]

/-- The issuing slot is made of records that the state holds. -/
theorem currentSlot_some {s : State} {sl : Slot} (h : currentSlot s = some sl) :
    s.issuer = some (sl.run.core, sl.run.unit) ∧ sl.run.unit ≤ 4 ∧ findRun s sl.run.core sl.run.unit = some sl.run ∧
    findGroup s sl.run.gid = some sl.g ∧ sl.g.gid = sl.run.gid ∧ findPair s sl.g.pair = some sl.pair ∧
    sl.p = sl.g.path sl.run.entry := by
  unfold currentSlot at h
  split at h
  · cases h
  · rename_i c u hi
    split at h
    · cases h
    · rename_i hu
      split at h
      · cases h
      · rename_i r hr
        split at h
        · cases h
        · rename_i g hg
          split at h
          · cases h
          · rename_i pr hp
            cases h
            have hk := List.find?_some hr
            simp only [Bool.and_eq_true, beq_iff_eq] at hk
            obtain ⟨rfl, rfl⟩ := hk
            exact ⟨hi, by simpa using hu, hr, hg, by simpa using List.find?_some hg, hp, rfl⟩

/-- Between two slots of a run only the run's index moves (R29). -/
theorem advance_inside {s : State} {sl : Slot} (h : sl.last = false) :
    advance s sl = updRun s sl.run.core sl.run.unit fun r => { r with idx := r.idx + 1 } := by simp [advance, h]

theorem advance_last {s : State} {sl : Slot} (h : sl.last = true) : advance s sl = finishRun s sl (nextPc sl.pc) := by
  simp [advance, h]

/-- A boundary with nothing pending for the path takes nothing (R51). -/
theorem atBoundary_quiet {s : State} {gid e : Nat} (h : ∀ g, findGroup s gid = some g → ∀ x ∈ g.pending, x.1 ≠ e) :
    atBoundary s gid e = s := by
  unfold atBoundary
  split
  · rfl
  · rename_i g hg
    split
    · rfl
    · rename_i q hq
      have hx := List.find?_some hq
      exact absurd (by simpa using hx) (h g hg _ (List.mem_of_find?_eq_some hq))

/-! ### Press commands -/

theorem issuePress_noIssuer {s : State} (i : Instr) (act : State → PSlot → PAct) (h : currentPress s = none) :
    issuePress s i act = .refused .noIssuer := by simp [issuePress, h]

/-- A Press command has the effect of its act. -/
theorem issuePress_issues {s : State} {ps : PSlot} (i : Instr) (act : State → PSlot → PAct) (h : currentPress s = some ps) :
    issuePress s i act = .next (pressSettle s ps i (act s ps)) := by simp [issuePress, h]

/-- Everything that issuing a Press command can do. -/
theorem issuePress_next {s t : State} {i : Instr} {act : State → PSlot → PAct} (h : issuePress s i act = .next t) :
    ∃ ps, currentPress s = some ps ∧ t = pressSettle s ps i (act s ps) := by
  unfold issuePress at h
  split at h
  · cases h
  · rename_i ps hs; cases h; exact ⟨ps, hs, rfl⟩

theorem issuePress_done {s t : State} {ps : PSlot} {i : Instr} {act : State → PSlot → PAct} (h : currentPress s = some ps)
    (ha : act s ps = .done t) : issuePress s i act = .next (afterPress i ps t) := by
  rw [issuePress_issues i act h, ha]; rfl

theorem issuePress_goto {s t : State} {ps : PSlot} {i : Instr} {act : State → PSlot → PAct} {p : Dword} (h : currentPress s = some ps)
    (ha : act s ps = .goto t p) (hb : badTargetAt s ps.p.core ps.cohort.ctx p = false) :
    issuePress s i act = .next (pressFinish (pressNoted (pressCount t ps i) ps) ps p) := by
  rw [issuePress_issues i act h, ha]; simp [pressSettle, hb]

theorem issuePress_wait {s : State} {ps : PSlot} {i : Instr} {act : State → PSlot → PAct} (h : currentPress s = some ps)
    (ha : act s ps = .wait) : issuePress s i act =
      .next (ps.upd (freeUnit s ps.run.core ps.run.unit) fun p => { p with st := .waiting }) := by
  rw [issuePress_issues i act h, ha]; rfl

theorem issuePress_stall {s t : State} {ps : PSlot} {i : Instr} {act : State → PSlot → PAct} (h : currentPress s = some ps)
    (ha : act s ps = .stall t) : issuePress s i act = .next { t with issuer := none } := by
  rw [issuePress_issues i act h, ha]; rfl

theorem issuePress_cause {s : State} {ps : PSlot} {i : Instr} {act : State → PSlot → PAct} {code : Nat} (h : currentPress s = some ps)
    (ha : act s ps = .cause code) : issuePress s i act = .next (pressStop s ps.p.core ps.p.num ps.pc code 0) := by
  rw [issuePress_issues i act h, ha]; rfl

/-! ### Events, commands and host accesses -/

/-- An event happens exactly when it has a next state; otherwise it is refused by name. -/
theorem event_next {o : Option State} {t : State} : event o = .next t ↔ o = some t := by
  cases o <;> simp [event]

theorem event_refused {o : Option State} {r : Refusal} : event o = .refused r ↔ o = none ∧ r = .eventNotEnabled := by
  cases o <;> simp [event, eq_comm]

theorem eventIf_next {c : Bool} {s t : State} : eventIf c s = .next t ↔ c = true ∧ s = t := by
  cases c <;> simp [eventIf, event]

theorem eventIf_true (s : State) : eventIf true s = .next s := rfl
theorem eventIf_false (s : State) : eventIf false s = .refused .eventNotEnabled := rfl

/-- A command in a phase that serves it runs its checks and its effect (R411, R424). -/
theorem command_commanded {s : State} {slot status : Nat} {phases : List Phase} (t : State) (h : Commanded s slot phases) :
    command s slot phases status t = if status ≠ 0 then .next (mailDone s slot status) else .next t := by
  obtain ⟨h0, h1, h2, h3, h4, h5⟩ := h
  unfold command
  rw [if_neg (Nat.not_le.mpr h1), if_neg (by simp [h0, h2, h4]), if_neg (by simp [h5]), if_neg (by simp [List.contains_iff_mem.mp h3])]

/-- A command in a phase that serves it, with its checks passed, has its effect (R411). -/
theorem command_next {s : State} {slot : Nat} {phases : List Phase} (t : State) (h : Commanded s slot phases) :
    command s slot phases 0 t = .next t := by rw [command_commanded t h]; rfl

/-- A command whose checks fail answers its status and does nothing else. -/
theorem command_status {s : State} {slot status : Nat} {phases : List Phase} (t : State) (h : Commanded s slot phases)
    (hs : status ≠ 0) : command s slot phases status t = .next (mailDone s slot status) := by
  rw [command_commanded t h, if_pos hs]

/-- A host access to the registers of a queue happens when the device is up (R424). -/
theorem hostWrite_next {s t : State} {q : Nat} (hq : q < 64) (hb : barUp s = true) : hostWrite s q t = .next t := by
  simp [hostWrite, hb, Nat.not_le.mpr hq]

/-! ### The frames of the register and queue operations -/

/-- The second state differs from the first in registers, paths, queues, runs, scheduling and operations only. -/
def RegistersOnly (s t : State) : Prop :=
  t = { s with exec := { s.exec with groups := t.exec.groups, pairs := t.exec.pairs, runs := t.exec.runs, scheds := t.exec.scheds,
                                     ops := t.exec.ops, seq := t.exec.seq } }

theorem RegistersOnly.refl (s : State) : RegistersOnly s s := rfl

theorem RegistersOnly.trans {s t u : State} (h : RegistersOnly s t) (k : RegistersOnly t u) : RegistersOnly s u := by
  unfold RegistersOnly at *; rw [k, h]

theorem noteIssued_only (s : State) (sl : Slot) : RegistersOnly s (noteIssued s sl) := rfl
theorem updGroup_only (s : State) (gid : Nat) (f : Group → Group) : RegistersOnly s (updGroup s gid f) := rfl
theorem updPath_only (s : State) (gid e : Nat) (f : Path → Path) : RegistersOnly s (updPath s gid e f) := rfl
theorem updPair_only (s : State) (id : Nat) (f : Pair → Pair) : RegistersOnly s (updPair s id f) := rfl
theorem updRun_only (s : State) (core unit : Nat) (f : Run → Run) : RegistersOnly s (updRun s core unit f) := rfl
theorem pushReady_only (s : State) (gid pair q : Nat) (v : Lanes) : RegistersOnly s (pushReady s gid pair q v) := rfl

/-- A capture writes a latch of the run (R199). -/
theorem capture_only (s : State) (sl : Slot) (c : BitVec 2) (v : Lanes) : RegistersOnly s (capture s sl c v) := by
  unfold capture; split
  · rfl
  · rfl

/-- A vector result goes to a register, to a latch, or to a queue (R58, R199). -/
theorem writeVec_only (s : State) (sl : Slot) (d : Dst) (eff : Mask) (v : Lanes) : RegistersOnly s (writeVec s sl d eff v) := by
  unfold writeVec; dsimp only
  generalize (if decide (240 ≤ d.reg.toNat) = true then (Lanes.masked eff v).map (cutLane 32) else Lanes.masked eff v) = w
  refine (capture_only s sl d.cap w).trans ?_
  split
  · exact pushReady_only _ _ _ _ _
  · split
    · exact .refl _
    · exact updGroup_only _ _ _

theorem writePredLanes_only (s : State) (sl : Slot) (d : Dst) (eff v : Mask) : RegistersOnly s (writePredLanes s sl d eff v) := by
  unfold writePredLanes; split
  · exact .refl _
  · exact updGroup_only _ _ _

theorem writePred_only (s : State) (sl : Slot) (d : Dst) (v : Mask) : RegistersOnly s (writePred s sl d v) := by
  unfold writePred; split
  · exact .refl _
  · exact updGroup_only _ _ _

theorem writeUni_only (s : State) (sl : Slot) (d : Dst) (v : Word) : RegistersOnly s (writeUni s sl d v) := by
  refine (capture_only s sl d.cap (List.replicate 64 (v.zeroExtend 64))).trans ?_
  unfold writeUni; dsimp only
  split
  · exact .refl _
  · exact updGroup_only _ _ _

theorem writePair_only (s : State) (sl : Slot) (d : Dst) (v : Dword) : RegistersOnly s (writePair s sl d v) := by
  refine (capture_only s sl d.cap (List.replicate 64 v)).trans ?_
  unfold writePair; dsimp only
  split
  · exact .refl _
  · exact updGroup_only _ _ _

/-- A pop frees the front entry, and with a poisoned one its record and operation (R63, R66). -/
theorem popQueue_only (s : State) (pair q : Nat) : RegistersOnly s (popQueue s pair q) := by
  unfold popQueue
  split
  · exact .refl _
  · split
    · exact .refl _
    · dsimp only
      split
      · exact updPair_only _ _ _
      · split <;> rfl

theorem popPorts_only (s : State) (sl : Slot) (qs : List Nat) : RegistersOnly s (popPorts s sl qs) := by
  induction qs generalizing s with
  | nil => exact .refl _
  | cons q qs ih => exact (popQueue_only s sl.g.pair q).trans (ih _)

/-- A 64-lane, predicate or uniform result leaves everything else of the machine (R58, R63, R240). -/
theorem vecResult_only (i : Instr) (h : Head) (s : State) (sl : Slot) (v : Lanes) : RegistersOnly s (vecResult i h s sl v) :=
  ((noteIssued_only s sl).trans (writeVec_only _ _ _ _ _)).trans (popPorts_only _ _ _)

theorem predResult_only (i : Instr) (h : Head) (s : State) (sl : Slot) (v : Mask) : RegistersOnly s (predResult i h s sl v) :=
  ((noteIssued_only s sl).trans (writePredLanes_only _ _ _ _ _)).trans (popPorts_only _ _ _)

theorem uniResult_only (h : Head) (dd : Bool) (s : State) (sl : Slot) (v : Nat) : RegistersOnly s (uniResult h dd s sl v) := by
  unfold uniResult; split
  · exact (noteIssued_only s sl).trans (writePair_only _ _ _ _)
  · exact (noteIssued_only s sl).trans (writeUni_only _ _ _ _)



/-- Counting an issue changes the counters of the group's context only (R434). -/
theorem countIssue_other (s : State) (sl : Slot) (i : Instr) (c : Bool) :
    (countIssue s sl i c).mem = s.mem ∧ (countIssue s sl i c).exec = s.exec ∧ (countIssue s sl i c).memory = s.memory ∧
      (countIssue s sl i c).mysko = s.mysko ∧ (countIssue s sl i c).fabric = s.fabric ∧ (countIssue s sl i c).host = s.host ∧
      (countIssue s sl i c).cores = s.cores ∧ (countIssue s sl i c).issuer = s.issuer ∧ (countIssue s sl i c).tick = s.tick := by
  have fold : ∀ (l : List (Nat × Nat)) (s : State), let t := l.foldl (fun s x => assayAdd s sl.g.ctx x.1 x.2) s
      t.mem = s.mem ∧ t.exec = s.exec ∧ t.memory = s.memory ∧ t.mysko = s.mysko ∧ t.fabric = s.fabric ∧ t.host = s.host ∧
        t.cores = s.cores ∧ t.issuer = s.issuer ∧ t.tick = s.tick := by
    intro l
    induction l with
    | nil => intro s; exact ⟨rfl, rfl, rfl, rfl, rfl, rfl, rfl, rfl, rfl⟩
    | cons x l ih => intro s; exact ih (assayAdd s sl.g.ctx x.1 x.2)
  unfold countIssue
  dsimp only
  split
  · split
    · exact ⟨rfl, rfl, rfl, rfl, rfl, rfl, rfl, rfl, rfl⟩
    · exact fold _ _
  · exact ⟨rfl, rfl, rfl, rfl, rfl, rfl, rfl, rfl, rfl⟩

end Sys2Proof.Machine
end

