-- ==== Sys2Proof/Laws/Memory.lean ====
section
/-!
SUPPORT. Memory's canonical form: every operation that writes memory keeps it, and reset has it (log entries 2 and 4).
-/

namespace Sys2Proof.Machine

open Sys2Proof.Safety

/-- A rising list's tail rises. -/
theorem Memory.rising_tail {c : Host.Cell} {t : List Host.Cell} (h : Memory.rising (c :: t) = true) : Memory.rising t = true := by
  cases t with
  | nil => rfl
  | cons d t => simp only [Memory.rising, Bool.and_eq_true] at h; exact h.2

/-- A rising list is a head below every later address, and a rising tail. -/
theorem Memory.rising_cons {c : Host.Cell} {t : List Host.Cell} :
    Memory.rising (c :: t) = true ↔ (∀ x ∈ t, c.1 < x.1) ∧ Memory.rising t = true := by
  induction t generalizing c with
  | nil => simp [Memory.rising]
  | cons d t ih =>
    simp only [Memory.rising, Bool.and_eq_true, decide_eq_true_eq, List.mem_cons, forall_eq_or_imp]
    constructor
    · rintro ⟨h, hr⟩
      exact ⟨⟨h, fun x hx => h.trans ((ih.mp hr).1 x hx)⟩, hr⟩
    · rintro ⟨⟨h, -⟩, hr⟩
      exact ⟨h, hr⟩

/-- Every entry of a written list is the written one or an old one. -/
theorem Memory.mem_write {e : Nat} {m : List Host.Cell} {a : Nat} {b : Byte} {c : Host.Cell} (h : c ∈ Memory.write e m a b) :
    (c = (a, b) ∧ b ≠ Memory.unlisted e a) ∨ c ∈ m := by
  induction m with
  | nil =>
    simp only [Memory.write] at h
    split at h <;> simp_all
  | cons d t ih =>
    simp only [Memory.write] at h
    split at h
    · split at h <;> simp_all
    · split at h
      · split at h
        · exact .inr (List.mem_cons_of_mem _ h)
        · rcases List.mem_cons.mp h with rfl | h
          · exact .inl ⟨rfl, ‹_›⟩
          · exact .inr (List.mem_cons_of_mem _ h)
      · rcases List.mem_cons.mp h with rfl | h
        · exact .inr List.mem_cons_self
        · exact (ih h).imp_right (List.mem_cons_of_mem _)

/-- A write keeps the canonical form. -/
theorem Memory.write_wf {e : Nat} {m : List Host.Cell} (a : Nat) (b : Byte) (h : Memory.wf e m) :
    Memory.wf e (Memory.write e m a b) := by
  refine ⟨?_, fun c hc => ?_⟩
  · have hr := h.1
    clear h
    induction m with
    | nil => simp only [Memory.write]; split <;> rfl
    | cons d t ih =>
      have ht := Memory.rising_cons.mp hr
      simp only [Memory.write]
      split
      · split
        · exact hr
        · refine Memory.rising_cons.mpr ⟨fun x hx => ?_, hr⟩
          rcases List.mem_cons.mp hx with rfl | hx
          · assumption
          · have := ht.1 x hx; omega
      · split
        · split
          · exact ht.2
          · exact Memory.rising_cons.mpr ⟨fun x hx => by have := ht.1 x hx; dsimp only at *; omega, ht.2⟩
        · refine Memory.rising_cons.mpr ⟨fun x hx => ?_, ih ht.2⟩
          rcases Memory.mem_write hx with ⟨rfl, -⟩ | hx
          · simp only; omega
          · exact ht.1 x hx
  · rcases Memory.mem_write hc with ⟨rfl, hb⟩ | hc
    · exact hb
    · exact h.2 c hc

/-- Reset lists nothing, which is canonical. -/
theorem State.reset_memory_wf : MemoryCanonical State.reset := ⟨rfl, by simp [State.reset]⟩

theorem State.memWrite_wf {s : State} (a : Nat) (b : Byte) (h : MemoryCanonical s) : MemoryCanonical (s.memWrite a b) :=
  Memory.write_wf a b h

theorem physWriteByte_wf {s : State} (a : Nat) (b : Byte) (h : MemoryCanonical s) : MemoryCanonical (physWriteByte s a b) :=
  State.memWrite_wf a b h

theorem physWrite_wf {s : State} (a : Nat) (bs : List Byte) (h : MemoryCanonical s) : MemoryCanonical (physWrite s a bs) := by
  induction bs generalizing s a with
  | nil => exact h
  | cons b bs ih => exact ih _ (physWriteByte_wf a b h)

/-- A fold whose every step keeps the canonical form keeps it. -/
theorem foldl_wf {α : Type} {f : State → α → State} (hf : ∀ s x, MemoryCanonical s → MemoryCanonical (f s x)) (l : List α) {s : State}
    (h : MemoryCanonical s) : MemoryCanonical (l.foldl f s) := by
  induction l generalizing s with
  | nil => exact h
  | cons x l ih => exact ih (hf s x h)

/-- A change of the caches leaves memory. -/
theorem onMemory_wf {s : State} (f : MemSide → MemSide) (h : MemoryCanonical s) : MemoryCanonical (s.onMemory f) := h

/-- Counting leaves memory. -/
theorem assayAdd_wf {s : State} (c n k : Nat) (h : MemoryCanonical s) : MemoryCanonical (assayAdd s c n k) := h

/-- An L2 line written back keeps the canonical form (R92). -/
theorem writeBack_wf {s : State} (l : L2Line) (h : MemoryCanonical s) : MemoryCanonical (writeBack s l) := by
  unfold writeBack
  generalize List.range 128 = is
  have key := foldl_wf (f := fun s i => s.memWrite (128 * l.frame + i) (l.data.getD i 0)) (fun s i h => State.memWrite_wf _ _ h) is h
  split
  · by_cases ht : l.tag < 16
    · simpa only [if_pos ht] using assayAdd_wf l.tag 49 128 key
    · simpa only [if_neg ht] using key
  · exact h

/-- Counting a recall of an Owned line leaves memory (R95). -/
theorem recallOwned_wf {s : State} (tag line : Nat) (keep : Option Nat) (h : MemoryCanonical s) :
    MemoryCanonical (recallOwned s tag line keep) := by
  unfold recallOwned
  refine foldl_wf (fun s l h => ?_) _ h
  split
  · exact h
  · exact h

/-- A read at the home leaves memory: it recalls, and is noted (R93 to R95). -/
theorem homeRead_wf {s : State} (c line party : Nat) (h : MemoryCanonical s) : MemoryCanonical (homeRead s c line party) :=
  onMemory_wf _ (onMemory_wf _ (recallOwned_wf _ _ _ (recallOwned_wf _ _ _ h)))

/-- A recall of every L1 copy leaves memory (R94). -/
theorem l1Recall_wf {s : State} (tag line : Nat) (keep : Option Nat) (h : MemoryCanonical s) :
    MemoryCanonical (l1Recall s tag line keep) := onMemory_wf _ (recallOwned_wf tag line keep h)

/-- An eviction keeps the canonical form (R92). -/
theorem l2Evict_wf {s : State} (tag line : Nat) (h : MemoryCanonical s) : MemoryCanonical (l2Evict s tag line) := by
  unfold l2Evict
  split
  · exact h
  · exact onMemory_wf _ (writeBack_wf _ (l1Recall_wf _ _ _ h))

/-- A line that leaves, and the room that a slice makes, keep the canonical form (R92). -/
theorem l2Leave_wf {s : State} (l : L2Line) (h : MemoryCanonical s) : MemoryCanonical (l2Leave s l) := by
  unfold l2Leave
  split
  · exact onMemory_wf _ h
  · exact l2Evict_wf _ _ h

theorem l2Room_wf {s : State} (slice : Nat) (h : MemoryCanonical s) : MemoryCanonical (l2Room s slice) :=
  foldl_wf (fun _ l h => l2Leave_wf l h) _ h

/-- A fill keeps the canonical form (R88). -/
theorem l2Fill_wf {s : State} (c off : Nat) (t : Trans) (whole : Bool) (h : MemoryCanonical s) :
    MemoryCanonical (l2Fill s c off t whole).1 := by
  have key := l2Room_wf (homeSlice s c off) h
  unfold l2Fill
  dsimp only
  split <;> split <;> first | exact onMemory_wf _ (assayAdd_wf _ 48 128 key) | exact onMemory_wf _ key

/-- The lines of page tables that a walk fills keep the canonical form (R87). -/
theorem tableFill_wf {s : State} (c f : Nat) (h : MemoryCanonical s) : MemoryCanonical (tableFill s c f) := by
  unfold tableFill
  split
  · exact h
  · exact onMemory_wf _ (l2Room_wf _ (assayAdd_wf _ 48 128 h))

theorem walkLines_wf {s : State} (c off : Nat) (h : MemoryCanonical s) : MemoryCanonical (walkLines s c off) :=
  foldl_wf (fun _ _ h => tableFill_wf _ _ h) _ h

/-- A translation changes at most the caches and counters (R87). -/
theorem translateAnew_wf {s t : State} {c off : Nat} {x : Trans} (h : MemoryCanonical s) (e : translateAnew s c off = .ok (t, x)) :
    MemoryCanonical t := by
  unfold translateAnew at e
  split at e
  · cases e; exact h
  · split at e
    · cases e; exact onMemory_wf _ (walkLines_wf c off h)
    · cases e

theorem translate_wf {s t : State} {c off : Nat} {x : Trans} (h : MemoryCanonical s) (e : translate s c off = .ok (t, x)) :
    MemoryCanonical t := by
  unfold translate at e
  split at e
  · cases e; exact h
  · exact translateAnew_wf h e

/-- A line that enters keeps the canonical form (R88, R89). -/
theorem l2Enter_wf {s : State} (c off : Nat) (t : Trans) (whole : Bool) (h : MemoryCanonical s) :
    MemoryCanonical (l2Enter s c off t whole).1 := by
  unfold l2Enter
  split
  · split
    · split
      · exact onMemory_wf _ h
      · exact l2Fill_wf _ _ _ _ (l2Evict_wf _ _ h)
    · exact l2Fill_wf _ _ _ _ h
  · exact l2Fill_wf _ _ _ _ h

/-- A line made present keeps the canonical form (R88). -/
theorem l2EnsureFor_wf {s t : State} {c off : Nat} {n : Need} {whole : Bool} {l : L2Line} (h : MemoryCanonical s)
    (e : l2EnsureFor s c off n whole = .ok (t, l)) : MemoryCanonical t := by
  unfold l2EnsureFor at e
  split at e
  · split at e
    · cases e; exact h
    · split at e
      · cases e
      · rename_i u x hu
        split at e
        · cases e; exact onMemory_wf _ (translateAnew_wf h hu)
        · cases e
  · dsimp only at e
    split at e
    · cases e
    · rename_i u x hu
      have hw : MemoryCanonical u := by
        split at hu
        · rename_i v y hv
          split at hu
          · rw [hv] at hu; cases hu; exact translate_wf h hv
          · exact translateAnew_wf (translate_wf h hv) hu
        · exact translate_wf h hu
      split at e
      · cases e
      · split at e
        · cases e
        · injection e with e
          exact (show t = (l2Enter u c off x whole).1 by rw [e]) ▸ l2Enter_wf c off x whole hw

theorem l2Ensure_wf {s t : State} {c off : Nat} {n : Need} {l : L2Line} (h : MemoryCanonical s)
    (e : l2Ensure s c off n = .ok (t, l)) : MemoryCanonical t := l2EnsureFor_wf h e

/-- Reading a byte at its home keeps the canonical form. -/
theorem loadByte_wf {s t : State} {c off : Nat} {b : Byte} (h : MemoryCanonical s) (e : loadByte s c off = .ok (t, b)) :
    MemoryCanonical t := by
  unfold loadByte at e
  split at e
  · cases e; exact l2Ensure_wf h ‹_›
  · cases e

/-- Reading bytes keeps the canonical form. -/
theorem loadBytes_wf {s t : State} {c off n : Nat} {bs : List Byte} (h : MemoryCanonical s) (e : loadBytes s c off n = .ok (t, bs)) :
    MemoryCanonical t := by
  induction n generalizing s t off bs with
  | zero => cases e; exact h
  | succ n ih =>
    unfold loadBytes at e
    split at e
    · cases e
    · split at e
      · cases e
      · cases e; exact ih (loadByte_wf h ‹_›) ‹_›

/-- Writing a byte at its home keeps the canonical form (R111). -/
theorem storeByte_wf {s t : State} {c off : Nat} {b : Byte} (h : MemoryCanonical s) (e : storeByte s c off b = .ok t) :
    MemoryCanonical t := by
  unfold storeByte at e
  split at e
  · rename_i u l hu; cases e; exact (l2Ensure_wf h hu : MemoryCanonical u)
  · cases e

/-- Checking that bytes can be written keeps the canonical form. -/
theorem canWrite_wf {s t : State} {c off n : Nat} {whole : Nat → Bool} (h : MemoryCanonical s)
    (e : canWrite s c whole off n = .ok t) : MemoryCanonical t := by
  induction n generalizing s off with
  | zero => cases e; exact h
  | succ n ih =>
    unfold canWrite at e
    split at e
    · cases e
    · exact ih (l2EnsureFor_wf h ‹_›) e

/-- Writing bytes keeps the canonical form. -/
theorem storeBytes_wf {s t : State} {c off : Nat} {bs : List Byte} (h : MemoryCanonical s) (e : storeBytes s c off bs = .ok t) :
    MemoryCanonical t := by
  have aux : ∀ (bs : List Byte) (s t : State) (off : Nat), MemoryCanonical s → storeBytesAux s c off bs = .ok t → MemoryCanonical t := by
    intro bs
    induction bs with
    | nil => intro s t off h e; cases e; exact h
    | cons b bs ih =>
      intro s t off h e
      unfold storeBytesAux at e
      split at e
      · cases e
      · exact ih _ _ _ (storeByte_wf h ‹_›) e
  unfold storeBytes at e
  split at e
  · cases e
  · exact aux _ _ _ _ (canWrite_wf h ‹_›) e

end Sys2Proof.Machine
end

