-- ==== Sys2Proof/Laws/Access.lean ====
section
/-!
SUPPORT. What sending an operation, opening its destination, fetching a line and entering and leaving the handler do, said once.
-/

namespace Sys2Proof.Machine

open Sys2Proof.Safety

/-- Flits sent change a context's counters and the fabric only (R166, R174). -/
theorem linkSend_frame (s : State) (c peer line ch n : Nat) :
    linkSend s c peer line ch n =
      { s with ctxs := (linkSend s c peer line ch n).ctxs, fabric := (linkSend s c peer line ch n).fabric } := by
  unfold linkSend
  split
  · rfl
  · dsimp only
    split
    · rfl
    · split
      · split <;> rfl
      · split <;> rfl

/-- A request sent, and a message with it, changes a context's counters and the fabric only. -/
theorem sendRequests_frame (s : State) (o : Op) (lanes : Mask) :
    sendRequests s o lanes =
      { s with ctxs := (sendRequests s o lanes).ctxs, fabric := (sendRequests s o lanes).fabric } := by
  unfold sendRequests
  generalize o.requests lanes = l
  induction l generalizing s with
  | nil => rfl
  | cons x l ih =>
    simp only [List.foldl_cons]
    have h := linkSend_frame s o.ctx x.1 x.2.1 o.channel x.2.2
    have hs : ∀ u : State, sendOut u x.1 15 (o.request lanes x.2.1) = { u with fabric := (sendOut u x.1 15 (o.request lanes x.2.1)).fabric } :=
      fun _ => rfl
    generalize linkSend s o.ctx x.1 x.2.1 o.channel x.2.2 = t at h ⊢
    have ht := hs t
    generalize sendOut t x.1 15 (o.request lanes x.2.1) = v at ht ⊢
    have k := ih v
    generalize List.foldl (fun s x => sendOut (linkSend s o.ctx x.1 x.2.1 o.channel x.2.2) x.1 15 (o.request lanes x.2.1)) v l = u at k ⊢
    rw [k, ht, h]

/-- What sending an operation puts on the list of operations: the operation with its orders and the next number (R115). -/
theorem sendOp_ops (s : State) (o : Op) : (sendOp s o).exec.ops = s.exec.ops ++ [{ o.ordered s with id := s.exec.seq }] := by
  have k (m : Mask) : (sendRequests (addOp (fresh s).2 { o.ordered s with id := s.exec.seq })
      { o.ordered s with id := s.exec.seq } m).exec.ops = s.exec.ops ++ [{ o.ordered s with id := s.exec.seq }] := by
    rw [sendRequests_frame]; rfl
  unfold sendOp
  dsimp only
  split <;> split <;> exact k _

/-- The orders that an operation takes on leave what it is: only what it follows is new (R101 to R109). -/
theorem ordered_only (s : State) (o : Op) :
    o.ordered s = { o with after := (o.ordered s).after, rel := (o.ordered s).rel, same := (o.ordered s).same } := by
  unfold Op.ordered
  split
  · rfl
  · split
    · rfl
    · split <;> rfl

/-- Sending an operation leaves memory, its caches, scratchpad and Mysko. -/
theorem sendOp_leaves (s : State) (o : Op) :
    (sendOp s o).mem = s.mem ∧ (sendOp s o).memory = s.memory ∧ (sendOp s o).mysko = s.mysko ∧ (sendOp s o).host = s.host ∧
      (sendOp s o).cores = s.cores ∧ (sendOp s o).exec.allocs = s.exec.allocs ∧ (sendOp s o).exec.pairs = s.exec.pairs ∧
      (sendOp s o).exec.runs = s.exec.runs ∧ (sendOp s o).issuer = s.issuer := by
  unfold sendOp
  generalize o.ordered s = o
  have k (m : Mask) : let u := sendRequests (addOp (fresh s).2 { o with id := s.exec.seq }) { o with id := s.exec.seq } m
      u.mem = s.mem ∧ u.memory = s.memory ∧ u.mysko = s.mysko ∧ u.host = s.host ∧ u.cores = s.cores ∧
      u.exec.allocs = s.exec.allocs ∧ u.exec.pairs = s.exec.pairs ∧ u.exec.runs = s.exec.runs ∧ u.issuer = s.issuer := by
    dsimp only; rw [sendRequests_frame]; exact ⟨rfl, rfl, rfl, rfl, rfl, rfl, rfl, rfl, rfl⟩
  dsimp only
  split <;> split <;> exact k _

theorem pushFilling_only (s : State) (pair q : Nat) (wait : Mask) : RegistersOnly s (pushFilling s pair q wait).1 := rfl

/-- A destination opened: none, a queue entry that will be filled, with its latch captured, or a vector register, which it leaves (R62,
R64, R115). -/
theorem openDst_cases (s : State) (sl : Slot) (d : Dst) (wait : Mask) :
    (d.nwb = true ∧ openDst s sl d wait = (s, .none)) ∨
    (d.nwb = false ∧ 240 ≤ d.reg.toNat ∧
      RegistersOnly (pushFilling s sl.g.pair (d.reg.toNat - 240) wait).1 (openDst s sl d wait).1 ∧
      (openDst s sl d wait).2 = .port (d.reg.toNat - 240) (pushFilling s sl.g.pair (d.reg.toNat - 240) wait).2) ∨
    (d.nwb = false ∧ d.reg.toNat < 240 ∧ openDst s sl d wait = (s, .vreg d.reg.toNat)) := by
  unfold openDst
  cases hn : d.nwb
  · rcases Nat.lt_or_ge d.reg.toNat 240 with hr | hr
    · exact .inr (.inr ⟨rfl, hr, by simp [Nat.not_le.mpr hr]⟩)
    · refine .inr (.inl ⟨rfl, hr, ?_, ?_⟩)
      · rw [if_neg (by simp), if_pos hr]; exact capture_only _ _ _ _
      · rw [if_neg (by simp), if_pos hr]
  · exact .inl ⟨rfl, rfl⟩

theorem openDst_only (s : State) (sl : Slot) (d : Dst) (wait : Mask) : RegistersOnly s (openDst s sl d wait).1 := by
  rcases openDst_cases s sl d wait with ⟨-, h⟩ | ⟨-, -, h, -⟩ | ⟨-, -, h⟩
  · rw [h]; exact .refl s
  · exact (pushFilling_only s sl.g.pair (d.reg.toNat - 240) wait).trans h
  · rw [h]; exact .refl s

/-- A line fetched keeps memory canonical (R191). -/
theorem fetchLine_wf {s t : State} {core c : Nat} {line : Dword} {d : List Byte} (h : MemoryCanonical s)
    (e : fetchLine s core c line = .ok (t, d)) : MemoryCanonical t := by
  unfold fetchLine at e
  split at e
  · cases e
  · split at e
    · cases e
    · split at e
      · cases e; exact h
      · dsimp only at e
        split at e
        · cases e
        · rename_i u l hu
          cases e
          exact onMemory_wf _ (homeRead_wf _ _ _ (l2Ensure_wf h hu))

/-- A path in supervisor that raises a cause ends its group with a handler-fault record (R339). -/
theorem takeTrap_nested {s : State} {gid e : Nat} {g : Group} {c : Cause} (cs : List Cause) (saved : Dword)
    (h : findGroup s gid = some g) (hs : g.sup = some e) :
    ∃ r, takeTrap s gid e (c :: cs) saved =
      groupEnd (updGroup (faultRecord s g.ctx r) gid fun g => { g with sup := some e }) gid := by
  unfold takeTrap
  simp only [h, hs, if_true]
  exact ⟨_, rfl⟩

/-- Without a handler a cause ends its group with a no-handler record (R420). -/
theorem takeTrap_noHandler {s : State} {gid e : Nat} {g : Group} {c : Cause} (cs : List Cause) (saved : Dword)
    (h : findGroup s gid = some g) (hs : g.sup ≠ some e) (he : handlerEntry s g.ctx g.stream = 0) :
    ∃ r, takeTrap s gid e (c :: cs) saved =
      groupEnd (updGroup (faultRecord s g.ctx r) gid fun g => { g with sup := some e }) gid := by
  unfold takeTrap
  simp only [h, hs, he, if_true, if_false]
  exact ⟨_, rfl⟩

end Sys2Proof.Machine
end

