-- ==== Sys2Proof/Tests/Slice0.lean ====
section
/-!
SUPPORT. The model's own tests: words written bit by bit from the encoding tables, ill-formed terms that WellFormed refuses, single steps
with results worked out from the rules, and for each statement of Obligations with hypotheses a state and operands that meet them.
-/

namespace Sys2Proof.Tests

open Sys2Proof.Machine Sys2Proof.Safety

set_option maxRecDepth 100000
set_option Elab.async false

/-! ### Words of each major (R196 to R206) -/

theorem test_decode_trap : decode (BitVec.ofNat 96 0x0102F0000000000091A00000) =
    .ok (.trap ⟨⟨true, ⟨false, 15⟩, ⟨0, false, 0⟩, .vec 0⟩, .vec 0, .vec 0, 4660, 0⟩) := by decide
theorem test_decode_sysrd : decode (BitVec.ofNat 96 0x0200F0080000000008000000) =
    .ok (.sysrd ⟨⟨false, ⟨false, 15⟩, ⟨0, false, 4⟩, .vec 0⟩, .vec 0, .vec 0, 256, 0⟩) := by decide
theorem test_decode_eret : decode (BitVec.ofNat 96 0x0302F0000000000000000000) =
    .ok (.eret ⟨⟨true, ⟨false, 15⟩, ⟨0, false, 0⟩, .vec 0⟩, .vec 0, .vec 0, 0, 0⟩) := by decide
theorem test_decode_grow : decode (BitVec.ofNat 96 0x0400F0008380000000000000) =
    .ok (.grow ⟨⟨false, ⟨false, 15⟩, ⟨0, false, 0⟩, .uni 7⟩, .vec 0, .vec 0, 0, 0⟩) := by decide
theorem test_decode_temit : decode (BitVec.ofNat 96 0x0500F0008300000000480000) =
    .ok (.temit ⟨⟨false, ⟨false, 15⟩, ⟨0, false, 0⟩, .uni 6⟩, .vec 0, .vec 0, 9, 0⟩) := by decide
theorem test_decode_hmread : decode (BitVec.ofNat 96 0x0600F0040000000002000000) =
    .ok (.hmread ⟨⟨false, ⟨false, 15⟩, ⟨0, false, 2⟩, .vec 0⟩, .vec 0, .vec 0, 64, 0⟩) := by decide
theorem test_decode_vadd : decode (BitVec.ofNat 96 0x2002F0180181A00000000040) =
    .ok (.vadd ⟨⟨true, ⟨false, 15⟩, ⟨0, false, 12⟩, .vec 3⟩, .vec 13, .vec 0, 0, 0, 4, 0⟩) := by decide
theorem test_decode_vmad : decode (BitVec.ofNat 96 0x20113B9000A05BD800000041) =
    .ok (.vmad ⟨⟨false, ⟨true, 3⟩, ⟨2, true, 200⟩, .vec 1⟩, .uni 2, .short 123, 0, 0, 4, 1⟩) := by decide
theorem test_decode_vsel : decode (BitVec.ofNat 96 0x213CF0120440207000000050) =
    .ok (.vsel ⟨⟨false, ⟨false, 15⟩, ⟨0, false, 9⟩, .vec 8⟩, .latch 1, .vec 14, 0, 0, 5, 0⟩) := by decide
theorem test_decode_vcmp : decode (BitVec.ofNat 96 0x2200F00600F000055E6F7842) =
    .ok (.vcmp ⟨⟨false, ⟨false, 15⟩, ⟨0, false, 3⟩, .vec 1⟩, .wide, .vec 0, 11259375, 0, 4, 2⟩) := by decide
theorem test_decode_vfma : decode (BitVec.ofNat 96 0x230CF00A0300E78800000280) =
    .ok (.vfma ⟨⟨false, ⟨false, 15⟩, ⟨0, false, 5⟩, .vec 6⟩, .vec 7, .vec 241, 0, 1, 8, 0⟩) := by decide
theorem test_decode_vfclass : decode (BitVec.ofNat 96 0x2404F00404A1400000000080) =
    .ok (.vfclass ⟨⟨false, ⟨false, 15⟩, ⟨0, false, 2⟩, .vec 9⟩, .uni 10, .vec 0, 0, 0, 8, 0⟩) := by decide
theorem test_decode_vexp2 : decode (BitVec.ofNat 96 0x250CF0020100000000000080) =
    .ok (.vexp2 ⟨⟨false, ⟨false, 15⟩, ⟨0, false, 1⟩, .vec 2⟩, .vec 0, .vec 0, 0, 0, 8, 0⟩) := by decide
theorem test_decode_cvt : decode (BitVec.ofNat 96 0x2600F00201001840000000A0) =
    .ok (.cvt ⟨⟨false, ⟨false, 15⟩, ⟨0, false, 1⟩, .vec 2⟩, .vec 0, .short 8, 0, 0, 10, 0⟩) := by decide
theorem test_decode_mxdq : decode (BitVec.ofNat 96 0x2704F0080280000000000320) =
    .ok (.mxdq ⟨⟨false, ⟨false, 15⟩, ⟨0, false, 4⟩, .vec 5⟩, .vec 0, .vec 0, 0, 1, 18, 0⟩) := by decide
theorem test_decode_vscan : decode (BitVec.ofNat 96 0x2810F0080280000000000080) =
    .ok (.vscan ⟨⟨false, ⟨false, 15⟩, ⟨0, false, 4⟩, .vec 5⟩, .vec 0, .vec 0, 0, 0, 8, 0⟩) := by decide
theorem test_decode_selk : decode (BitVec.ofNat 96 0x2908F00802E0800000000083) =
    .ok (.selk ⟨⟨false, ⟨false, 15⟩, ⟨0, false, 4⟩, .vec 5⟩, .short 4, .vec 0, 0, 0, 8, 3⟩) := by decide
theorem test_decode_sadd : decode (BitVec.ofNat 96 0x3000F00C8221000000000001) =
    .ok (.sadd ⟨⟨false, ⟨false, 15⟩, ⟨0, false, 6⟩, .uni 4⟩, .uni 8, .vec 0, 0, 0, 0, 1⟩) := by decide
theorem test_decode_srdsys : decode (BitVec.ofNat 96 0x3100F00F8180000000000000) =
    .ok (.srdsys ⟨⟨false, ⟨false, 15⟩, ⟨0, false, 7⟩, .short 3⟩, .vec 0, .vec 0, 0, 0, 0, 0⟩) := by decide
theorem test_decode_pandn : decode (BitVec.ofNat 96 0x3214F0040180800000000000) =
    .ok (.pandn ⟨⟨false, ⟨false, 15⟩, ⟨0, false, 2⟩, .vec 3⟩, .vec 4, .vec 0, 0, 0, 0, 0⟩) := by decide
theorem test_decode_execwr : decode (BitVec.ofNat 96 0x3304F0000780000000000000) =
    .ok (.execwr ⟨⟨false, ⟨false, 15⟩, ⟨0, false, 0⟩, .vec 15⟩, .vec 0, .vec 0, 0, 0, 0, 0⟩) := by decide
theorem test_decode_vaddI : decode (BitVec.ofNat 96 0x6000F0120540000000900001) =
    .ok (.vaddI ⟨⟨false, ⟨false, 15⟩, ⟨0, false, 9⟩, .vec 10⟩, 2147483649, 4, 0, 1⟩) := by decide
theorem test_decode_vshlI : decode (BitVec.ofNat 96 0x6110F012808000000F940000) =
    .ok (.vshlI ⟨⟨false, ⟨false, 15⟩, ⟨0, false, 9⟩, .uni 1⟩, 31, 5, 0, 0⟩) := by decide
theorem test_decode_vtestI : decode (BitVec.ofNat 96 0x6204F006038000007F900001) =
    .ok (.vtestI ⟨⟨false, ⟨false, 15⟩, ⟨0, false, 3⟩, .vec 7⟩, 255, 4, 0, 1⟩) := by decide
theorem test_decode_vfmulI : decode (BitVec.ofNat 96 0x6308F006039FC00000220000) =
    .ok (.vfmulI ⟨⟨false, ⟨false, 15⟩, ⟨0, false, 3⟩, .vec 7⟩, 1065353216, 8, 2, 0⟩) := by decide
theorem test_decode_vfcmpI : decode (BitVec.ofNat 96 0x6400F00603A0000000200007) =
    .ok (.vfcmpI ⟨⟨false, ⟨false, 15⟩, ⟨0, false, 3⟩, .vec 7⟩, 1073741824, 8, 0, 7⟩) := by decide
theorem test_decode_smovI : decode (BitVec.ofNat 96 0x702CF010006F56DF77800001) =
    .ok (.smovI ⟨⟨false, ⟨false, 15⟩, ⟨0, false, 8⟩, .vec 0⟩, 3735928559, 0, 0, 1⟩) := by decide
theorem test_decode_ldv : decode (BitVec.ofNat 96 0x8000F1E081006002C563FFFC) =
    .ok (.ldv ⟨⟨false, ⟨false, 15⟩, ⟨0, false, 240⟩, .uni 2⟩, .vec 3, .vec 0, 5, 4, 1, 2, true, 2, 0, 262140⟩) := by decide
theorem test_decode_stq : decode (BitVec.ofNat 96 0x8104F1E28200A00001200040) =
    .ok (.stq ⟨⟨false, ⟨false, 15⟩, ⟨0, false, 241⟩, .uni 4⟩, .vec 5, .vec 0, 0, 0, 0, 2, false, 2, 0, 64⟩) := by decide
theorem test_decode_lds : decode (BitVec.ofNat 96 0x8200F00C8080400000CC0100) =
    .ok (.lds ⟨⟨false, ⟨false, 15⟩, ⟨0, false, 6⟩, .uni 1⟩, .vec 2, .vec 0, 0, 0, 0, 1, true, 0, 3, 256⟩) := by decide
theorem test_decode_qcount : decode (BitVec.ofNat 96 0x8300F0078160200000000000) =
    .ok (.qcount ⟨⟨false, ⟨false, 15⟩, ⟨0, false, 3⟩, .short 2⟩, .short 1, .vec 0, 0, 0, 0, 0, false, 0, 0, 0⟩) := by decide
theorem test_decode_aadd : decode (BitVec.ofNat 96 0x8400F00C8100602081B00000) =
    .ok (.aadd ⟨⟨false, ⟨false, 15⟩, ⟨0, false, 6⟩, .uni 2⟩, .vec 3, .vec 4, 1, 0, 0, 3, false, 3, 0, 0⟩) := by decide
theorem test_decode_fadd : decode (BitVec.ofNat 96 0x8500F2008100602001000000) =
    .ok (.fadd ⟨⟨false, ⟨false, 15⟩, ⟨0, true, 0⟩, .uni 2⟩, .vec 3, .vec 4, 0, 0, 0, 2, false, 0, 0, 0⟩) := by decide
theorem test_decode_fence : decode (BitVec.ofNat 96 0x8600F0000000000058000000) =
    .ok (.fence ⟨⟨false, ⟨false, 15⟩, ⟨0, false, 0⟩, .vec 0⟩, .vec 0, .vec 0, 0, 5, 2, 0, false, 0, 0, 0⟩) := by decide
theorem test_decode_hwait : decode (BitVec.ofNat 96 0x8704F00183E0600000000000) =
    .ok (.hwait ⟨⟨false, ⟨false, 15⟩, ⟨0, false, 0⟩, .short 7⟩, .short 3, .vec 0, 0, 0, 0, 0, false, 0, 0, 0⟩) := by decide
theorem test_decode_sigdec : decode (BitVec.ofNat 96 0x8800F0008100182058000000) =
    .ok (.sigdec ⟨⟨false, ⟨false, 15⟩, ⟨0, false, 0⟩, .uni 2⟩, .vec 0, .short 4, 0, 5, 2, 0, false, 0, 0, 0⟩) := by decide
theorem test_decode_copy : decode (BitVec.ofNat 96 0x8900F0008421486000000000) =
    .ok (.copy ⟨⟨false, ⟨false, 15⟩, ⟨0, false, 0⟩, .uni 8⟩, .uni 10, .uni 12, 0, 0, 0, 0, false, 0, 0, 0⟩) := by decide
theorem test_decode_gclaim : decode (BitVec.ofNat 96 0x8A00F00980A0600000000000) =
    .ok (.gclaim ⟨⟨false, ⟨false, 15⟩, ⟨0, false, 4⟩, .short 1⟩, .uni 3, .vec 0, 0, 0, 0, 0, false, 0, 0, 0⟩) := by decide
theorem test_decode_lease : decode (BitVec.ofNat 96 0x8B00F00880A058A000000001) =
    .ok (.lease ⟨⟨false, ⟨false, 15⟩, ⟨0, false, 4⟩, .uni 1⟩, .uni 2, .short 20, 0, 0, 0, 0, false, 0, 0, 1⟩) := by decide
theorem test_decode_bra : decode (BitVec.ofNat 96 0xC002F00000000007FFFFE000) =
    .ok (.bra ⟨⟨true, ⟨false, 15⟩, ⟨0, false, 0⟩, .vec 0⟩, 0, 0, 2097151, 4, 0, 0⟩) := by decide
theorem test_decode_bdiv : decode (BitVec.ofNat 96 0xC00B6000000000D000014800) =
    .ok (.bdiv ⟨⟨true, ⟨true, 6⟩, ⟨0, false, 0⟩, .vec 0⟩, 3, 2, 5, 1, 0, 0⟩) := by decide
theorem test_decode_mloop : decode (BitVec.ofNat 96 0xC802F00181000007FFFF9800) =
    .ok (.mloop ⟨⟨true, ⟨false, 15⟩, ⟨0, false, 0⟩, .short 2⟩, 0, 0, 2097150, 3, 0, 0⟩) := by decide
theorem test_decode_mload : decode (BitVec.ofNat 96 0xE000F00F80800007FF00FFFE) =
    .ok (.mload ⟨⟨false, ⟨false, 15⟩, ⟨0, false, 7⟩, .short 1⟩, .vec 0, .vec 0, 524032, 255, 63, 2⟩) := by decide
theorem test_decode_mma : decode (BitVec.ofNat 96 0xE100F0060200C00294000001) =
    .ok (.mma ⟨⟨false, ⟨false, 15⟩, ⟨0, false, 3⟩, .vec 4⟩, .vec 6, .vec 0, 10, 10, 0, 1⟩) := by decide
theorem test_decode_mpop : decode (BitVec.ofNat 96 0xE208F0000000000000000000) =
    .ok (.mpop ⟨⟨false, ⟨false, 15⟩, ⟨0, false, 0⟩, .vec 0⟩, .vec 0, .vec 0, 0, 0, 0, 0⟩) := by decide

/-! ### Reserved encodings are refused (R207) -/

theorem test_decode_unassigned_major : decode (BitVec.ofNat 96 (0x0F * 2 ^ 88)) = .error .unassignedMajor := by decide
theorem test_decode_unassigned_minor : decode (BitVec.ofNat 96 (0x20 * 2 ^ 88 + 0x3F * 2 ^ 82)) = .error .unassignedMinor := by decide
theorem test_decode_bad_source :
    decode (BitVec.ofNat 96 (9907071976708561729316978752 + 0x80 * 2 ^ 55 + 0x300 * 2 ^ 55)) = .error .badField := by decide

/-! ### Ill-formed terms, one for each check -/

def plain (d : BitVec 8) (a : Src) : Head := ⟨false, ⟨false, 15⟩, ⟨0, false, d⟩, a⟩
def formA (d : BitVec 8) (a b c : Src) (fmt : BitVec 5) : FmtA := ⟨plain d a, b, c, 0, 0, fmt, 0⟩
def formM (d : BitVec 8) (a b c : Src) (w : BitVec 3) : FmtM := ⟨plain d a, b, c, 0, 0, 0, w, false, 0, 0, 0⟩

/-- A uniform word is not guarded (R198). -/
theorem test_illformed_guard : (Instr.sadd { formA 6 (.uni 4) (.uni 8) (.vec 0) 0 with guard := ⟨false, 3⟩ }).wellFormed = false := by decide
/-- A predicate destination takes no capture (R251). -/
theorem test_illformed_capture : (Instr.vcmp { formA 3 (.vec 1) (.vec 2) (.vec 0) 4 with dst := ⟨1, false, 3⟩ }).wellFormed = false := by decide
/-- A vector destination below 240 is an even register of a pair where it names one (R57). -/
theorem test_illformed_destination : (Instr.saddI ⟨plain 7 (.uni 4), 1, 0, 0, 1⟩).wellFormed = false := by decide
/-- A predicate destination is below 16 (R54). -/
theorem test_illformed_predicate : (Instr.vcmp (formA 16 (.vec 1) (.vec 2) (.vec 0) 4)).wellFormed = false := by decide
/-- A long-latency destination takes no capture (R210). -/
theorem test_illformed_long : (Instr.ldv { formM 6 (.uni 2) (.vec 3) (.vec 0) 2 with dst := ⟨1, false, 6⟩ }).wellFormed = false := by decide
/-- A source beyond the roles of its entry (R200). -/
theorem test_illformed_source : (Instr.vsel (formA 9 (.vec 8) (.vec 1) (.uni 14) 4)).wellFormed = false := by decide
/-- A field that an entry does not use is zero (R196). -/
theorem test_illformed_zeroField : (Instr.vadd (formA 9 (.vec 8) (.vec 1) (.vec 2) 4)).wellFormed = false := by decide
/-- A wide immediate without a source that names it (R201). -/
theorem test_illformed_wide : (Instr.vadd { formA 9 (.vec 8) (.vec 1) (.vec 0) 4 with wide := 1 }).wellFormed = false := by decide
/-- A format that the entry refuses (R244). -/
theorem test_illformed_tailA : (Instr.vadd (formA 9 (.vec 8) (.vec 1) (.vec 0) 8)).wellFormed = false := by decide
/-- A modifier that the entry refuses (R223). -/
theorem test_illformed_tailI : (Instr.vaddI ⟨plain 9 (.vec 10), 1, 4, 0, 2⟩).wellFormed = false := by decide
/-- A load of eight bytes has no sign form (R275). -/
theorem test_illformed_tailM : (Instr.ldv { formM 6 (.uni 2) (.vec 3) (.vec 0) 3 with sign := true }).wellFormed = false := by decide
/-- A condition that BRA does not have (R230). -/
theorem test_illformed_tailB : (Instr.bra ⟨plain 0 (.vec 0), 0, 0, 1, 0, 3, 0⟩).wellFormed = false := by decide
/-- A system register that R342 does not list. -/
theorem test_illformed_tailY : (Instr.sysrd ⟨plain 4 (.vec 0), .vec 0, .vec 0, 0x10A, 0⟩).wellFormed = false := by decide
/-- A region of no rows (R309). -/
theorem test_illformed_tailXR : (Instr.mload ⟨plain 16 (.vec 0), .vec 0, .vec 0, 0, 4, 0, 0⟩).wellFormed = false := by decide
/-- A format that MMA refuses (R316). -/
theorem test_illformed_tailXA : (Instr.mma ⟨plain 3 (.vec 4), .vec 6, .vec 0, 1, 1, 0, 0⟩).wellFormed = false := by decide
/-- An offset that LEASE does not have (R331). -/
theorem test_illformed_lease : (Instr.lease { formM 4 (.uni 1) (.uni 2) (.uni 3) 0 with off := 4 }).wellFormed = false := by decide
/-- An offset that RGET does not have (R337). -/
theorem test_illformed_rget : (Instr.rgetQueue { formM 240 (.uni 1) (.vec 2) (.vec 0) 0 with off := 2 }).wellFormed = false := by decide
/-- The same terms without the fault are well formed. -/
theorem test_wellformed :
    (Instr.vadd (formA 9 (.vec 8) (.vec 1) (.vec 0) 4)).wellFormed = true ∧
    (Instr.vsel (formA 9 (.vec 8) (.vec 1) (.vec 14) 4)).wellFormed = true ∧
    (Instr.vcmp (formA 3 (.vec 1) (.vec 2) (.vec 0) 4)).wellFormed = true ∧
    (Instr.sadd (formA 6 (.uni 4) (.uni 8) (.vec 0) 0)).wellFormed = true ∧
    (Instr.ldv (formM 6 (.uni 2) (.vec 3) (.vec 0) 2)).wellFormed = true ∧
    (Instr.saddI ⟨plain 8 (.uni 4), 1, 0, 0, 1⟩).wellFormed = true ∧
    (Instr.vaddI ⟨plain 9 (.vec 10), 1, 4, 0, 0⟩).wellFormed = true ∧
    (Instr.bra ⟨plain 0 (.vec 0), 0, 0, 1, 0, 0, 0⟩).wellFormed = true ∧
    (Instr.sysrd ⟨plain 4 (.vec 0), .vec 0, .vec 0, 0x100, 0⟩).wellFormed = true := by decide


/-! ### A small machine -/

/-- A Live context with a placed pair on core 0, its cohort and Press stream, and a line of code at 0x1000. -/
def probe : State := State.reset.withFetchWord 96 fillWord

/-- The machine with an instruction twice in the run of a unit of core 0, issuing the slot `idx`. -/
def demo (unit idx : Nat) (i : Instr) : State :=
  { probe.onExec fun e =>
      { e with runs := [⟨0, unit, if unit = 4 then 2 else 3, 0, 0x1000, [(0x1000, i), (0x1001, i)], idx, [none, none, none], [], none, none⟩] }
    with issuer := some (0, unit) }

/-- The same with a change of the issuing group. -/
def demoG (unit idx : Nat) (i : Instr) (f : Group → Group) : State := updGroup (demo unit idx i) (if unit = 4 then 2 else 3) f

/-- Whether an instruction issues, and its slot meets a condition. -/
def meets (s : State) (i : Instr) (p : Slot → Bool) : Bool :=
  match currentSlot s with
  | some sl => (headGate s sl i).isNone && p sl
  | none => false

theorem meets_issues {s : State} {i : Instr} {p : Slot → Bool} (h : meets s i p = true) : ∃ sl, Issues s sl i ∧ p sl = true := by
  unfold meets at h
  split at h
  · rename_i sl hs
    simp only [Bool.and_eq_true, Option.isNone_iff_eq_none] at h
    exact ⟨sl, ⟨hs, h.1⟩, h.2⟩
  · cases h

/-- The register that an execute group's slot behind its head leaves in a lane, the last slot of its run included. -/
def laneAfter (i : Instr) (f : Group → Group) (n lane : Nat) : Option Nat :=
  match exec i (demoG 0 0 i f) with
  | .next t => (findGroup t 3).map fun g => ((g.vreg n).get lane).toNat
  | _ => none


/-! ### Witnesses: the words -/

/-- Every instruction issues in a slot behind its run's head, the last slot of the run. -/
theorem demo_issues (i : Instr) : ∃ sl, Issues (demo 0 1 i) sl i := ⟨_, rfl, rfl⟩

def vecWord : FmtA := formA 2 (.vec 0) (.vec 1) (.vec 3) 4
def formB (disp : BitVec 21) (a : Src) : FmtB := ⟨plain 0 a, 0, 0, disp, 0, 0, 0⟩

/-- QuietEnd, decided. -/
def quiet (s : State) (sl : Slot) : Bool :=
  decide (sl.run.causes = [] ∧ sl.run.brk = none ∧ sl.p.stopAsked = false ∧ (getCtx s sl.g.ctx).st ≠ .ending ∧
    ∀ x ∈ sl.g.pending, x.1 ≠ sl.run.entry)

theorem quiet_end {s : State} {sl : Slot} (h : quiet s sl = true) : QuietEnd s sl := by
  unfold quiet at h
  have q := of_decide_eq_true h
  exact q

/-- The register words of VectorIntegerWordsComplete to UniformReadsAndPredicateWordsComplete, SelectByPredicate and RegisterWordFrame
have no hypothesis but their issue: at a run's head, behind it, and at its end with nothing else due (EndOfRunFrame). -/
theorem witness_registerWords : meets (demo 0 0 (.vadd vecWord)) (.vadd vecWord) (fun sl => !sl.last) = true ∧
    meets (demo 4 0 (.sadd (formA 6 (.uni 4) (.uni 8) (.vec 0) 0))) (.sadd (formA 6 (.uni 4) (.uni 8) (.vec 0) 0)) (fun _ => true) = true ∧
    meets (demo 0 1 (.vsel vecWord)) (.vsel vecWord)
      (fun sl => sl.last && quiet (demo 0 1 (.vsel vecWord)) sl && Nat.blt sl.run.entry sl.g.paths.length) = true ∧
    registerWord (.vadd vecWord) = true ∧ registerWord (.vsel vecWord) = true := by decide +kernel

/-- TransferWordsComplete: each clause at a marked target, BRC taken and not, LOOPS with counts 2, 1 and 0. -/
theorem witness_TransferWordsComplete :
    let ok (i : Instr) (s : State) (target : Slot → Dword) : Bool := meets s i fun sl => !badTarget (noteIssued s sl) sl.g (target sl)
    let at1000 (g : Group) : Group := g.setSreg 2 0x1000
    let brc (c : BitVec 4) : FmtB := { formB 0 (.uni 0) with cond := c }
    ok (.bra (formB 0 (.vec 0))) (demo 0 0 (.bra (formB 0 (.vec 0)))) (fun sl => targetPc sl.pc (formB 0 (.vec 0))) = true ∧
    ok (.brx (formB 0 (.uni 2))) (demoG 0 0 (.brx (formB 0 (.uni 2))) at1000) (fun sl => sl.uni64 0 (.uni 2)) = true ∧
    ok (.ret (formB 0 (.uni 2))) (demoG 0 0 (.ret (formB 0 (.uni 2))) at1000) (fun sl => sl.uni64 0 (.uni 2)) = true ∧
    ok (.call (formB 0 (.vec 0))) (demo 0 0 (.call (formB 0 (.vec 0)))) (fun sl => targetPc sl.pc (formB 0 (.vec 0))) = true ∧
    ok (.brc (brc 0)) (demo 0 0 (.brc (brc 0))) (fun sl => targetPc sl.pc (brc 0)) = true ∧
    meets (demo 0 0 (.brc (brc 0))) (.brc (brc 0)) (fun sl => brcTaken sl (brc 0)) = true ∧
    meets (demo 0 0 (.brc (brc 1))) (.brc (brc 1)) (fun sl => !brcTaken sl (brc 1)) = true ∧
    (let s := demoG 0 0 (.loops (formB 0 (.uni 4))) fun g => g.setSreg 4 2
     ok (.loops (formB 0 (.uni 4))) s (fun sl => targetPc sl.pc (formB 0 (.uni 4))) = true ∧
     meets s (.loops (formB 0 (.uni 4))) (fun sl => Nat.blt 1 (sl.g.sreg 4).toNat) = true) ∧
    (([0, 1] : List Word).all fun n => meets (demoG 0 0 (.loops (formB 0 (.uni 4))) fun g => g.setSreg 4 n) (.loops (formB 0 (.uni 4)))
      fun sl => Nat.ble (sl.g.sreg 4).toNat 1) = true := by decide +kernel

/-- PathWordsComplete: BDIV with no lane, every lane, a minority and a tie taken, and with 47 records in the group's stacks; EXIT with and
without lanes left; RECON by the top record; EXECWR by a predicate and by a uniform pair; SWAIT by its deadline. -/
theorem witness_PathWordsComplete :
    let bdiv : FmtB := { formB 0 (.vec 0) with guard := ⟨false, 3⟩ }
    let s (m : Mask) (n : Nat) : State := demoG 0 0 (.bdiv bdiv) fun g =>
      { g.setPred 3 m with paths := g.paths.modify 0 fun p => { p with stack := List.replicate n ⟨.split, 0, none, 0, 0, 0, 0, 0⟩ } }
    let t (sl : Slot) : Mask := sl.p.exec &&& sl.guardMask bdiv.guard
    let n (sl : Slot) : Mask := sl.p.exec &&& ~~~sl.guardMask bdiv.guard
    let open_ (s : State) (sl : Slot) : Bool := !badTarget (noteIssued s sl) sl.g (targetPc sl.pc bdiv) && Nat.blt (recordCount sl.g) 48
    let rec_ (s : State) (p : Slot → Bool) : Bool := meets s (.recon (formA 0 (.vec 0) (.vec 0) (.vec 0) 0)) p
    let reconAt (r : List PathRec) : State := demoG 0 0 (.recon (formA 0 (.vec 0) (.vec 0) (.vec 0) 0)) fun g =>
      { g with paths := g.paths.modify 0 fun p => { p with stack := r } }
    let wr (a : Src) : Instr := .execwr (formA 0 a (.vec 0) (.vec 0) 0)
    let wait (m : BitVec 4) : FmtA := { formA 0 (.uni 0) (.vec 0) (.vec 0) 0 with modi := m }
    (meets (s 0 0) (.bdiv bdiv) (fun sl => t sl == 0) = true ∧
     meets (s (BitVec.allOnes 64) 0) (.bdiv bdiv)
       (fun sl => t sl != 0 && n sl == 0 && open_ (s (BitVec.allOnes 64) 0) sl) = true ∧
     meets (s 1 0) (.bdiv bdiv) (fun sl => n sl != 0 && Nat.blt (popMask (t sl)) (popMask (n sl)) && open_ (s 1 0) sl) = true ∧
     meets (s 0xFFFFFFFF 47) (.bdiv bdiv)
       (fun sl => t sl != 0 && n sl != 0 && Nat.ble (popMask (n sl)) (popMask (t sl)) && open_ (s 0xFFFFFFFF 47) sl) = true) ∧
    (meets (demoG 0 0 (.exit (formB 0 (.vec 0))) fun g => { g with paths := g.paths.modify 0 fun p => { p with exec := 1 } })
       (.exit (formB 0 (.vec 0))) (fun sl => sl.p.lanes &&& ~~~sl.p.exec != 0) = true ∧
     meets (demo 0 0 (.exit (formB 0 (.vec 0)))) (.exit (formB 0 (.vec 0))) (fun sl => sl.p.lanes &&& ~~~sl.p.exec == 0) = true) ∧
    (rec_ (reconAt []) (fun sl => sl.p.stack.isEmpty) = true ∧
     rec_ (reconAt [⟨.split, 0x2000, none, 0, 0, 0, 0, 0⟩]) (fun sl => (sl.p.stack.head?.map (·.recon)) != some sl.pc) = true ∧
     (([⟨.serial, 0x1000, none, 0, 1, 1, 0, 0⟩, ⟨.serial, 0x1000, none, 0, 2, 1, 1, 0⟩, ⟨.split, 0x1000, none, 0, 0, 0, 0, 0⟩] :
        List PathRec).all fun r => rec_ (reconAt [r]) fun sl => sl.p.stack == [r] && r.recon == sl.pc) = true) ∧
    (meets (demo 0 0 (wr (.vec 3))) (wr (.vec 3)) (fun _ => true) = true ∧
     meets (demo 0 0 (wr (.uni 2))) (wr (.uni 2)) (fun _ => true) = true) ∧
    meets (demo 0 0 (.swait (wait 1))) (.swait (wait 1)) (fun sl => Nat.ble (sl.uni64 0 (.uni 0)).toNat probe.tick) = true ∧
    meets (demoG 0 0 (.swait (wait 0)) fun g => { g with paths := g.paths.modify 0 fun p => { p with deadline := some 0 } })
      (.swait (wait 0)) (fun sl => sl.p.deadline == some 0) = true ∧
    meets (demo 0 0 (.swait (wait 0))) (.swait (wait 0))
      (fun sl => sl.p.deadline.isNone && (sl.uni32 0 (.uni 0)).toInt == 0) = true := by decide +kernel


/-! ### Witnesses: the words of Chapter 14 -/

/-- Whether an instruction issues, and a condition on its state and slot holds. -/
def witAt (s : State) (i : Instr) (p : State → Slot → Bool) : Bool := meets s i fun sl => p (noteIssued s sl) sl

/-- The same at the head of a unit's run. -/
def wit (unit : Nat) (i : Instr) (f : Group → Group) (p : State → Slot → Bool) : Bool := witAt (demoG unit 0 i f) i p

/-- An operation in flight, of a group or of another device, with nothing performed. -/
def flying (gid : Nat) (k : OpKind) (todo : Mask) : Op :=
  { id := 77, ctx := 0, gid := gid, from_ := 0, entry := 0, pc := 0x1000, kind := k, cls := none, dst := .none, todo := todo, done := 0,
    remote := 0, faulted := 0, cause := 0, marks := 0, addrs := Lanes.zero, data := Lanes.zero, data2 := Lanes.zero, res := Lanes.zero,
    channel := 0, scope := 0, order := 0, after := [], same := [], rel := [], parts := [], told := false, replay := false, orphan := false, dormant := false, pieces := [] }

/-- A state with operations in flight. -/
def withOps (ops : List Op) (s : State) : State := s.onExec fun e => { e with ops := ops }

/-- Uniform registers of a group. -/
def regs (rs : List (Nat × Word)) (g : Group) : Group := rs.foldl (fun g r => g.setSreg r.1 r.2) g

/-- Counters of a group. -/
def counts (n : Nat) (g : Group) : Group := { g with oc := ⟨n, n, n, n, n⟩ }

/-- The last eight bytes of the device's own addresses. -/
def lastWord8 (g : Group) : Group := regs [(2, 0xFFFFFFF8), (3, 0x1FFFFF)] g

def gmem : FmtM := formM 6 (.uni 2) (.vec 3) (.vec 4) 2

/-- The last four bytes of the device's own addresses, and 4,095 operations in flight. -/
def lastWord (g : Group) : Group := regs [(2, 0xFFFFFFFC), (3, 0x1FFFFF)] (counts 4095 g)

/-- GlobalLoadWordsComplete, PrefetchCompletes and GlobalStoreWordsComplete: at the last address of this device, with a class one below its
limit; a prefetch of no lane and of local ones. -/
theorem witness_GlobalWordsComplete :
    let good (i : Instr) (k : Dword) : Bool := wit 4 i lastWord fun t sl =>
      sl.eff gmem.guard != 0 && sl.gaddr gmem 0 == k && badLanes t sl.g.ctx (sl.eff gmem.guard) (sl.gaddr gmem) == 0 &&
        !ocFull sl.g none && !ocFull sl.g (some .fab)
    good (.ldv gmem) 0x1FFFFFFFFFFFFC = true ∧ good (.st gmem) 0x1FFFFFFFFFFFFC = true ∧
    wit 4 (.ldp gmem) id (fun t sl => badLanes t sl.g.ctx (sl.eff gmem.guard)
      (fun i => sl.uni64 0 gmem.a + BitVec.ofInt 64 (sextOff gmem.off) + BitVec.ofNat 64 (i * 2 ^ gmem.width.toNat)) == 0) = true ∧
    wit 4 (.grld gmem) (regs [(4, 1)]) (fun t sl => let n := min (sl.uni32 0 (.uni 4)).toNat 64
      (maskOf fun i => (sl.eff gmem.guard).getLsbD i && (List.range n).any fun q =>
        !vaOk t sl.g.ctx (grldAddr (sl.uni64 0 gmem.a) (grldPitch gmem) 4 (sl.lanes 0 gmem.b) q i)) == 0) = true ∧
    wit 4 (.pfetch { gmem with guard := ⟨true, 15⟩ }) id (fun _ sl => sl.eff ⟨true, 15⟩ == 0) = true ∧
    wit 4 (.pfetch gmem) id (fun t sl => let e := sl.eff gmem.guard
      e &&& ~~~(badLanes t sl.g.ctx e (sl.gaddr gmem)) &&& ~~~(remoteLanes t e (sl.gaddr gmem)) != 0) = true ∧
    wit 4 (.stq { gmem with dst := ⟨0, false, 241⟩ }) id (fun _ sl => !ocFull sl.g none && !ocFull sl.g (some .fab)) = true := by
  decide +kernel

def smem : FmtM := formM 6 (.uni 2) (.short 0) (.vec 4) 2

/-- The last four bytes of the allocation. -/
def lastSpad (g : Group) : Group := regs [(2, 32764)] g

/-- ScratchpadAndQueueWordsComplete: at the last four bytes of the allocation, and each queue word on an empty queue, a Filling front and a
Ready front. -/
theorem witness_ScratchpadAndQueueWordsComplete :
    (let inside (unit : Nat) (i : Instr) (cl : Bool) : Bool := wit unit i lastSpad fun t sl =>
       sl.eff smem.guard != 0 && spadBad t sl cl 4 (sl.eff smem.guard) (sl.saddr smem) == 0
     inside 0 (.lds smem) false = true ∧ inside 4 (.ldcl smem) true = true ∧ inside 0 (.sts smem) false = true ∧
     inside 4 (.stcl smem) true = true ∧
     wit 0 (.ldsT { smem with b := .short 1, off := 0 }) id (fun t sl =>
       (maskOf fun i => (sl.eff smem.guard).getLsbD i && (List.range (sl.w / 8 / 4)).any fun j =>
         !spadIn t sl.g.core sl.pair.owner (sl.sbase smem.a + (i * 4 : Nat) + ((j * 16 : Nat) : Int)) 4) == 0) = true) ∧
    (let front (es : List Entry) : State := { demo 0 0 (.qskip (formM 6 (.short 0) (.vec 0) (.vec 0) 0)) with
       exec := { (demo 0 0 (.qskip (formM 6 (.short 0) (.vec 0) (.vec 0) 0))).exec with
         pairs := probe.exec.pairs.map fun p => { p with queues := p.queues.modify 0 fun q => { q with entries := es } } } }
     wit 0 (.qcount (formM 6 (.short 0) (.short 0) (.vec 0) 0)) id (fun _ _ => true) = true ∧
     (([[], [⟨1, .filling, Lanes.zero, 1, 0, none, false, [], 0⟩], [⟨1, .ready, Lanes.zero, 0, 0, none, false, [], 0⟩]] : List (List Entry)).all fun es =>
       meets (front es) (.qskip (formM 6 (.short 0) (.vec 0) (.vec 0) 0)) fun sl => (sl.pair.queue 0).entries == es) = true) := by
  decide +kernel


/-- AtomicWordsComplete: the last aligned word of the device, of every minor, and CrucibleWordsComplete: the last aligned block, and
FADD.ORD over two lines and over three. -/
theorem witness_AtomicAndCrucibleWordsComplete :
    (([Instr.aadd, .asub, .aand, .aor, .axor, .amin, .amax, .aminu, .amaxu, .axchg, .acas, .fadd] : List (FmtM → Instr)).all fun e =>
      wit 4 (e gmem) lastWord fun t sl =>
        sl.eff gmem.guard != 0 && badLanes t sl.g.ctx (sl.eff gmem.guard) (sl.gaddr gmem) == 0 &&
        (maskOf fun i => (sl.eff gmem.guard).getLsbD i && (sl.gaddr gmem i).toNat % 4 != 0) == 0 && !ocFull sl.g (some .atom)) = true ∧
    (let mx : FmtM := { formM 6 (.uni 2) (.vec 3) (.uni 4) 0 with off := 0x24000 }
     let block (unit : Nat) (i : Instr) (f : FmtM) (idle : Bool) : Bool :=
       wit unit i (regs [(2, 0xFFFFFFE0), (3, 0x1FFFFF)] ∘ counts 4095) fun t sl =>
         !ocFull sl.g (some .mx) && sl.block f (mxDisp f) == 0x1FFFFFFFFFFFE0 && (sl.block f (mxDisp f)).toNat % mxSlot (mxFmt f).toNat == 0 &&
         vaOk t sl.g.ctx (sl.block f (mxDisp f)) && (sl.eff f.guard == 0) == idle
     let off : FmtM := { mx with guard := ⟨true, 15⟩ }
     block 4 (.mxacc mx) mx false = true ∧ block 4 (.mxaccOrd mx) mx false = true ∧ block 4 (.mxst mx) mx false = true ∧
     block 4 (.mxld mx) mx false = true ∧ block 4 (.mxacc off) off true = true ∧ block 4 (.mxst off) off true = true ∧
     block 4 (.mxld off) off true = true ∧
     (([0, 4] : List Word).all fun a => wit 4 (.faddOrd (formM 0 (.uni 2) (.vec 3) (.uni 4) 0)) (regs [(2, a)]) fun t sl =>
       let w := sl.block (formM 0 (.uni 2) (.vec 3) (.uni 4) 0) 0
       w.toNat % 4 == 0 && !((List.range (if w &&& 127 == 0 then 2 else 3)).any fun k =>
         !vaOk t sl.g.ctx ((w &&& ~~~127#64) + BitVec.ofNat 64 (128 * k)))) = true) := by decide +kernel

/-- A state whose allocation holds eight written zero bytes. -/
def zeroed (a : Nat) (s : State) : State :=
  s.onExec fun e => { e with allocs := e.allocs.map fun x => { x with cells := (List.range 8).map fun j => ⟨a + j, 0⟩ } }

/-- OrderAndWaitWordsComplete: WAITC at its bound, HWAIT one phase behind and 2^31 behind, WAITW by a match and by the value. -/
theorem witness_OrderAndWaitWordsComplete :
    (let waitc : FmtM := formM 0 (.short 4) (.uni 4) (.vec 0) 0
     (([(7, 7), (4095, 0xFFFFFFFF)] : List (Nat × Word)).all fun x => wit 4 (.waitc waitc) (regs [(4, x.2)] ∘ counts x.1) fun _ sl =>
       Nat.ble (sl.g.oc.get (waitClass 4)) (min (sl.uni32 0 (.uni 4)).toNat 4095)) = true) ∧
    (([0xFFFFFFFF, 0x80000000] : List Word).all fun n => wit 4 (.hwait (formM 0 (.short 3) (.uni 4) (.vec 0) 0)) (regs [(4, n)]) fun t sl =>
      phaseDone (hoopDone t sl.pair 3) (sl.uni32 0 (.uni 4))) = true ∧
    wit 4 (.fence (formM 0 (.vec 0) (.vec 0) (.vec 0) 0)) id (fun _ _ => true) = true ∧
    wit 4 (.harrive (formM 6 (.short 3) (.vec 0) (.vec 0) 0)) id (fun _ _ => true) = true ∧
    (let waitw : FmtM := formM 0 (.uni 2) (.uni 4) (.short 0) 0
     let flag (t : State) (sl : Slot) : Bool := sl.flagAddr waitw % 8 == 0 && spadIn t sl.g.core sl.pair.owner (sl.flagAddr waitw) 8
     wit 4 (.waitw waitw) (fun g => { regs [(2, 32760)] g with paths := g.paths.modify 0 fun p => { p with matched := some 5 } })
       (fun t sl => flag t sl && sl.p.matched == some 5) = true ∧
     witAt (zeroed 32760 (demoG 4 0 (.waitw waitw) (regs [(2, 32760)]))) (.waitw waitw) (fun t sl => flag t sl && sl.p.matched.isNone && !accessHeld t sl.g sl.p &&
       waitRel 0 (watchedValue t sl.g (sl.flagAddr waitw).toNat) (sl.uni64 0 (.uni 4))) = true) := by decide +kernel

/-- A circle of context 0 with one member of another group. -/
def ringed (phase : Nat) (members : List (Nat × Nat × Nat)) (s : State) : State :=
  s.onExec fun e => { e with circles := [⟨0, 5, phase, members⟩] }

/-- CircleAndSignalWordsComplete: CJOIN of a member, of an open circle with seven circles joined, and of no circle; CARRIVE of no member,
of a member at once, behind an access and behind an arrival; the last signal of the device. -/
theorem witness_CircleAndSignalWordsComplete :
    (let key (i : FmtM → Instr) (joined : List (Word × Nat)) (f : State → State) (p : State → Slot → Bool) : Bool :=
       let w := i (formM 0 (.uni 2) (.vec 0) (.vec 0) 0)
       witAt (f (demoG 4 0 w fun g => { regs [(2, 5)] g with circles := joined })) w p
     let seven : List (Word × Nat) := (List.range 7).map fun n => (BitVec.ofNat 32 (10 + n), 1)
     let member (sl : Slot) : Bool := sl.g.circles.any fun k => k.1 == sl.uni32 0 (.uni 2)
     key .cjoin [(5, 1)] (ringed 0 [(2, 1, 1)]) (fun _ sl => member sl) = true ∧
     key .cjoin seven (ringed 3 [(3, 1, 1)]) (fun t sl => !member sl && Nat.blt sl.g.circles.length 8 &&
       (findCircle t 0 5).any fun x => Nat.blt x.present.length 20480) = true ∧
     key .cjoin seven id (fun t sl => !member sl && (findCircle t 0 5).isNone &&
       Nat.blt (t.exec.circles.filter fun y => y.ctx == 0).length 65536) = true ∧
     key .cleave [(5, 1)] (ringed 0 [(2, 1, 1)]) (fun _ _ => true) = true ∧
     key .carrive [] (ringed 0 [(3, 1, 1)]) (fun _ sl => !member sl) = true ∧
     key .carrive [(5, 1)] (ringed 0 [(2, 1, 1)]) (fun t sl => member sl && (directOps t sl.g.gid).isEmpty &&
       sl.g.taints.all (opPerformed t) && !t.exec.ops.any (·.arrives sl.g.gid 5)) = true ∧
     key .carrive [(5, 1)] (withOps [flying 2 (.load 2 false 32) 1] ∘ ringed 0 [(2, 1, 1)])
       (fun t sl => member sl && !(directOps t sl.g.gid).isEmpty) = true ∧
     key .carrive [(5, 1)] (withOps [flying 2 (.carrive 5) 1] ∘ ringed 0 [(2, 1, 1)])
       (fun t sl => member sl && t.exec.ops.any (·.arrives sl.g.gid 5)) = true ∧
     key .cwait [(5, 1)] (ringed 1 [(2, 0, 1)]) (fun t sl => cwaitReady t sl 5) = true ∧
     key .cwait [(5, 1)] (ringed 0 [(2, 1, 1)]) (fun t sl => cwaitReady t sl 5) = true) ∧
    (let sig : FmtM := formM 0 (.uni 2) (.vec 0) (.uni 4) 0
     let last (g : Group) : Group := regs [(2, 0xFFFFFFF8), (3, 0x1FFFFF)] g
     let ok (t : State) (sl : Slot) : Bool := (sl.signalAddr sig).toNat % 8 == 0 && vaOk t sl.g.ctx (sl.signalAddr sig)
     wit 4 (.sigdec sig) last (fun t sl => ok t sl && !ocFull sl.g none && !ocFull sl.g (some .fab)) = true ∧
     wit 4 (.waitsig sig) (fun g => { last g with paths := g.paths.modify 0 fun p => { p with matched := some 0 } })
       (fun t sl => ok t sl && sl.p.matched == some 0) = true) := by decide +kernel

/-- CopyWordsComplete: COPY and COPYO of one row that ends at the allocation's last byte, with a flag in the first word; COPYC with the
most rows of its smallest row. RingAndSequenceWordsComplete: each ring word; GAWAIT of an open sequence and of a past one; SQPUB; SQGET
by a match and by the number. -/
theorem witness_CopyAndRingWordsComplete :
    (let copy : FmtM := formM 0 (.uni 8) (.uni 14) (.uni 16) 0
     let desc (shape p pitch : Word) (g : Group) : Group := counts 4095 (regs [(8, 0), (9, 0), (10, p), (11, shape), (12, pitch), (13, pitch),
       (14, 0)] g)
     let ok (kind : Nat) (t : State) (sl : Slot) : Bool :=
       let d := sl.copyDesc copy kind
       d.valid (kind != 2 || ((sl.descReg copy 0).toNat < 2 ^ 21 && (sl.descReg copy 1).toNat < 4)) &&
       (kind == 2 || vaOk t sl.g.ctx d.g) && (if kind = 2 then sideOk t sl true d d.g.toNat d.gp && sideOk t sl true d d.p d.sp
         else sideOk t sl false d d.p d.sp) && (d.flag.any fun a => a % 8 == 0 && (spadPlace t sl.g.core sl.pair.owner true a 8).isSome) &&
       !ocFull sl.g (some .copy)
     wit 4 (.copy copy) (desc 0x10001 32764 0) (ok 0) = true ∧ wit 4 (.copyo copy) (desc 0x10001 32764 0) (ok 1) = true ∧
     wit 4 (.copyc copy) (desc 0x20001 32760 4) (ok 2) = true) ∧
    (let ring : FmtM := formM 6 (.short 1) (.uni 4) (.uni 5) 0
     (([Instr.gclaim, .gcommit, .gretire] : List (FmtM → Instr)).all fun e => wit 4 (e ring) id fun t sl =>
       !(sl.ring t (ringOf ring)).claimedLater t.exec.cycle sl.run.unit) = true ∧
     wit 4 (.gawait ring) (regs [(4, 15)]) (fun t sl => (sl.ring t (ringOf ring)).isOpen (sl.uni32 0 (.uni 4))) = true ∧
     wit 4 (.gawait ring) (regs [(4, 0x80000000)])
       (fun t sl => Nat.ble (2 ^ 31) (sl.uni32 0 (.uni 4) - (sl.ring t (ringOf ring)).take).toNat) = true ∧
     let slot : FmtM := formM 6 (.uni 2) (.uni 4) (.uni 5) 0
     let inside (t : State) (sl : Slot) : Bool := sl.flagAddr slot % 8 == 0 && spadIn t sl.g.core sl.pair.owner (sl.flagAddr slot) 8 &&
       (spadPlace t sl.g.core sl.pair.owner true (sl.flagAddr slot) 8).isSome
     wit 4 (.sqpub slot) (regs [(2, 32760)]) (fun t sl => inside t sl) = true ∧
     wit 4 (.sqget slot) (fun g => { regs [(2, 32760)] g with paths := g.paths.modify 0 fun p => { p with matched := some 5 } })
       (fun t sl => inside t sl && sl.p.matched == some 5) = true ∧
     witAt (zeroed 32760 (demoG 4 0 (.sqget slot) (regs [(2, 32760)]))) (.sqget slot) (fun t sl => inside t sl && sl.p.matched.isNone && !accessHeld t sl.g sl.p &&
       (watchedValue t sl.g (sl.flagAddr slot).toNat).extractLsb' 0 32 == sl.uni32 0 (.uni 4)) = true) := by decide +kernel


/-! ### Witnesses: the words of Chapter 16 -/

/-- The machine in a domain of two devices, with lanes to lend and to borrow. -/
def joined (s : State) : State :=
  updCtx (s.onFabric fun x =>
    { x with formed := true, count := 2, rxPool := 64, txPool := 64, links := [⟨1, 1984, 64, 16, none, 0, [], 0, 0, false⟩],
             sets := [LaneSet.fresh 1 true 0 0 0 0, LaneSet.fresh 1 false 0 0 0 0] }) 0 fun x => { x with members := 3 }

/-- A lease of context 0 to device 1. -/
def leased (st : LeaseState) (gen slot : Nat) (drop : Bool) : Lease := ⟨slot, gen, st, 0, 1, 64, 0, 10, 10000, 0, drop, 0⟩

/-- The machine with a lease of context 0. -/
def holding (l : Lease) (s : State) : State := updCtx s 0 fun x => { x with leases := [l] }

def lword : FmtM := formM 6 (.uni 2) (.uni 3) (.uni 4) 0

/-- LeaseAndFabricWordsComplete, the lease words: a request that just fits, one of each refusal, and the release of no lease and of a
lease in each state. -/
theorem witness_LeaseWords :
    (let req (b k term : Word) (f : State → State) (p : Nat → State → Slot → Bool) : Bool :=
       witAt (f (joined (demoG 4 0 (.lease lword) (regs [(2, b), (3, k), (4, term)] ∘ counts 4095)))) (.lease lword) fun t sl =>
         !ocFull sl.g (some .ctl) && p (leaseRefusal t sl.g.ctx (sl.uni32 0 lword.a).toNat (sl.uni32 0 lword.b).toNat
           (sl.uni32 0 lword.c).toNat) t sl
     req 1 64 100000 id (fun r t sl => r == 0 && freeLeaseSlot (getCtx t sl.g.ctx) == some 0) = true ∧
     req 1 4 1 id (fun r t sl => r == 0 && freeLeaseSlot (getCtx t sl.g.ctx) == some 0) = true ∧
     req 1 68 1 id (fun r _ _ => r == 1) = true ∧
     req 1 64 1 (fun s => s.onFabric fun x => { x with txPool := 63 }) (fun r _ _ => r == 2) = true ∧
     req 1 64 100001 id (fun r _ _ => r == 4) = true ∧ req 0 64 1 id (fun r _ _ => r == 4) = true) ∧
    (let drop (ls : State → State) (p : Option LeaseState → Bool) : Bool :=
       witAt (ls (joined (demoG 4 0 (.leaseDrop lword) (regs [(2, 0x1FF)] ∘ counts 4095)))) (.leaseDrop lword) fun t sl =>
         !ocFull sl.g (some .ctl) && p ((findLease t sl.g.ctx (sl.uni32 0 lword.a).toNat).map (·.st))
     drop id (·.isNone) = true ∧
     (([.granted, .notice, .pending, .refused, .ended] : List LeaseState).all fun st =>
       drop (holding (leased st 1 255 false)) (· == some st)) = true) ∧
    witAt (joined (demoG 4 0 (.leaseq lword) (counts 4095))) (.leaseq lword) (fun _ sl => !ocFull sl.g (some .ctl)) = true := by
  decide +kernel

/-- The peer table of context 0 with one valid entry. -/
def peered (s : State) : State :=
  updCtx (physWrite (joined s) 0x30018 (leBytes 8 (2 ^ 63 + 1))) 0 fun x => { x with peerBase := 0x30000, peerCount := 1 }

/-- LeaseAndFabricWordsComplete, the fabric words: NMOP of every operation, CHASE at its limits; ST.MR in the last chunks of a window;
XFENCE of one device and of all; RGET into a queue, and into the last bytes of the allocation, of the smallest and the greatest size. -/
theorem witness_FabricWords :
    (let nm (op : BitVec 18) (v : Nat → Dword) : Bool :=
       let f : FmtM := { formM 6 (.vec 0) (.vec 3) (.vec 0) 0 with off := op }
       witAt (joined (demoG 4 0 (.nmop f) fun g => counts 4095 (g.setVreg 3 (Lanes.build v)))) (.nmop f) fun t sl =>
         let x := sl.lanes 0 f.b
         vaOk t sl.g.ctx (x.get 0) && nmopAligned op.toNat x && (op != 4 || chaseOk x) && !ocFull sl.g (some .fab)
     (([0, 1, 2, 3] : List (BitVec 18)).all fun op => nm op fun i => if i = 0 then 0x20000000000000 else 8) = true ∧
     nm 4 (fun i => [0, 8184, 16].getD i 0) = true ∧ nm 4 (fun i => [8, 0, 1].getD i 0) = true) ∧
    (let f : FmtM := formM 0 (.uni 2) (.uni 3) (.vec 4) 0
     witAt (updCtx (joined (demoG 4 0 (.stMr f) (regs [(2, 63), (3, 256)] ∘ counts 4095))) 0 fun x =>
       { x with windows := x.windows.set 63 (some ⟨1, [0, 1], 8, 512, 0x1000, 0⟩) }) (.stMr f) fun t sl =>
         (windowOf t sl.g.ctx (sl.uni32 0 f.a).toNat).any fun x =>
           let q := (sl.uni32 0 f.b).toNat
           q % 256 == 0 && Nat.ble (q + 256) x.len && !ocFull sl.g (some .fab)) = true ∧
    (([0, 1] : List (BitVec 18)).all fun o => witAt (joined (demoG 4 0 (.xfence { lword with off := o }) (regs [(2, 1)] ∘ counts 4095)))
      (.xfence { lword with off := o }) fun _ sl => !ocFull sl.g (some .ctl)) = true ∧
    (let f : FmtM := formM 240 (.uni 2) (.vec 3) (.vec 0) 0
     witAt (peered (demoG 4 0 (.rgetQueue f) (counts 4095))) (.rgetQueue f) fun t sl =>
       (peerEntry t sl.g.ctx (sl.uni32 0 f.a).toNat).isSome && !ocFull sl.g (some .fab) && sl.eff f.guard != 0) = true ∧
    (let f : FmtM := formM 0 (.uni 2) (.uni 4) (.uni 6) 0
     (([(32764, 4), (0, 32768)] : List (Word × Word)).all fun x =>
       witAt (peered (demoG 4 0 (.rgetSpad f) (regs [(6, x.1), (7, x.2)] ∘ counts 4095))) (.rgetSpad f) fun t sl =>
         let off := ((sl.uni64 0 f.c).extractLsb' 0 32).toNat
         let n := ((sl.uni64 0 f.c).extractLsb' 32 32).toNat
         (peerEntry t sl.g.ctx (sl.uni32 0 f.a).toNat).isSome && !ocFull sl.g (some .fab) && (sl.uni64 0 f.b).toNat % 4 == 0 &&
         off % 4 == 0 && n % 4 == 0 && Nat.ble 4 n && Nat.ble n 65536 && spadIn t sl.g.core sl.pair.owner off n) = true) := by decide +kernel

def yword (sel : BitVec 16) : FmtY := ⟨plain 6 (.uni 2), .uni 4, .vec 0, sel, 0⟩

/-- TrapAndBreakpointComplete: TRAP and BKPT in a group, and BKPT in a Press stream. SystemWordsComplete: each system word; ERET from a
handler with and without a poison record; GROW at and above the limit, and after its granules came; HMSEAL with 63 requests before it. -/
theorem witness_SystemWords :
    wit 0 (.trap (yword 65535)) id (fun _ _ => true) = true ∧
    (let s := demo 4 0 (.bkpt (yword 1))
     meets s (.bkpt (yword 1)) (fun _ => !pressIssues s)) = true ∧
    (([0x100, 0x101, 0x108, 0x109] : List (BitVec 16)).all fun n => wit 4 (.sysrd (yword n)) id fun _ _ => true) = true ∧
    (([0x101, 0x108] : List (BitVec 16)).all fun n => wit 4 (.syswr (yword n)) id fun _ _ => true) = true ∧
    wit 4 (.mapft (yword 0)) id (fun _ _ => true) = true ∧
    (([none, some (0, 7)] : List (Option (Nat × Nat))).all fun p => wit 4 (.eret (yword 0))
      (fun g => { g with sup := some 0, poison := p, trap := { g.trap with epc := 0x1004 } }) fun t sl =>
        (t.exec.ops.filter fun o => o.gid == sl.g.gid && o.kind == .mapft).isEmpty && pcOk sl.g.trap.epc && sl.g.poison == p) = true ∧
    (([(0, 0), (1, 0)] : List (Word × Nat)).all fun x => wit 4 (.grow (yword 0)) (regs [(2, x.1)]) fun t sl =>
      !sl.p.granted && growNow t sl.g x.1.toNat == some x.2) = true ∧
    wit 4 (.grow (yword 0)) (fun g => { regs [(2, 8)] g with g := 0 }) (fun t sl => !sl.p.granted && growNow t sl.g 8 == some 8) = true ∧
    wit 4 (.grow (yword 0)) (fun g => { g with paths := g.paths.modify 0 fun p => { p with granted := true } }) (fun _ sl => sl.p.granted) =
      true ∧
    (([Instr.shrink, .temit, .hmread] : List (FmtY → Instr)).all fun e => wit 4 (e (yword 63)) id fun _ _ => true) = true ∧
    wit 4 (.launch (yword 0)) lastWord8 (fun t sl => let a := sl.uni64 0 (.uni 2)
      a == 0x1FFFFFFFFFFFF8 && a.toNat % 8 == 0 && vaOk t sl.g.ctx a && vaLocal t a) = true ∧
    witAt ((demo 4 0 (.hmseal (yword 0))).onMysko fun m => { m with seals := List.replicate 63 (.hmseal 0) }) (.hmseal (yword 0))
      (fun t sl => ([sl.uni64 0 (.uni 2), sl.uni64 0 (.uni 4)].all fun x => x.toNat % 8 == 0 && vaOk t sl.g.ctx x && vaLocal t x) &&
        Nat.blt t.mysko.seals.length 64) = true := by decide +kernel


/-! ### Witnesses: the Press -/

/-- The machine with an instruction twice in the run of core 0's Press context 0. -/
def pdemo (i : Instr) (f : PressCtx → PressCtx) : State :=
  updPress ({ probe.onExec fun e =>
      { e with runs := [⟨0, 5, 0, 0, 0x1000, [(0x1000, i), (0x1001, i)], 0, [none, none, none], [], none, none⟩] }
    with issuer := some (0, 5) }) 0 0 f

/-- Whether a Press stream issues, and a condition on its state and slot holds. -/
def pwit (i : Instr) (f : PressCtx → PressCtx) (p : State → PSlot → Bool) : Bool :=
  (currentPress (pdemo i f)).any (p (pdemo i f))

def pressXA : FmtXA := ⟨plain 3 (.vec 4), .vec 6, .vec 0, 10, 10, 0, 0⟩
def pressXR : FmtXR := ⟨plain 16 (.vec 0), .vec 0, .vec 0, 0, 4, 63, 0⟩
def pressB (cond : BitVec 4) : FmtB := { formB 0 (.short 0) with cond := cond }

/-- PressCommandsComplete: MLOOP at its last pass and before it, MBRA each way, MEND, MHWAIT, MPOP; the unscored commands and an MMA
with just its charge; and the region commands of 64 rows that end at the allocation's last byte, with an entry granted. -/
theorem witness_PressCommandsComplete :
    (let again (k : Word) (last : Bool) : Bool := pwit (.mloop (pressB 0)) (fun p => { p with k := [k, 0, 0, 0] }) fun s ps =>
       ((((ps.p.k.getD 0 0).toNat - 1) == 0) == last) && !badTargetAt s ps.p.core ps.cohort.ctx (targetPc ps.pc (pressB 0))
     again 1 true = true ∧ again 2 false = true) ∧
    (([(0, 0), (1, 0x80000000), (2, 0)] : List (BitVec 4 × Word)).all fun x =>
      pwit (.mbra (pressB x.1)) (fun p => { p with item := x.2 }) fun s ps =>
        (x.1 == 0 || ps.p.item.getLsbD 31 == (x.1 == 1)) && !badTargetAt s ps.p.core ps.cohort.ctx (targetPc ps.pc (pressB x.1))) = true ∧
    (([(1, 0), (2, 0x80000000)] : List (BitVec 4 × Word)).all fun x =>
      pwit (.mbra (pressB x.1)) (fun p => { p with item := x.2 }) fun _ ps => ps.p.item.getLsbD 31 == (x.1 == 2)) = true ∧
    pwit (.mend (pressB 0)) id (fun _ _ => true) = true ∧
    pwit (.mhwait ⟨plain 0 (.short 1), .vec 0, .vec 0, 0, 0, 0, 0⟩) (fun p => { p with w := List.replicate 16 0xFFFFFFFF })
      (fun _ ps => phaseDone (ps.cohort.hoopDone.getD 1 0) (ps.p.w.getD 1 0)) = true ∧
    (([0, 1] : List Nat).all fun k => pwit (.mpop pressXA)
      (fun p => { p with rings := p.rings.set k ⟨1, 0, (List.replicate 16 .empty).set 0 (.committed 9), (0, 0), List.replicate 16 0⟩ })
      fun _ ps => mpopTakes ps.p 0 == some (k, 9)) = true ∧
    (([Instr.mzero, .mcvt, .mharrive] : List (FmtXA → Instr)).all fun e => pwit (e pressXA) id fun _ ps => pressFree ps.p (e pressXA)) = true ∧
    (let s := updCore (pdemo (.mma pressXA) fun p => { p with toggles := List.replicate 16 512 }) 0 fun k => { k with budget := 16 }
     (currentPress s).any (fun ps => pressFree ps.p (.mma pressXA) && mmaCharge ps.p pressXA == 16 &&
       Nat.ble (mmaCharge ps.p pressXA) (getCore s ps.p.core).budget)) = true ∧
    (let region (i : Instr) (f : FmtXR) (writes : Bool) : Bool := pwit i id fun s ps =>
       let base := regionBase ps.p f
       let r := scoreTurn (regionGranules (allocBase s ps.p.core ps.owner) (pressRows f base) (rowBytes i)) writes s ps
       pressFree ps.p i && ((pressRows f base).all fun a => spadIn s ps.p.core ps.owner a (rowBytes i)) && base % 128 == 0 &&
         (r.2.exec.score.any fun e => e.id == r.1 && e.granted)
     let low : FmtXR := { pressXR with off := 28672 }
     let scale : FmtXR := { pressXR with off := 24576, pitch := 8 }
     region (.mload low) low false = true ∧ region (.mloadT low) low false = true ∧ region (.mstore low) low true = true ∧
     region (.mloadS scale) scale false = true) ∧
    (let f : FmtXA := { pressXA with modi := 32760 }
     pwit (.msig f) id fun s ps =>
       let d := (f.modi.extractLsb' 0 19).toNat
       let r := scoreTurn (regionGranules (allocBase s ps.p.core ps.owner) [d] 8) true s ps
       pressFree ps.p (.msig f) && d % 8 == 0 && spadIn s ps.p.core ps.owner d 8 &&
         (r.2.exec.score.any fun e => e.id == r.1 && e.granted)) = true := by decide +kernel


/-! ### Witnesses: accesses and the memory side -/

/-- Whether an attempt succeeds, with a condition on what it gives. -/
def fine {ε α : Type} (x : Except ε α) (p : α → Bool) : Bool :=
  match x with
  | .ok a => p a
  | .error _ => false

/-- Whether the operation in flight is found, and a condition on it holds. -/
def op77 (s : State) (p : Op → Bool) : Bool := (findOp s 77).any p

/-- AccessEventsComplete: the last lane of a store, a lane at scratchpad's end, a byte of a copy read and one written, the return of a
load to a register and to a queue, the acknowledgement of a remote store, of a scratchpad store and of an arrival, and a fault's return. -/
theorem witness_AccessEventsComplete :
    (let s := withOps [{ flying 2 (.store 2) (BitVec.allOnes 64) with addrs := Lanes.build fun i => BitVec.ofNat 64 (4 * i) }] probe
     op77 s fun o => ((o.unitsLeft 63).find? fun u => u.1 == 0) == some (0, 252, 4) &&
       (o.withUnit s 63 0 (252, 4)).all (fun y => unitReady s o y.1 y.2.2) && unitReady s o 63 (252, 4) && (lineHolder s o 252).isNone) = true ∧
    (let s := withOps [{ flying 2 (.spadStore false 0 8) (2 ^ 63) with addrs := List.replicate 64 32760 }] probe
     op77 s fun o => ((o.unitsLeft 63).find? fun u => u.1 == 1) == some (1, 32764, 4) && unitReady s o 63 (32764, 4) && o.kind.spad &&
       (completeHere s o).isSome && o.kind.acknowledged && !o.unpaired) = true ∧
    (let d : CopyDesc := ⟨1, 0x8000, 0, 1, 4, 4, 4, 0, 0, none, 0⟩
     (([[], [(0, 0, 2), (1, 0, 3), (2, 0, 4), (3, 0, 5)]] : List (List (Nat × Nat × Nat))).all fun ps =>
       let s := (withOps [{ flying 2 (.copy d) 1 with parts := ps }] probe).onExec fun e => { e with score := [⟨77, 0, [0], false, true⟩] }
       op77 s fun o => (copyOf s o).any fun x => x.1 == d && Nat.blt 3 d.size && o.remote == 0 &&
         (if ps.isEmpty then (d.wordOf (d.source s x.2.1 x.2.2.1) 3).all fun j => !o.byteBegun j &&
            byteReadable s d x.2.1 x.2.2.1 x.2.2.2 j && (o.byteHolder s d j).isNone
          else let ix := (d.wordOf (d.target s x.2.1 x.2.2.1) 3).filter fun j => !o.refusedBytes.contains j
            !ix.isEmpty && ix.all fun j => (o.byteRead j).isSome && byteWritable s o d x.2.1 x.2.2.1 x.2.2.2 j &&
              (o.byteHolder s d j).isNone)) = true) ∧
    (let s := withOps [flying 2 (.carrive 5) 1] (ringed 0 [(2, 1, 1)] probe)
     op77 s fun o => firstArrival s o && (completeHere s o).isSome && o.kind.acknowledged) = true ∧
    (([Dest.vreg 6, .port 0 9] : List Dest).all fun d =>
      let s := withOps [{ flying 2 (.load 2 false 32) 0 with done := 1, dst := d }] probe
      op77 s fun o => !o.dormant && o.kind.returnsData && o.from_ == s.fabric.index && !(o.kind == .mapft) &&
        ((beforeReturn s o []).any fun x => x.2) && ((o.withData s []).any fun x => !(x.done == 0 && x.faulted != 0) && x.dst == d) &&
        (findGroup s o.gid).isSome &&
        !(s.exec.winAcc.any fun w => w.op == 77)) = true ∧
    (let s := withOps [{ flying 2 (.store 2) 1 with remote := 1 }] (joined probe)
     op77 s fun o => o.todo != 0 && !o.dormant && o.from_ == s.fabric.index && !o.unpaired && awaitedReady s o o.todo &&
       o.todo &&& ~~~o.remote == 0) = true ∧
    (let s := withOps [{ flying 2 (.store 2) 0 with faulted := 1, cause := 7 }] probe
     op77 s fun o => !o.dormant && !o.told && o.from_ == s.fabric.index && replayRoom s o o.replayed && o.faulted != 0 && o.todo == 0) =
       true := by decide +kernel

/-- WindowAndCopyEventsComplete: a waiting window access, one that has waited four cycles, a store-data queue with data and an address,
a copy from scratchpad to memory with nothing done and with every byte written, and remote copies whose payload is to come, to go and to
be acknowledged. -/
theorem witness_WindowAndCopyEventsComplete :
    (let s := (demo 0 0 (.vadd vecWord)).onExec fun e => { e with winAcc := [⟨0, 1, 0, 9, 1, 0, Lanes.zero, 4, 77⟩] }
     ((windowWaits s 0)[0]?).any (fun w => Nat.ble 4 w.waited && (findPair s w.pair).any fun p => bankUsed s 0 p.part (w.queue % 4)) &&
       (windowWaits s 0)[0]?.any fun w => !w.blocked (dropRun s 0 0)) = true ∧
    (let s := updQueue probe 1 1 fun q => { q with entries := [⟨9, .ready, Lanes.zero, 0, 0, none, false, [], 0⟩],
                                                   addrs := [⟨77, 1, Lanes.zero, 0, 2, 0, 0, 0x1000, 0, []⟩] }
     (findPair s 1).any fun p => let q := p.queue 1
       q.kind == 1 && (q.addrs.head?.any fun a => a.refused == 0) && (q.entries.head?.any fun e => e.st == .ready)) = true ∧
    (let d : CopyDesc := ⟨1, 0x8000, 0, 1, 4, 4, 4, 0, 0, none, 0⟩
     let s (k : Nat) (f : Op → Op) : State := (withOps [f (flying 2 (.copy { d with kind := k }) 1)] probe).onExec fun e =>
       { e with score := [⟨77, 0, [0], false, true⟩] }
     let at_ (s : State) (p : Op → CopyDesc → Group → PlaceSrc → ScoreEntry → Bool) : Bool :=
       op77 s fun o => (copyOf s o).any fun x => p o x.1 x.2.1 x.2.2.1 x.2.2.2
     let away (o : Op) : Op := { o with remote := 1 }
     at_ (s 1 id) (fun o _ g own e => o.remote == 0 && (copyRest (s 1 id) o { d with kind := 1 } g own e).isSome) = true ∧
     (let f (o : Op) : Op := { o with pieces := [0, 1, 2, 3] }
      at_ (s 1 f) fun o d g own _ => o.remote == 0 && (o.bytesLeft d).isEmpty && o.refusedBytes.isEmpty && flagFree (s 1 f) g own o d) = true ∧
     at_ (s 0 away) (fun o d _ _ _ => o.remote != 0 && d.kind == 0 && ((o.bytesLeft d).filter fun i => !o.byteBegun i).length == 4) = true ∧
     at_ (s 1 away) (fun o d g own e => o.remote != 0 && ((o.bytesLeft d).filter fun i => !o.parts.contains (i, 2, 0)).length == 4 &&
       !scoreBehind (s 1 away) e && (((o.bytesLeft d).filter fun i => !o.byteBegun i).all fun i => byteReadable (s 1 away) d g own e i) &&
       (((o.bytesLeft d).filter fun i => !o.parts.contains (i, 2, 0)).all fun i =>
         !copyBefore (s 1 away) g own o (d.target (s 1 away) g own i))) = true ∧
     (let f (o : Op) : Op := { away o with parts := [(0, 2, 0), (1, 2, 0), (2, 2, 0), (3, 2, 0)] }
      at_ (s 1 f) fun o d g own _ => ((o.bytesLeft d).filter fun i => !o.parts.contains (i, 2, 0)).isEmpty &&
        flagFree (s 1 f) g own o d) = true) := by decide +kernel

/-- A line of context 0 at its home, readable and writable. -/
def homeLine (line frame : Nat) : L2Line := ⟨0, line, frame, true, true, false, false, List.replicate 128 0, [0], false⟩

/-- SliceEventsComplete: an L1 copy, a directory entry, an L2 line, a service that runs, and a walk of four levels to a page of 8 KiB. -/
theorem witness_SliceEventsComplete :
    (let s := probe.onMemory fun m => { m with l1 := [⟨0, 0, 5, true, 0⟩], l2 := [homeLine 5 5] }
     (s.memory.l1.any fun l => l.core == 0 && l.tag == 0 && l.line == 5) && !(s.memory.l1.filter fun l => l.tag == 0 && l.line == 5).isEmpty &&
       (s.memory.l2.any fun l => !l.table && l.tag == 0 && l.line == 5) && memoryRuns s) = true ∧
    (let put (a v : Nat) (s : State) : State := physWrite s a (leBytes 8 v)
     let s := put 0x102000 (2 ^ 63 + 0x10A000) (put 0x10A000 (2 ^ 63 + 0x10C000) (put 0x10C000 (2 ^ 63 + 0x10E000)
       (put 0x10E008 (2 ^ 63 + 2 ^ 60 + 2 ^ 56 + 0x400000) (probe.onMemory fun m => { m with ranges := List.replicate 32 none }))))
     (rangeHit s 0 0x2008).isNone && (tlbHit s (homeSlice s 0 0x2008) 0 0x2008).isNone &&
       fine (pageWalk s 0 0x2008) fun t => t == ⟨0x2000, 8192, 0x400000, true, false, false, false⟩) = true ∧
    (let s := probe.onMemory fun m => { m with ranges := List.replicate 32 none }
     (match pageWalk s 0 0x2008 with
      | .ok _ => false
      | .error _ => true) && (rangeHit s 0 0x2008).isNone && (tlbHit s (homeSlice s 0 0x2008) 0 0x2008).isNone) = true := by decide +kernel


/-- A binary32 region at 0x8000 with its order words at 0xA000. -/
def region32 : Region := ⟨8, 0x8000, 4096, 0, 0, 0xA000, none⟩

/-- The machine with that region in slot 63 of context 0. -/
def regioned (s : State) : State := updCtx s 0 fun x => { x with regions := x.regions.set 63 (some region32) }

/-- One contribution of 32 lanes to its last line. -/
def contribution (ord : Option Nat) : Op :=
  flying 2 (.crux 8 false false ord.isSome [⟨0x8F80, .add (BitVec.allOnes 64) Lanes.zero 0x8F80, ord, .sent⟩]) 1

/-- CrucibleEventsComplete: an unordered contribution, an ordered one that finds its granule's entry, and the load, the eviction and the
stall of an entry of the last granule. -/
theorem witness_CrucibleEventsComplete :
    (([none, some 7] : List (Option Nat)).all fun ord =>
      let e : OrderEntry := ⟨0, 63, 31, false, 7, 0, false⟩
      let s := (withOps [contribution ord] (regioned probe)).onMemory fun m => { m with orders := [e] }
      (contribAt s 77 0).any fun x => (match x.1.kind with
        | .crux fmt _ _ _ _ => cruxReady s x.1 x.2 && (lineHolder s x.1 x.2.addr).isNone && fine (cruxCheck s x.1.ctx fmt x.2) fun y =>
            scaleOk y.2.2 x.2 && x.2.ordinal == ord &&
              (ord.isNone || y.2.2.o != 0)
        | _ => false)) = true ∧
    (let s (loading : Bool) : State := (regioned probe).onMemory fun m => { m with orders := [⟨0, 63, 31, loading, 7, 0, false⟩] }
     let region (s : State) : Bool := (findOrder s 0 63 31).isSome && (getCtx s 0).regions.getD 63 none == some region32
     region (s true) && fine (loadBytes (s true) 0 (region32.o + 2 * 31) 2) (fun _ => true) && region (s false) &&
       (granuleWaiters (s false) 0 63 region32 31 .parked).isEmpty && (granuleWaiters (s false) 0 63 region32 31 .held).isEmpty &&
       !fine (loadBytes ((s true).onMemory fun m => { m with ranges := List.replicate 32 none }) 0 (region32.o + 2 * 31) 2) fun _ => true) =
       true ∧
    (let o : Op := flying 2 (.crux 8 false false true [⟨0x8F80, .add 0 Lanes.zero 0x8F80, some 9, .parked⟩]) 1
     let s := { (withOps [o] (regioned probe)).onMemory fun m => { m with orders := [⟨0, 63, 31, false, 7, 0, false⟩] } with tick := 10 ^ 7 }
     (findOrder s 0 63 31).any fun e => !e.loading && !e.stalled && !(granuleWaiters s 0 63 region32 31 .parked).isEmpty &&
       (drainable s 0 63 region32 31).isNone && Nat.ble (e.since + 10 ^ 7) s.tick) = true := by decide +kernel

/-! ### Witnesses: what each unit does next -/

/-- The machine whose word at 0x1000 is a given instruction's. -/
def withWord (i : Instr) : State := State.reset.withFetchWord 96 (encode i).toNat

/-- ArbitrationEventsComplete: a unit within a run and one at a boundary with a path passed over 63 times; promotion at 64; the fetch of
the chosen path and of the chosen stream; and a Press stream that can issue. -/
theorem witness_ArbitrationEventsComplete :
    (let s := demo 0 0 (.vadd vecWord)
     (findRun s 0 0).isSome && !claimLate s 0 0 && unitMayIssue s 0 0) = true ∧
    (let s := updSched probe 0 0 fun u => { u with chosen := some (3, 0) }
     (findRun s 0 0).isNone && unitMayIssue s 0 0 && standingChoice s 0 0) = true ∧
    (let s := updGroup probe 3 fun g => { g with paths := g.paths.modify 0 fun p => { p with passed := 63 } }
     (findRun s 0 0).isNone && unitMayIssue s 0 0 && !standingChoice s 0 0 && !((unitPaths s 0 0).filter fun x => x.2.2).isEmpty &&
       !((unitPaths s 0 0).any fun x => promotionDue (x.1.path x.2.1))) = true ∧
    (let s := updGroup probe 3 fun g => { g with paths := g.paths.modify 0 fun p => { p with passed := 64 } }
     (findGroup s 3).any fun g => promotionDue (g.path 0)) = true ∧
    ((findRun probe 0 4).isNone && unitMayIssue probe 0 4 && (schedOf probe 0 4).chosen == some (2, 0) && chosenStands probe 0 4 2 0) = true ∧
    (let s := updSched probe 0 5 fun u => { u with chosen := some (4, 0) }
     (findRun s 0 5).isNone && unitMayIssue s 0 5 && (schedOf s 0 5).chosen == some (4, 0) && !pressIssued s 0 &&
       (findPress s 0 0).any fun p => p.st == .running || p.st == .waiting) = true ∧
    (!(probe.exec.presses.filter fun p => p.core == 0 && pressCan probe p).isEmpty && !pressIssued probe 0) = true := by decide +kernel

/-- A path of the access group changed. -/
def pathed (f : Path → Path) (s : State) : State := updGroup s 2 fun g => { g with paths := g.paths.modify 0 f }

/-- ReleaseEventsComplete: a matched watch, a deadline that has come, a signal polled here, at another device and over a pair that is
down, a hoop's arrival, a blocked pair, and a stopped stream with and without a group to take its cause. -/
theorem witness_ReleaseEventsComplete :
    (let s := pathed (fun p => { p with st := .waiting, watch := some (.signal 0x8000 0 0), matched := some 0, deadline := some 0 }) probe
     ((findGroup s 2).any fun g => (g.path 0).st == .waiting && !(g.path 0).stopped && (g.path 0).deadline == some s.tick) &&
     (findGroup (examine s) 2).any fun g => (g.path 0).st == .waiting && !(g.path 0).stopped && (g.path 0).watch.isSome &&
       (g.path 0).matched.isSome) = true ∧
    (([(0x8000, false), (0x20000000000000, false), (0x20000000000000, true)] : List (Dword × Bool)).all fun x =>
      let a := x.1
      let s := updLink (pathed (fun p => { p with st := .waiting, watch := some (.signal a 0 0) }) (joined probe)) 1 fun l =>
        { l with down := x.2 }
      (findGroup s 2).any fun g => (g.path 0).watch == some (.signal a 0 0) && (g.path 0).matched.isNone && !(g.path 0).stopped &&
        !accessHeld s g (g.path 0) && !veiledOutside s g.ctx a.toNat 8 && (vaLocal s a == (a == 0x8000)) &&
        (if vaLocal s a then fine (loadBytes s g.ctx (vaOffset a) 8) fun _ => true else pairDown s (vaOwner a) == x.2)) = true ∧
    (let s := withOps [flying 2 (.harrive 3) 1] probe
     op77 s fun o => ((findGroup s o.gid).bind fun g => (findPair s g.pair).bind (·.cohort)) == some 4 && o.todo != 0 &&
       (s.exec.ops.takeWhile fun x => x.id != 77).isEmpty && o.orderMet s &&
       (findCohort s 4).any fun c => Nat.ble (c.hoopLast.getD 3 (0, 0)).2 4) = true ∧
    (let s := (withWord (.vadd (formA 2 (.vec 240) (.vec 1) (.vec 0) 4))).onExec fun e =>
       { e with pairs := e.pairs.map (fun p => { p with idle := 4096 })
                groups := e.groups.map fun g => { g with exited := g.gid == 2 } }
     (findPair s 1).any fun p => let twins := s.exec.groups.filter fun g => g.pair == 1 && !g.exited
       p.resident && p.idle == 4096 && !twins.isEmpty && twins.all fun g => (twinBlocked s g p).isSome) = true ∧
    (([false, true] : List Bool).all fun gone =>
      let s := updPress probe 0 0 fun p => { p with st := .stopped, cause := some ⟨7, 3, 0x1000, 0, 0, 0, 0, false⟩ }
      let s := s.onExec fun e => { e with groups := e.groups.map fun g => { g with exited := gone } }
      (findPress s 0 0).any fun p => p.cause.isSome && p.st == .stopped && p.taken.isNone &&
        (findCohort s p.cohort).any fun co => if gone then (pressTaker s co 0).isNone
          else (pressTaker s co 0).any fun g => g.pressCause.isNone) = true := by decide +kernel

/-- PressEventsComplete and MzeroClearsItsAccumulator: a command that nothing holds, an entry that waits behind 31 granted ones, and a
multiple of 1,000 ticks. -/
theorem witness_PressEventsComplete :
    (let i : Instr := .mzero ⟨plain 7 (.vec 0), .vec 0, .vec 0, 0, 0, 0, 0⟩
     let s := updPress probe 0 0 fun p => { p with cmds := [⟨77, i, 0, 0⟩] }
     (s.exec.presses.find? fun p => p.cmds.any fun c => c.id == 77).any fun p =>
       (findCohort s p.cohort).isSome && (s.exec.score.find? fun e => e.id == 77).isNone && (p.cmds.head?.map (·.id)) == some 77 &&
       (p.cmds.find? fun x => x.id == 77).any (fun c => c.what == i) && findPress s p.core p.num == some p && Nat.blt 7 p.accs.length) = true ∧
    (let s := probe.onExec fun e => { e with score := (List.range 32).map fun k => ⟨k, 0, [k], true, Nat.blt k 31⟩ }
     (s.exec.score.find? fun e => e.core == 0 && !e.granted).isSome && Nat.blt (grantedCount s 0) 32) = true ∧
    ({ probe with tick := 1000 } : State).tick % 1000 = 0 := by decide +kernel


/-! ### Witnesses: leases, links and remote work -/

/-- The machine in its domain with a lease of context 0 in slot 255. -/
def lent (l : Lease) : State := holding l (joined probe)

/-- LeaseEventsComplete: a request; a decision that grants all the pool, one that refuses a request one lane above it, one that may
not revoke enough, and one that puts a notice for just the lanes that it lacks; the answers to a pending request; a notice, an expiry and both ends of a notice; a lane-set change; and a leave. -/
theorem witness_LeaseEventsComplete :
    (findLink (joined probe) 1).isSome = true ∧
    (([(64, false), (68, false), (68, true)] : List (Nat × Bool)).all fun x =>
      let s := (joined probe).onFabric fun y => { y with reqs := [⟨1, x.1, 10, x.2, false, 0, false⟩] }
      s.fabric.notices.isEmpty && (s.fabric.reqs.head?.any fun r =>
        let revocable := (((s.fabric.served.filter fun v => v.peer != r.peer && v.noticed == 0).foldr insertServed []).map fun v => v.lanes).sum
        Nat.ble r.lanes s.fabric.rxPool == (x.1 == 64) && (x.1 == 64 || !r.revoking || Nat.blt (s.fabric.rxPool + revocable) r.lanes))) = true ∧
    (let s := (joined probe).onFabric fun y => { y with reqs := [⟨1, 68, 10, true, false, 0, false⟩], served := [⟨5, 2, 4, 0, 0, 10000⟩] }
     s.fabric.notices.isEmpty && s.fabric.reqs.head?.any fun r =>
       let others := (s.fabric.served.filter fun v => v.peer != r.peer && v.noticed == 0).foldr insertServed []
       Nat.blt s.fabric.rxPool r.lanes && r.revoking && r.lanes == s.fabric.rxPool + (others.map fun v => v.lanes).sum &&
         ((chooseNotices (r.lanes - s.fabric.rxPool) others).map (·.2)).sum == r.lanes - s.fabric.rxPool) = true ∧
    ((leaseAt (lent (leased .pending 1 255 false)) 0 255).any fun l => l.st == .pending && !l.dropAsked) = true ∧
    ((leaseAt (lent (leased .granted 1 255 false)) 0 255).any fun l => l.st == .granted && Nat.ble 64 l.held) = true ∧
    (let s (st : LeaseState) : State := { lent { leased st 1 255 false with noticed := 32, noticeAt := 9999 } with tick := 10000 }
     (([.granted, .notice] : List LeaseState).all fun st => (leaseAt (s st) 0 255).any fun l => l.st == st && Nat.ble l.until_ 10000)) = true ∧
    (let s (n : Nat) : State := { lent { leased .notice 1 255 false with noticed := n, noticeAt := 9999 } with tick := 9999 }
     (([32, 64] : List Nat).all fun n => (leaseAt (s n) 0 255).any fun l => l.st == .notice && Nat.ble l.noticeAt 9999 &&
       Nat.blt 9999 l.until_ && (Nat.ble l.held l.noticed == (n == 64)))) = true ∧
    ((findLink ((joined probe).onFabric fun x => { x with links := [⟨1, 1984, 64, 16, some 17, 0, [(3, 2, 1)], 1, 0, false⟩] }) 1).any fun l => l.stray != 0 &&
      l.pendingSets == some 17 && l.unacked == 0) = true ∧ (joined probe).fabric.formed = true := by decide +kernel

/-- RemoteWorkEventsComplete: a load from device 1 and one of its decrements, an operation of the home agent, an RGET served and its last piece landed, a transport
failure, a mapping request of this device and of another, and an XFENCE with nothing left before it. -/
theorem witness_RemoteWorkEventsComplete :
    (let r : RemoteReq := ⟨0, 15, 0, 15, .load 2, 1, Lanes.zero, Lanes.zero, Lanes.zero, 0⟩
     let d : RemoteReq := { r with kind := .devdec 1 0 0, addr := List.replicate 64 0x9000 }
     vaLocal (joined probe) (d.addr.get 0) && d.lanes != 0 && (findLink (joined probe) 1).any (fun l => !l.down) && r.ctx == 15 && r.lanes != 0 && (joined probe).exec.ops.isEmpty) = true ∧
    (let s := withOps [{ flying 2 (.nmop 0) 1 with addrs := List.replicate 64 0x8000, data := List.replicate 64 0x8000 }] probe
     op77 s fun o => agentReady s o 0 && ((o.agentNext s 0).findSome? fun x => lineHolder s o (BitVec.ofNat 64 x.2.1)).isNone &&
       fine (agentRun s o 0) fun _ => true) = true ∧
    (let s := withOps [{ flying 2 (.nmop 4) 1 with
       addrs := List.replicate 64 0x8000, data := Lanes.build fun i => BitVec.ofNat 64 ([0x8000, 8, 1].getD i 0) }] probe
     op77 s fun o => agentReady s o 4 && ((o.agentNext s 4).findSome? fun x => lineHolder s o (BitVec.ofNat 64 x.2.1)).isNone && o.chasing s &&
       fine (agentRead s (o.party s) o.ctx (o.chaseLink o.chased.2)) fun _ => true) = true ∧
    (let s := updCtx (physWrite (physWrite (joined probe) 0x30000 (leBytes 24 (7 + 5 * 2 ^ 128))) 0x30018 (leBytes 8 (2 ^ 63 + 1))) 0 fun x =>
       { x with peerBase := 0x30000, peerCount := 1 }
     s.mysko.phase == .full && (getCtx s 0).st != .absent && servesPeer s 0 (BitVec.ofNat 192 (7 + 5 * 2 ^ 128)) 0 && fine (rgetRead s 0 0x8FFC 4) fun _ => true) = true ∧
    (let s := withOps [{ flying 2 (.rgetSpad 0 28672 4096 0) 2 with addrs := List.replicate 64 0x8004 }] probe
     op77 s fun o => (findGroup s o.gid).any fun g => (findPair s g.pair).isSome &&
       (rgetPieces 18 (o.addrs.get 0).toNat 0 4096)[1]? == some (4092, 4) && o.todo.getLsbD 1 && !o.dormant &&
       o.after.all (opPerformed s) && !rgetBefore s o 0 (28672 + 4092) 4) = true ∧
    (([0, 1] : List Nat).all fun dev =>
      let s := withOps [{ flying 2 .mapft 1 with from_ := dev }] (joined probe)
      op77 s fun o => o.todo != 0 && o.remote == 0 && (o.from_ == s.fabric.index) == (dev == 0) &&
        (mapRun s o.ctx (vaOffset (o.addrs.get 0))).1.fabric.index == s.fabric.index) = true ∧
    (let s := withOps [flying 2 (.xfence (some 1) false [5]) 1] (joined probe)
     op77 s fun o => o.todo != 0 && opPerformed s 5) = true := by decide +kernel

/-- The lane set of the domain changed. -/
def linked (f : LaneSet → LaneSet) : State := (joined probe).onFabric fun x => { x with sets := x.sets.map f }

/-- A reduce window of context 0, whose home is a device. -/
def windowed (home : Nat) (s : State) : State :=
  updCtx (joined s) 0 fun x => { x with windows := x.windows.set 63 (some ⟨home, [0, 1], 8, 512, 0x8000, 0x9000⟩) }

/-- LinkEventsComplete: a flit of the current generation and the first of the next; a payload of 64 bytes; the generation's counts at their limits, a switch at
its first and its last tick and one tick late, and the old generation's end. `witness_LinkWindows` has the last chunk of a window from each
member, a resend and a delivery, and a decrement here and at device 1. -/
theorem witness_LinkEventsComplete :
    ((findSet (linked id) 1 false 0).any fun l => l.accepts (fullGen l.rxGen (0 / 2 ^ 64)) 0 && 0 % 2 ^ 24 == l.rxSeq % 2 ^ 24) = true ∧
    ((findSet (linked fun l => { l with rxAnnounced := true, rxSeq := 2 ^ 24 - 1 }) 1 false 0).any fun l =>
      l.accepts (fullGen l.rxGen ((2 ^ 64 + 2 ^ 24 - 1) / 2 ^ 64)) 0 && (2 ^ 64 + 2 ^ 24 - 1) % 2 ^ 24 == l.rxSeq % 2 ^ 24) = true ∧
    (List.replicate 64 (0 : Byte)).length ≤ 64 ∧
    ((findSet (linked fun l => { l with sent := 2 ^ 32 }) 1 true 0).any fun l => l.switchAt.isNone && Nat.ble (2 ^ 32) l.sent) = true ∧
    (let s := { linked id with tick := 10 ^ 9 }
     (findSet s 1 true 0).any fun l => l.switchAt.isNone && Nat.ble (l.genSince + 10 ^ 9) s.tick) = true ∧
    (([100, 16100, 16101] : List Nat).all fun tick => (findSet { linked fun l => { l with switchAt := some 100 } with tick := tick } 1 true 0).any
      fun l => l.switchAt == some 100 && l.unacked == 0 && Nat.ble 100 tick && (Nat.ble tick (100 + 16000) == (tick != 16101))) = true ∧
    (let s := { linked fun l => { l with rxNewAt := some 0 } with tick := 64000 }
     (findSet s 1 false 0).any fun l => l.rxNewAt == some 0) = true := by decide +kernel

/-- LinkEventsComplete, the windows and decrements. -/
theorem witness_LinkWindows :
    (let data : List Byte := List.replicate 128 1
     let s := windowed 0 probe
     let own := windowed 0 (withOps [{ flying 2 (.stmr 63 256 []) 3 with data := Lanes.zero }] probe)
     ((homeWindow s 0 63).any fun x => x.members[1]? == some 1 && Nat.ble (128 * 3 + 128) x.len &&
       (mrAccept s 0 63 x 1 3 data).isSome) && data.length == 128 &&
     ((homeWindow own 0 63).any fun x => x.members[0]? == some own.fabric.index && (mrSource own 0 63 3).isSome)) = true := by decide +kernel

/-- LinkEventsComplete, a resend and a delivery. -/
theorem witness_LinkDelivery :
    (let s := windowed 1 (withOps [{ flying 2 (.stmr 63 256 [(1, 0)]) 3 with remote := 3 }] probe)
     (op77 s fun o => o.todo != 0 && o.remote != 0 && (homeWindow s o.ctx 63).isNone) && ((windowOf s 0 63).any fun x => x.home != s.fabric.index &&
       Nat.ble (128 * 3 + 128) x.len && (mrStore s 0 63 x 3 (List.replicate 128 1)).isSome)) = true := by decide +kernel

/-- LinkEventsComplete, the decrements. -/
theorem witness_LinkDecrements :
    (([0x9000, 0x20000000009000] : List Dword).all fun a =>
      let s := (joined probe).onExec fun e => { e with sigdecs := [⟨5, 0, a, 1, 0, 0⟩] }
      (s.exec.sigdecs[0]?).any fun d => vaOk s d.ctx d.addr && (vaLocal s d.addr == (a == 0x9000)) &&
        (!vaLocal s d.addr || fine (signalLower s d.ctx d.addr d.n) fun _ => true)) = true := by decide +kernel


/-! ### Witnesses: the host side, launches and placement -/

/-- HostAccessEventsComplete: the last place of each BAR, served and in Boot not; a request at the end of its 4 KiB; a queue that is
disabled; a doorbell to a full ring; a read and a write of 16 bytes through a window segment, and a segment that is not enabled. -/
theorem witness_HostAccessEventsComplete :
    barUp probe = true ∧ (probe.mysko.phase != .boot) = true ∧ ((getQueue probe 63).enable || (getQueue probe 63).feed) = false ∧
    (([(2 ^ 36 - 1, 2, 2 ^ 36 - 1), (2 ^ 36 + 2 ^ 20 - 1, 0, 2 ^ 20 - 1), (2 ^ 37 + 2 ^ 16 - 1, 4, 2 ^ 16 - 1)] : List (Nat × Nat × Nat)).all fun x =>
      hostSpan x.1 1 && barOf x.1 == some x.2 && !barServed State.reset x.2.1 && barServed probe x.2.1) = true ∧
    (hostSpan 4092 4 && !hostSpan 4092 5 && (windowTarget probe 0).isNone) = true ∧
    (let q := getQueue probe 63
     Nat.ble (16 - q.rd).toNat (2 ^ q.size) && Nat.blt (16 - q.wr).toNat (2 ^ 31)) = true ∧
    (let s := probe.onHost fun h => { h with segments := h.segments.set 63 ⟨0x8000, true, 0⟩ }
     windowTarget s (63 * 2 ^ 30) == some (0, 0x8000) && !veiledOutside s 0 0x8000 16 && fine (loadBytes s 0 0x8000 16) (fun _ => true) &&
       hostSpan (63 * 2 ^ 30) 16 && fine (storeBytes (snoop s 0 0x8000 16 none) 0 0x8000 (leBytes 16 5)) fun _ => true) = true := by decide +kernel

/-- The machine with hardware queue 63 of context 0, whose ring is at 0x20000. -/
def ringQueue (feed : Bool) (wr : Word) (s : State) : State :=
  updHwQueue s 63 fun _ => ⟨0x20000, true, feed, 4, 0, 0, 0, wr, 0, none⟩

/-- A barrier packet at the start of that ring. -/
def barrierPacket (s : State) : State := physWrite s 0x20000 (leBytes 8 2)

/-- LaunchEventsComplete: a barrier packet read, LAUNCH to a queue with one free place, and heads whose dependences hold, one of them for
1 ms. -/
theorem witness_LaunchEventsComplete :
    (let s := ringQueue false 1 (barrierPacket probe)
     let x := getQueue s 63
     barUp s && x.enable && x.rd != x.wr && x.current.isNone && (getCtx s x.ctx).st == .live &&
       (readLocal s x.ctx (packetAt x x.rd) 128).any fun y => fine (acceptPacket y.1 63 x.ctx x.rd.toNat y.2) fun z => z.2.barrier) = true ∧
    (let s := withOps [{ flying 2 (.launch 63) 1 with addrs := List.replicate 64 0x20000 }] (ringQueue true 15 (barrierPacket probe))
     op77 s fun o => let x := getQueue s 63
       o.todo != 0 && o.orderMet s && x.feed && x.ctx == o.ctx && Nat.blt (x.wr - x.rd).toNat (2 ^ x.size) &&
         (readLocal s o.ctx (o.addrs.get 0) 128).any fun y => fine (homeStore y.1 o.ctx (vaOffset (packetAt x x.wr)) y.2 hostParty) fun _ => true) =
       true ∧
    (([false, true] : List Bool).all fun barrier =>
      let l : Launch := { probeLaunch 50 with queue := 63, barrier := barrier, met := none, deps := [(0x8000, 0)], placed := 0 }
      let s := (updHwQueue probe 63 fun x => { x with current := some 50 }).onExec fun e => { e with launches := [l] }
      (findLaunch s 50).any fun l => (getQueue s l.queue).current == some 50 && l.met.isNone && l.deps.all (depHolds s l.ctx) &&
        l.barrier == barrier) = true ∧
    (let l : Launch := { probeLaunch 50 with queue := 63, placed := 0 }
     let s := { (updHwQueue probe 63 fun x => { x with current := some 50 }).onExec fun e => { e with launches := [l] } with tick := 10 ^ 6 }
     (headLaunch s 63).any fun l => !l.starved && (l.met.any fun t => Nat.ble (t + 10 ^ 6) s.tick)) = true := by decide +kernel

/-- The probe's pair outside any cohort, saved or resident. -/
def lonePair (area : Option Nat) (s : State) : State :=
  s.onExec fun e => { e with
    pairs := e.pairs.map (fun p => { p with cohort := none, area := area, resident := area.isNone }), cohorts := [], presses := [] }

/-- PlacementEventsComplete: a queue's head, a saved pair and a saved cohort whose area is refused; and what leaves a core: the youngest of a unit that waits in
GROW, a pair of a Stopping context, a drained pair and an exited cohort. -/
theorem witness_PlacementEventsComplete :
    (let l : Launch := { probeLaunch 50 with queue := 63, placed := 0 }
     let s := (updHwQueue probe 63 fun x => { x with current := some 50 }).onExec fun e => { e with launches := e.launches ++ [l] }
     (placeHead s 63 0 3).isSome) = true ∧
    (let s := lonePair (some 0) (physWrite probe 0x200042 [1])
     (findPair s 1).any fun p => (placeSavedPair s p 0 3).isSome) = true ∧
    (let s := (lonePair (some 0) (physWrite probe 0x2B0000 [7])).onExec fun e => { e with
       cohorts := probe.exec.cohorts.map fun co => { co with st := .saved, units := [0], streams := probe.exec.presses } }
     (findCohort s 4).any fun co => (placeSavedCohort s co 0 3).isSome) = true ∧
    (let s := (lonePair none probe).onExec fun e =>
       { e with groups := e.groups ++ (e.groups.filter fun g => g.stream = .execute).flatMap fun g => (List.range 4).map fun i =>
           { g with gid := 60 + i, slot := 1 + i } }
     let s := s.onExec fun e => { e with groups := e.groups.map fun g =>
       if g.stream = .access then g
       else { g with g := 25, paths := g.paths.modify 0 fun p => { p with grow := some (4, 0) } } }
     (stuckInGrow s 0 0).any fun y => (findPair s y.pair).any fun p =>
       !heldByDebug s p.unit && (saveTarget (updPath s y.gid y.grantPath fun p => { p with granted := true }) p.unit).isSome) = true ∧
    (let s := updCtx (lonePair none probe) 0 fun x => { x with st := .stopping }
     mustLeave s (.pair 1) && (saveTarget s (.pair 1)).isSome) = true ∧
    (let s := (lonePair none probe).onExec fun e => { e with groups := e.groups.map fun g => { g with exited := true } }
     (findPair s 1).any fun p => p.resident && p.cohort.isNone && pairDrained s p.id) = true ∧
    (let s := probe.onExec fun e => { e with groups := e.groups.map fun g => { g with exited := true } }
     (findCohort s 4).any fun co => (cohortStep s co).isSome) = true := by decide +kernel


/-! ### Witnesses: migration, and a group that waits in CWAIT -/

/-- A state whose memory, and what caches it, has changed. -/
def withMem (m : List Host.Cell) (y : MemSide) (s : State) : State := { s with mem := m, memory := y }

theorem physWrite_withMem (s : State) (a : Nat) (bs : List Byte) : ∃ m y, physWrite s a bs = withMem m y s := by
  induction bs generalizing s a with
  | nil => exact ⟨s.mem, s.memory, rfl⟩
  | cons b bs ih =>
    obtain ⟨m, y, h⟩ := ih (physWriteByte s a b) (a + 1)
    exact ⟨m, y, h⟩

theorem writeChunks_withMem (s : State) (base : Nat) (cs : List (Nat × List Byte)) : ∃ m y, writeChunks s base cs = withMem m y s := by
  unfold writeChunks
  induction cs generalizing s with
  | nil => exact ⟨s.mem, s.memory, rfl⟩
  | cons c cs ih =>
    obtain ⟨m, y, h⟩ := physWrite_withMem s (base + c.1) c.2
    obtain ⟨n, z, k⟩ := ih (physWrite s (base + c.1) c.2)
    exact ⟨n, z, by rw [List.foldl_cons, k, h]; rfl⟩

theorem zeroRange_withMem (s : State) (a n : Nat) : ∃ m y, zeroRange s a n = withMem m y s := physWrite_withMem s a _

theorem writePairArea_withMem (s : State) (p : Pair) (base : Nat) : ∃ m y, writePairArea s p base = withMem m y s := by
  have step (t : State) (h : ∃ m y, t = withMem m y s) (b : Nat) (cs : List (Nat × List Byte)) :
      ∃ m y, writeChunks t b cs = withMem m y s := by
    obtain ⟨m, y, rfl⟩ := h
    obtain ⟨n, z, k⟩ := writeChunks_withMem (withMem m y s) b cs
    exact ⟨n, z, k⟩
  have twin (u : State) (h : ∃ m y, u = withMem m y s) (x : Option Group) (b : Nat) :
      ∃ m y, (match x with
        | some g => writeChunks u b (partChunks g p.lod)
        | none => u) = withMem m y s := by
    cases x with
    | none => exact h
    | some g => exact step u h _ _
  have h0 := zeroRange_withMem s base (176 * 1024)
  unfold writePairArea
  obtain ⟨u, hu⟩ : ∃ u, u = zeroRange s base (176 * 1024) := ⟨_, rfl⟩
  rw [← hu] at h0 ⊢
  exact step _ (step _ (twin _ (twin u h0 _ _) _ _) _ _) _ _

theorem foldl_allocs {α : Type} (f : State → α → State) (hf : ∀ s x, (f s x).exec.allocs = s.exec.allocs) (xs : List α) (s : State) :
    (xs.foldl f s).exec.allocs = s.exec.allocs := by
  induction xs generalizing s with
  | nil => rfl
  | cons x xs ih => rw [List.foldl_cons, ih, hf]

theorem readPoison_allocs (s : State) (p : Pair) (base : Nat) : (readPoison s p base).exec.allocs = s.exec.allocs := by
  unfold readPoison
  exact foldl_allocs _ (fun s k => by dsimp only; split <;> rfl) _ s

theorem growGroup_allocs (s : State) (gid n : Nat) : (growGroup s gid n).exec.allocs = s.exec.allocs := by
  unfold growGroup
  dsimp only
  rw [updGroup_allocs]
  split <;> rfl

/-- Restoring a pair leaves every allocation as it is. -/
theorem restorePair_allocs (s : State) (p : Pair) (k core part : Nat) : (restorePair s p k core part).exec.allocs = s.exec.allocs := by
  unfold restorePair
  exact (foldl_allocs _ (fun (s : State) (x : Nat × Nat) => growGroup_allocs s x.1 x.2) _ _).trans (readPoison_allocs s p _)

/-- A saved pair without an allocation of its own can be placed where its slots are free. -/
theorem placeSavedPair_isSome {s : State} {p : Pair} {k core part n : Nat} (ha : p.area = some k)
    (hs : findAlloc s p.core (.pair p.id) = none)
    (hg : (p.resident || p.refused || p.cohort.isSome || (getCtx s p.ctx).st != .live || !coreUsable s p.ctx core ||
      !accessesDone s p.id) = false) (hc : choosePart s core part (pairDemand s p) = some n) :
    ∃ t, placeSavedPair s p core part = some t := by
  have hr : spadReturns s p core = true := by unfold spadReturns; rw [hs]; rfl
  have hb : findAlloc (restorePair s p k core n) p.core (.pair p.id) = none := by
    unfold findAlloc at hs ⊢; rw [restorePair_allocs]; exact hs
  unfold placeSavedPair
  rw [ha]
  simp only [hg, hr, hc, returnSpad, hb, Bool.not_true, Bool.or_false, Bool.false_eq_true, if_false]
  split <;> exact ⟨_, rfl⟩


/-- The pair outside any cohort, on core 0, with core 1 free and a saved cohort that waits for slots. -/
def movable : State :=
  updCore ((lonePair none probe).onExec fun e => { e with
    cohorts := probe.exec.cohorts.map fun co => { co with st := .saved } }) 1 fun k => { k with owner := some 0 }

/-- A pair and a group of a state. -/
def pairOf (s : State) (id : Nat) : Pair := (findPair s id).getD ⟨0, 0, 0, 0, 0, 0, none, 0, [], 0, [], 0, none, false, false⟩

def groupOf (s : State) (gid : Nat) : Group :=
  (findGroup s gid).getD ⟨0, 0, .access, 0, 0, 0, 0, 0, 0, 0, 0, 0, [], [], [], [], ⟨0, 0, 0, 0, 0⟩, none, TrapRegs.zero, [], [], [], [], [], [], [],
    none, none, false⟩

/-- What saving a pair leaves, over the memory that it has written. -/
def savedOver (s : State) (p : Pair) (k : Nat) : State :=
  let s := updCtx s p.ctx fun x => { x with areas := if x.areas.contains k then x.areas else x.areas ++ [k] }
  let gids := (s.exec.groups.filter fun g => g.pair == p.id).map (·.gid)
  let copies := (s.exec.ops.filter fun o => gids.contains o.gid).map (·.id)
  let s := s.onExec fun e =>
    { e with
      score := e.score.map fun x => if copies.contains x.id then { x with core := awayCore p.owner x.core, granted := true } else x
      groups := e.groups.map fun g =>
        if g.pair == p.id then
          { g with paths := g.paths.map fun q => { q with watch := none, matched := none, cwaitSince := none, deadline := none, popSince := none } }
        else g }
  let s := updPair s p.id fun p => { p with area := some k, resident := false }
  assayAdd (sendAway s (.pair p.id) []) p.ctx 54 1

theorem savePair_withMem {s : State} {p : Pair} {k : Nat}
    (h : (p.area.orElse fun _ => freeIndex (getCtx s p.ctx).areas (getCtx s p.ctx).np) = some k) :
    ∃ m y, savePair s p = some (savedOver (withMem m y s) p k) := by
  obtain ⟨m, y, hm⟩ := writePairArea_withMem s p (areaBase (getCtx s p.ctx) k)
  refine ⟨m, y, ?_⟩
  unfold savePair saveArea
  simp only [h, Option.map_some, hm]
  rfl

/-- PlacementEventsComplete: a migration to core 1. -/
theorem witness_migration : ∃ p t x u, findPair movable p.id = some p ∧ p.core ≠ 1 ∧ migratable movable p = true ∧
    cohortWaits movable p.ctx = true ∧ accessesDone movable p.id = true ∧ savePair movable p = some t ∧ findPair t p.id = some x ∧
    placeSavedPair t x 1 0 = some u := by
  obtain ⟨m, y, h⟩ := savePair_withMem (s := movable) (p := pairOf movable 1) (k := 0) (by decide +kernel)
  obtain ⟨u, hu⟩ := placeSavedPair_isSome (s := savedOver (withMem m y movable) (pairOf movable 1) 0)
    (p := { (pairOf movable 1) with area := some 0, resident := false }) (k := 0) (core := 1) (part := 0) (n := 0) rfl rfl rfl rfl
  exact ⟨pairOf movable 1, _, _, u, by decide +kernel, by decide +kernel, by decide +kernel, by decide +kernel,
    by decide +kernel, h, rfl, hu⟩


/-- The pair blocked in CWAIT since tick 0 at a circle that a group of a saved pair belongs to. -/
def circled : State :=
  let base := lonePair none probe
  { base.onExec fun e => { e with
      groups := e.groups.map (fun g => { g with circles := [(5, 1)], paths := g.paths.modify 0 fun p =>
          { p with st := .waiting, cwaitSince := some (0, 5) } }) ++
        e.groups.map fun g => { g with gid := g.gid + 60, pair := 50, circles := [(5, 1)] }
      circles := [⟨0, 5, 0, [(2, 0, 1), (3, 0, 1), (62, 0, 0)]⟩]
      pairs := e.pairs ++ e.pairs.map fun p => { p with id := 50, area := some 3, resident := false } }
    with tick := 100001 }

/-- PlacementEventsComplete: a group blocked in CWAIT for one tick more than 100 µs gives its place to a member of its circle. -/
theorem witness_cwaitPreemption : ∃ p t g w u, findPair circled p.id = some p ∧ heldByDebug circled p.unit = false ∧
    saveTarget circled p.unit = some t ∧ g ∈ circled.exec.groups ∧ g.exited = false ∧
    (((findPair circled g.pair).map (·.resident)).getD true) = false ∧
    (g.circles.any fun k => (longCwait circled p.id).contains (g.ctx, k.1)) = true ∧ findPair t g.pair = some w ∧ w.cohort = none ∧
    pairGood circled w = true ∧ placeSavedPair t w p.core 0 = some u := by
  obtain ⟨m, y, h⟩ := savePair_withMem (s := circled) (p := pairOf circled 1) (k := 0) (by decide +kernel)
  obtain ⟨u, hu⟩ := placeSavedPair_isSome (s := savedOver (withMem m y circled) (pairOf circled 1) 0)
    (p := pairOf circled 50) (k := 3) (core := 0) (part := 0) (n := 0) rfl rfl rfl rfl
  have hs : saveTarget circled (pairOf circled 1).unit = savePair circled (pairOf circled 1) := rfl
  exact ⟨pairOf circled 1, _, groupOf circled 62, pairOf circled 50, u, by decide +kernel, by decide +kernel, hs.trans h,
    List.mem_of_getElem? (i := 2) (by decide +kernel), by decide +kernel, by decide +kernel, by decide +kernel, rfl, by decide +kernel, by decide +kernel, hu⟩


/-! ### Witnesses: Mysko's commands and events -/

/-- Commanded, decided. -/
def commanded (s : State) (slot : Nat) (phases : List Phase) : Bool :=
  slot != 0 && Nat.blt slot 64 && s.mysko.phase != .boot && phases.contains s.mysko.phase && !mailWaits s slot && mailTurn s slot

theorem commanded_iff {s : State} {slot : Nat} {phases : List Phase} (h : commanded s slot phases = true) : Commanded s slot phases := by
  unfold commanded at h
  simp only [Bool.and_eq_true, bne_iff_ne, ne_eq, Nat.blt_eq, Bool.not_eq_true'] at h
  exact ⟨h.1.1.1.1.1, h.1.1.1.1.2, h.1.1.1.2, h.1.1.2, h.1.2, h.2⟩

/-- Context 0 in a state of R412. -/
def inState (st : CtxState) (s : State) : State := updCtx s 0 fun x => { x with st := st }

/-- A context block of no areas and the smallest queues at 0x300000. -/
def blocked (s : State) : State := physWrite (physWrite s 0x300028 [4]) 0x300089 [16]

/-- ContextCommandsComplete: context 15 created on core 159, core 39 added, core 0 removed, the stop, resume and end of context 0 in each
state that allows them, and the events that end a stop and a drain. -/
theorem witness_ContextCommandsComplete :
    (commanded probe 1 served && commanded probe 63 served && !sealQueued probe 15 &&
      createStatus (blocked probe) 15 0x300000 (2 ^ 159) == 0 && coresStatus probe 0 (2 ^ 39) 0 == 0) = true ∧
    (let s := inState .stopped (lonePair (some 0) probe)
     let gone := (maskCores 1).filter fun k => (getCore s k).owner == some 0
     let drained := gone.foldl (fun s k => drainAll 4096 s k) s
     gone == [0] && coresStatus s 0 0 1 == 0 && gone.all fun k => !(getCore drained k).ringOn || (getCore drained k).fifo.isEmpty) = true ∧
    (getCtx probe 0).st = .live ∧ (getCtx (inState .stopped probe) 0).st = .stopped ∧ (getCtx (inState .stopping probe) 0).st = .stopping ∧
    (let s := inState .stopping (lonePair (some 0) probe)
     (getCtx s 0).st == .stopping && !anyResident s 0) = true ∧
    (let s := inState .ending probe
     (getCtx (endIdleGroups s 0) 0).st == .ending && !inFlight (endIdleGroups s 0) 0 && s.exec.runs.isEmpty) = true := by decide +kernel

/-- TableCommandsComplete: the last range entry, the last region and window of context 0, a member list with this device, the greatest
peer table and a job. -/
theorem witness_TableCommandsComplete :
    (let e : BitVec 256 := (0x8000000000000000#64 ++ 0x0F00000000000000#64) ++ (0x2000#64 ++ 0#64)
     rangeOk probe e && e.getLsbD 255 && (({ probe with memory := { probe.memory with ranges := probe.memory.ranges.set 31 (some probeRange) } } :
       State).memory.ranges.getD 31 none) == some probeRange && commanded probe 1 served && (getCtx probe 0).st == .live &&
       (invalWaiting probe 1).isNone) = true ∧
    (invalWaiting (updCtx probe 15 fun x => { x with invalWait := [(1, [(77, 0)])] }) 1 == some (15, [(77, 0)]) &&
      ((contribAt probe 77 0).map fun x => !x.2.checked).getD true) = true ∧
    (let s := physWrite (physWrite (physWrite probe (0x106000 + 64 * 63) [8]) (0x106008 + 64 * 63) (leBytes 8 0x8000))
       (0x106010 + 64 * 63) (leBytes 8 128)
     (tableRegion s ((getCtx s 0).regionBase + 64 * 63)).any fun r => (registerRegion s 0 63 r).isSome) = true ∧
    ((getCtx (updCtx probe 0 fun x => { x with regions := x.regions.set 63 (some ⟨8, 0, 128, 0, 0, 0, none⟩) }) 0).regions.getD 63 none).isSome =
      true ∧
    (let a := 0x107000 + 64 * 63
     let put (o v : Nat) (s : State) : State := physWrite s (a + o) (leBytes 8 v)
     let s := physWrite (put 0 (1 + 2 * 1024 + 8 * 2 ^ 21) (put 8 256 (put 0x10 0x8000 (put 0x18 0x9000 (put 0x20 0x31000 (joined probe))))))
       0x31002 [1]
     (tableWindow s 0 ((getCtx s 0).windowBase + 64 * 63)).any (fun x => stagingRoom s x) && ((getCtx s 0).windows.getD 63 none).isNone &&
       !(getCtx s 0).windowWait.contains (1, 63)) = true ∧
    ((getCtx (updCtx probe 0 fun x => { x with windowWait := [(1, 63)] }) 0).windowWait.contains (1, 63)) = true ∧
    (((getCtx (windowed 1 probe) 0).windows.getD 63 none).isSome && probe.mysko.phase == .full && !sealQueued probe 0 &&
      physOk probe 0x30000 (32 * 4096) && (getCtx probe 0).created) = true := by decide +kernel

/-- BringupEventsComplete but for an image that passes (`witness_imagePasses`) and a domain (`witness_domainForm`): POWER_SET at its limits,
SERVICE_FULL, a reset without an image, each phase's event, a sample, both stages of a trip at 880, the exchanges at their limits and an
alert one tick late. -/
theorem witness_BringupEventsComplete :
    (let reduced := State.reset.onMysko fun m => { m with phase := .reduced, stacksTrained := 1, stacksFenced := ~~~1, rings := true, selfTest := true }
     commanded probe 1 [.reduced, .full] && commanded reduced 1 [.reduced] &&
       (reduced.mysko.stacksTrained ||| reduced.mysko.stacksFenced) == BitVec.allOnes 12 && !anyLive reduced &&
       commanded (State.reset.onMysko fun m => { m with phase := .recovery }) 1 [.recovery]) = true ∧
    (romChoice { Mysko.zero with fw := State.reset.mysko.fw } == none) = true ∧
    (let s := State.reset.onMysko fun m => { m with fw := [⟨0, 0, [1]⟩, ⟨0, 0, []⟩] }
     s.mysko.phase == .boot && started s) = true ∧
    (let s := State.reset.onMysko fun m => { m with phase := .reduced }
     bringupOpen s && s.tick % 100000 == 0 && barUp s) = true ∧
    (let s := probe.onMysko fun m => { m with junction := 880 }
     let absent : State := { s with ctxs := s.ctxs.map fun x => { x with st := .absent } }
     Nat.ble 880 s.mysko.junction && !s.mysko.stopped && !s.mysko.tripped && !allAbsent s && allAbsent absent &&
       Nat.ble 880 absent.mysko.junction && !absent.mysko.stopped) = true ∧
    (let s := (joined probe).onFabric fun x => { x with index := 1 }
     s.fabric.formed && s.fabric.index != 0 && s.tick % 100000 == 0) = true ∧
    (let s := { ((joined probe).onFabric fun x => { x with index := 1 }).onMysko fun m => { m with offsetSince := some 0 } with tick := 10000001 }
     s.fabric.formed && s.fabric.index != 0 && !s.mysko.alerted && s.mysko.offsetSince == some 0 && Nat.blt 10000000 s.tick) = true := by decide +kernel

/-- BringupEventsComplete, the clauses of an image that passes: they hold of an image whose signature and digest the vendor's key accepts.
Both are free functions of the configuration (log entry 5), so that no image can be shown to pass without this premise. -/
theorem witness_imagePasses (img : List Byte) (hn : img.length = 0x1300) (hz : fieldOf img 8 8 = 0 ∧ fieldOf img 6 2 = 0)
    (hv : Config.vendorVerify (sha3_512 (img.take 0x50)) ((img.drop 0x50).take 4627) = true)
    (hd : sha3_512 [] = (img.drop 0x10).take 64) :
    imagePasses 0 img = true ∧ romChoice { Mysko.zero with fw := [slotOf img, ⟨0, 0, []⟩] } = some (slotOf img) := by
  have h : imagePasses 0 img = true := by simp [imagePasses, hz.1, hz.2, hn, hv, hd]
  refine ⟨h, ?_⟩
  simp [romChoice, romOrder, Mysko.zero, slotOf, h]

/-- RecordEventsComplete: a record of each kind with room for it and the last free place of Mysko's queue, a trace ring of each size, a
path to stop at a boundary and within a run, a stopped one, the three requests at the front of the queue, a drain and a sample. -/
theorem witness_RecordEventsComplete :
    (let s := probe.onMysko fun m => { m with seals := List.replicate 63 (.hmSeal 1 15 0) }
     commanded s 1 served && (getCtx s 0).created && Nat.blt s.mysko.seals.length 64 && destOk s 0x400000 5632 &&
       destOk s 0x400000 (membershipSize (getCtx s 0).memberKeys.length + 4632) && destOk s 0x400000 7235 &&
       destOk s 0x400000 (32 * 1024) && physOk s 0x400000 (32 * 2 ^ 20) && physOk s 0x400000 4096) = true ∧
    (let s (i : Instr) (stopped : Bool) : State := updCtx (updGroup (demo 4 0 i) 3 fun g =>
       { g with paths := g.paths.modify 0 fun p => { p with stopped := stopped } }) 0 fun x => { x with debug := true }
     let i : Instr := .vadd vecWord
     (debugGroup (s i false) 0 0 .access).any (fun g => pathStatus (s i false) 0 0 .access 0 == 0 && !(g.path 0).stopped &&
       pathBusy (s i false) g.gid 0) &&
     (debugGroup (s i false) 0 0 .execute).any (fun g => pathStatus (s i false) 0 0 .execute 0 == 0 && !(g.path 0).stopped &&
       !pathBusy (s i false) g.gid 0 && (g.path 0).st != .parked && residentGroup (s i false) g) &&
     (debugGroup (s i true) 0 0 .execute).any fun g => pathStatus (s i true) 0 0 .execute 0 == 0 && (g.path 0).stopped &&
       ((findPair (s i true) g.pair).bind (·.area)).isNone && destOk (s i true) 0x400000 (partSize g)) = true ∧
    (([.hmSeal 1 0 0x400000, .domAttest 1 0 0x400000] : List SealReq).all fun q =>
      (probe.onMysko fun m => { m with seals := [q] }).mysko.seals == [q]) = true ∧
    (let s := (withOps [flying 2 (.hmseal 0x8000) 1] probe).onMysko fun m => { m with seals := [.hmseal 77] }
     s.mysko.seals == [.hmseal 77] && op77 s fun o => o.kind == .hmseal 0x8000 && o.after.all (opPerformed s)) = true ∧
    (let s := { updCore probe 159 fun k =>
       { k with fifo := [⟨0, 0, 0, 0⟩], ringBase := 0x400000, ringLog := 7, ringOn := true, shift := 10 } with tick := 1 }
     (drainOne s 159).isSome && (getCore s 159).shift != 0 && s.exec.cycle % 2 ^ (getCore s 159).shift == 0 &&
       (getCore s 159).sampledAt != some s.exec.cycle) = true := by decide +kernel


/-- A memory with nothing listed, after one service, reads as zero (log entry 2). -/
theorem physByte_empty (a : Nat) : physByte { inState .stopped probe with mem := [] } a = 0 := rfl

/-- BringupEventsComplete: a domain of one device whose lane map is all zero. -/
theorem witness_domainForm :
    let s : State := { inState .stopped probe with mem := [] }
    commanded s 1 [.full] = true ∧ anyLive s = false ∧ physOk s 0x40000 16384 = true ∧ physOk s 0x50000 4096 = true ∧
    floorsOk (readLaneMap s 0x40000) (domainPairs s 0 1 0x50000) = true := by
  refine ⟨by decide +kernel, by decide +kernel, by decide +kernel, by decide +kernel, ?_⟩
  have h : domainPairs { inState .stopped probe with mem := [] } 0 1 0x50000 = [] := by decide +kernel
  have z (i : Nat) : physNat { inState .stopped probe with mem := [] } i 2 = 0 := rfl
  have l : (readLaneMap { inState .stopped probe with mem := [] } 0x40000).all laneEntryOk = true := by
    rw [readLaneMap, List.all_map, List.all_eq_true]
    intro i _
    simp only [Function.comp_apply, z]
    decide
  rw [h, floorsOk, l]
  rfl


/-! ### Witnesses: accesses that skip or trap, steps, frames and traps -/

/-- Whether an instruction answers a next state. -/
def goesOn (i : Instr) (s : State) : Bool :=
  match exec i s with
  | .next _ => true
  | _ => false

def offLanes (f : FmtM) : FmtM := { f with guard := ⟨true, 15⟩ }

/-- AccessesThatSkipOrTrap: each access without an effective lane; an atomic misaligned in one lane, and one whose address has bit 63; a
load and a store of such an address; and a scratchpad store whose lane 0 is the last in range. -/
theorem witness_AccessesThatSkipOrTrap :
    (([Instr.ldv, .ldp, .grld, .st] : List (FmtM → Instr)).all fun e =>
      wit 4 (e (offLanes gmem)) id fun _ sl => sl.eff (offLanes gmem).guard == 0) = true ∧
    (([Instr.lds, .ldcl, .ldsT, .sts, .stcl] : List (FmtM → Instr)).all fun e =>
      wit 4 (e (offLanes smem)) id fun _ sl => sl.eff (offLanes smem).guard == 0) = true ∧
    (([Instr.aadd, .asub, .aand, .aor, .axor, .amin, .amax, .aminu, .amaxu, .axchg, .acas, .fadd] : List (FmtM → Instr)).all fun e =>
      wit 4 (e (offLanes gmem)) (counts 4095) (fun _ sl => sl.eff (offLanes gmem).guard == 0 && !ocFull sl.g (some .atom)) &&
      wit 4 (e gmem) (fun g => g.setVreg 3 (Lanes.build fun i => if i = 63 then 1 else 0)) (fun _ sl =>
        (maskOf fun i => (sl.eff gmem.guard).getLsbD i && (sl.gaddr gmem i).toNat % 4 != 0) == 2 ^ 63) &&
      wit 4 (e gmem) (regs [(3, 0x80000000)]) fun t sl => badLanes t sl.g.ctx (sl.eff gmem.guard) (sl.gaddr gmem) != 0) = true ∧
    (([Instr.ldv, .st] : List (FmtM → Instr)).all fun e => wit 4 (e gmem) (regs [(3, 0x80000000)]) fun t sl =>
      badLanes t sl.g.ctx (sl.eff gmem.guard) (sl.gaddr gmem) != 0 && Nat.blt gmem.dst.reg.toNat 240) = true ∧
    (let f : FmtM := { smem with b := .vec 3 }
     wit 0 (.sts f) (fun g => lastSpad (g.setVreg 3 (Lanes.build fun i => BitVec.ofNat 64 (4 * i)))) fun t sl =>
       let bad := spadBad t sl false 4 (sl.eff f.guard) (sl.saddr f)
       bad == BitVec.allOnes 64 - 1 && sl.eff f.guard &&& ~~~bad == 1) = true := by decide +kernel

/-- GlobalAccessIssueFrame, ScratchpadStoreFrame and RegisterWordFrame: the words behind a run's head, and at its head, answer a next
state. -/
theorem witness_frames :
    (([Instr.ldv, .ldp, .grld, .pfetch, .st, .stq, .aadd, .acas, .fadd] : List (FmtM → Instr)).all fun e =>
      goesOn (e gmem) (demo 4 0 (e gmem)) && meets (demo 4 0 (e gmem)) (e gmem) fun sl => !sl.last) = true ∧
    (([Instr.sts, .stcl] : List (FmtM → Instr)).all fun e =>
      goesOn (e smem) (demo 0 0 (e smem)) && meets (demo 0 0 (e smem)) (e smem) fun sl => !sl.last) = true ∧
    (([Instr.vadd, .vsel, .cvtef] : List (FmtA → Instr)).all fun e => goesOn (e vecWord) (demo 0 0 (e vecWord)) && registerWord (e vecWord)) =
      true := by decide +kernel

/-- StorePerformedFrame: the last word of a writable line, stored by lane 63; ScratchpadStoreFrame: the second word of the allocation's last
eight bytes, whose first is left to a higher lane. -/
theorem witness_StorePerformedFrame :
    (let s := (withOps [{ flying 2 (.store 2) (2 ^ 63) with addrs := List.replicate 64 0x80FC }] probe).onMemory fun m =>
       { m with l2 := [homeLine 0x101 0x201] }
     op77 s fun o => ((o.unitsLeft 63).find? fun u => u.1 == 0) == some (0, 0x80FC, 4) && unitReady s o 63 (0x80FC, 4) &&
       (lineHolder s o 0x80FC).isNone && o.from_ == s.fabric.index && vaOk s o.ctx 0x80FC && vaLocal s 0x80FC &&
       vaOffset 0x80FC % 128 + 4 == 128 && (o.keptBytes 4 63 (0x80FC, 4)).length == 4 &&
       l2Find s o.ctx (vaOffset 0x80FC) == some (homeLine 0x101 0x201)) = true ∧
    (let s := withOps [{ flying 2 (.spadStore false 0 8) 3 with addrs := Lanes.build fun i => BitVec.ofNat 64 (32760 - 4 * i) }] probe
     op77 s fun o => ((o.unitsLeft 0).find? fun u => u.1 == 1) == some (1, 32764, 4) && unitReady s o 0 (32764, 4) &&
       (o.spadAt s (32764, 4)).isSome && (o.keptBytes 8 0 (32764, 4)).length == 4 && (o.keptBytes 8 0 (32760, 4)).isEmpty) = true ∧
    (homeLine 0x101 0x201).w = true ∧ (homeLine 0x101 0x201).data.length = 128 ∧
    (∀ x ∈ [homeLine 0x101 0x201], x = homeLine 0x101 0x201) := by
  refine ⟨by decide +kernel, by decide +kernel, rfl, rfl, fun x h => List.mem_singleton.mp h⟩

/-- TrapEntry and TrapReturn: a handler at 0x1000, whose line is marked; and PredicatesAndEffectiveLanes: a group of the state. -/
theorem witness_traps :
    (let s := physWrite probe 0x100018 (leBytes 8 0x1000)
     let h := handlerEntry s 0 .access
     (findGroup s 2).any (fun g => g.sup.isNone && Nat.blt 15 g.paths.length && g.ctx == 0 && g.stream == .access && g.core == 0) &&
       h == 0x1000 && pcOk h && fine (fetchLine s 0 0 (pcLine h)) fun x => targetMarked x.2 h) = true := by decide +kernel

/-- OnlyAStoppedClockFaults: a stopped clock, with an event of a core at the head of the agenda. -/
theorem witness_stoppedClock :
    let s : State := probe.onMysko fun m => { m with stopped := true }
    needsClock .budgetRefill = true ∧ step { s with agenda := [.budgetRefill] } = .fault .clockStopped := ⟨rfl, rfl⟩

/-- MemoryReadsBackWrites and StepKeepsMemoryCanonical: memories in canonical form, and a step from one of them. -/
theorem witness_canonical :
    Memory.wf 0 [] ∧ Memory.wf 0 [(0, 1), (5, 2)] ∧ MemoryCanonical State.reset ∧ MemoryCanonical probe ∧
    (match step probe with
      | .next _ => true
      | _ => false) = true := by
  refine ⟨by decide, by decide, ?_, ?_, by decide +kernel⟩ <;> unfold MemoryCanonical <;> decide +kernel

def word0 : FmtA := formA 9 (.vec 8) (.vec 1) (.vec 0) 4

/-- StepRunsDecodedInstruction: an event on the agenda, a slot to issue, a chosen path whose run is fetched from the words at its PC, one
whose PC has no word of an instruction, and one whose line cannot be fetched. -/
theorem witness_StepRunsDecodedInstruction :
    (let s := { probe with agenda := [.budgetRefill] }
     s.agenda == [.budgetRefill] && !s.mysko.stopped && !needsClock (.eventWordClear 0)) = true ∧
    (let i : Instr := .vadd word0
     (demo 0 0 i).agenda.isEmpty && meets (demo 0 0 i) i fun sl => sl.run.slots[sl.run.idx]? == some (sl.pc, i)) = true ∧
    (let s := withWord (.vadd word0)
     let t := updSched { s with issuer := none } 0 4 fun x => { x with chosen := none }
     s.issuer == some (0, 4) && (findRun s 0 4).isNone && (schedOf s 0 4).chosen == some (2, 0) &&
       (findGroup t 2).any fun g => (findPair t g.pair).any fun pr => g.pending.isEmpty && (entryCause t g (g.path 0)).isNone &&
         (match fetchRun (updPath t 2 0 fun p => { p with entered := true }) g pr 0 (g.path 0).pc with
          | (u, .ok slots) => (findRun u 0 4).isNone && slots.head? == some (0x1000, .vadd word0) &&
              issuerInstr (issuerFetch s) == some (.vadd word0) && (gather s g.core g.ctx 24 0x1000).2.1.all parityOk
          | _ => false) && unitMayIssue s 0 4 && chosenStands s 0 4 2 0) = true ∧
    (([(0x1000, 1), (0x4000000000, 8)] : List (Dword × Nat)).all fun x =>
      let s := updPath (State.reset.withFetchWord 96 0) 2 0 fun p => { p with pc := x.1 }
      let t := updSched { s with issuer := none } 0 4 fun x => { x with chosen := none }
      s.issuer == some (0, 4) && (findRun s 0 4).isNone && (schedOf s 0 4).chosen == some (2, 0) && unitMayIssue s 0 4 &&
       chosenStands s 0 4 2 0 && (findGroup t 2).any fun g => (findPair t g.pair).any fun pr => g.pending.isEmpty &&
         (entryCause t g (g.path 0)).isNone && (match fetchRun (updPath t 2 0 fun p => { p with entered := true }) g pr 0 (g.path 0).pc with
          | (_, .trap code _ _) => code == x.2
          | _ => false)) = true := by decide +kernel

/-- DecodeOfEncode and SelectByPredicate: well-formed words. -/
theorem witness_words :
    (Instr.vsel (formA 9 (.vec 8) (.vec 1) (.vec 14) 4)).isWord = true ∧
    (Instr.vsel (formA 9 (.vec 8) (.vec 1) (.vec 14) 4)).wellFormed = true ∧
    (Instr.bra ⟨plain 0 (.vec 0), 0, 0, 1, 0, 0, 0⟩).isWord = true ∧ (Instr.bra ⟨plain 0 (.vec 0), 0, 0, 1, 0, 0, 0⟩).wellFormed = true ∧
    (meets (demo 0 0 (.vsel (formA 9 (.vec 8) (.vec 1) (.vec 14) 4))) (.vsel (formA 9 (.vec 8) (.vec 1) (.vec 14) 4)) fun _ => true) = true := by
  decide +kernel

/-- ElementResults: the last element of each width. -/
theorem witness_ElementResults : ∀ x ∈ ([(4, 0), (2, 1), (0, 3)] : List (BitVec 5 × Nat)), x.2 < elemCount x.1 := by decide


/-! ### Single steps, with results worked out from the rules -/

/-- A register that the instruction at the head of the execute group's run leaves. -/
def uniAfter (i : Instr) (f : Group → Group) (n : Nat) : Option Nat :=
  match exec i (demoG 0 0 i f) with
  | .next t => (findGroup t 3).map fun g => (g.sreg n).toNat
  | _ => none

def predAfter (i : Instr) (f : Group → Group) (n : Nat) : Option Mask :=
  match exec i (demoG 0 0 i f) with
  | .next t => (findGroup t 3).map fun g => g.pred n
  | _ => none

/-- V0 and V1 filled with two values. -/
def both (a b : Dword) (g : Group) : Group := (g.setVreg 0 (List.replicate 64 a)).setVreg 1 (List.replicate 64 b)

def wordAB (fmt : BitVec 5) (modi : BitVec 4) : FmtA := { formA 2 (.vec 0) (.vec 1) (.vec 0) fmt with modi := modi }

/-- R244, R245: FFFFFFFF + 2 wraps to 1; saturated, INT32 7FFFFFFF + 1 stays, UINT8 elements saturate one by one. -/
theorem test_vadd_wraps : laneAfter (.vadd (wordAB 4 0)) (both 0xFFFFFFFF 2) 2 63 = some 1 := by decide +kernel
theorem test_vadd_saturates : laneAfter (.vadd (wordAB 4 1)) (both 0x7FFFFFFF 1) 2 0 = some 0x7FFFFFFF ∧
    laneAfter (.vadd (wordAB 1 1)) (both 0xFF80FF01 0x01800101) 2 0 = some 0xFFFFFF02 := by decide +kernel
/-- R245: −1 × 2 has the high half −1; INT16 elements do not carry into each other. -/
theorem test_vmulh_signed : laneAfter (.vmulh (wordAB 4 0)) (both 0xFFFFFFFF 2) 2 5 = some 0xFFFFFFFF := by decide +kernel
theorem test_vsub_halves : laneAfter (.vsub (wordAB 2 0)) (both 0x00010000 0x00000001) 2 5 = some 0x0001FFFF := by decide +kernel
/-- R247: a shift by the width gives 0, an arithmetic one the sign; a rotation takes its count modulo 32. -/
theorem test_shift_by_width : laneAfter (.vshl (wordAB 5 0)) (both 0xDEADBEEF 32) 2 1 = some 0 ∧
    laneAfter (.vsar (wordAB 4 0)) (both 0x80000000 32) 2 1 = some 0xFFFFFFFF ∧
    laneAfter (.vrot (wordAB 5 0)) (both 0x80000001 33) 2 1 = some 3 := by decide +kernel
theorem test_count_zero : laneAfter (.vclz (wordAB 5 0)) (both 0 0) 2 1 = some 32 ∧ laneAfter (.vpopc (wordAB 5 0)) (both 0xF0F 0) 2 1 = some 8 := by
  decide +kernel
/-- R250: VSEL takes a in the lanes whose bit of P[c] is set. -/
theorem test_vsel : laneAfter (.vsel (formA 2 (.vec 0) (.vec 1) (.vec 3) 4)) (fun g => (both 7 9 g).setPred 3 1) 2 0 = some 7 ∧
    laneAfter (.vsel (formA 2 (.vec 0) (.vec 1) (.vec 3) 4)) (fun g => (both 7 9 g).setPred 3 1) 2 1 = some 9 := by decide +kernel
/-- R246: the carry out of FFFFFFFF + 0 + 1. -/
theorem test_vaddc_carry : predAfter (.vaddc (wordAB 5 3)) (fun g => (both 0xFFFFFFFF 0 g).setPred 3 1) 3 = some 1 := by decide +kernel
/-- R58, R198: a lane outside the guard keeps its value. -/
theorem test_guarded_lane : laneAfter (.vadd { wordAB 4 0 with guard := ⟨false, 3⟩ }) (fun g => ((both 1 2 g).setVreg 2 (List.replicate 64 5)).setPred 3 1)
    2 1 = some 5 := by decide +kernel
/-- R253: VCMP, signed less than. -/
theorem test_vcmp_signed : predAfter (.vcmp { formA 3 (.vec 0) (.vec 1) (.vec 0) 4 with modi := 2 }) (both 0xFFFFFFFF 0) 3 =
    some (BitVec.allOnes 64) := by decide +kernel
/-- R254, R255: 1.5 + 2^−24 in binary32 is a tie to even, and 2^−126 × 0.5 is a subnormal. -/
theorem test_vfadd_tie : laneAfter (.vfadd (wordAB 8 0)) (both 0x3FC00000 0x33800000) 2 0 = some 0x3FC00000 := by decide +kernel
theorem test_vfmul_subnormal : laneAfter (.vfmul (wordAB 8 0)) (both 0x00800000 0x3F000000) 2 0 = some 0x00400000 := by decide +kernel
/-- R240: a 64-bit uniform sum carries into the odd register. -/
theorem test_sadd_pair : uniAfter (.sadd { formA 6 (.uni 2) (.uni 4) (.vec 0) 0 with modi := 1 }) (fun g => (g.setSreg 2 0xFFFFFFFF).setSreg 4 1) 7 =
    some 1 := by decide +kernel
/-- R243: the lowest set lane, and 64 where none is set. -/
theorem test_pfirst : uniAfter (.pfirst (formA 6 (.vec 3) (.vec 0) (.vec 0) 0)) (fun g => g.setPred 3 0x30) 6 = some 4 ∧
    uniAfter (.pfirst (formA 6 (.vec 3) (.vec 0) (.vec 0) 0)) (fun g => g.setPred 3 0) 6 = some 64 := by decide +kernel
/-- R302: GCLAIM answers C, which is 0 at first. -/
theorem test_gclaim : uniAfter (.gclaim (formM 6 (.short 0) (.uni 4) (.vec 0) 0)) (fun g => g.setSreg 6 9) 6 = some 0 := by decide +kernel
/-- R233: the smaller side of a divergence detaches: lane 0 taken, the path goes on with the other 63 lanes. -/
theorem test_bdiv_minority :
    (match exec (.bdiv { formB 0 (.vec 0) with guard := ⟨false, 3⟩ }) (demoG 0 0 (.bdiv { formB 0 (.vec 0) with guard := ⟨false, 3⟩ })
        fun g => g.setPred 3 1) with
      | .next t => (findGroup t 3).map fun g => (g.path 0).exec
      | _ => none) = some (BitVec.allOnes 64 - 1) := by decide +kernel
/-- The first step after a placement fetches the word and runs it (R29, R30). -/
theorem test_step_runs_word :
    (match step (withWord (.saddI ⟨plain 6 (.uni 4), 5, 0, 0, 0⟩)) with
      | .next t => (findGroup t 2).map fun g => (g.sreg 6).toNat
      | _ => none) = some 5 := by decide +kernel
/-- R42, R422: a power-on reset without an image enters Recovery. -/
theorem test_reset_enters_recovery :
    (match step { State.reset with agenda := [.powerOnReset] } with
      | .next t => t.mysko.phase == .recovery
      | _ => false) = true := by decide +kernel

end Sys2Proof.Tests
end

/-! ### Predicates, effective lanes and the masked write of a vector register (R58, R63, R199) -/

section

namespace Sys2Proof.Machine

/-! What the accessors of lanes, predicates and vector registers answer. -/

/-- A lane of a built value; what lies past lane 63 reads as zero. -/
theorem Lanes.get_build (f : Nat → Dword) {i : Nat} (hi : i < 64) : (Lanes.build f).get i = f i := by
  simp [Lanes.get, Lanes.build, hi]

theorem Lanes.get_merge (m : Mask) (new old : Lanes) {i : Nat} (hi : i < 64) :
    (Lanes.merge m new old).get i = if m.getLsbD i = true then new.get i else old.get i :=
  Lanes.get_build _ hi

@[simp] theorem Group.pred_fifteen (g : Group) : g.pred 15 = BitVec.allOnes 64 := if_pos rfl

@[simp] theorem Group.setPred_fifteen (g : Group) (m : Mask) : g.setPred 15 m = g := if_pos rfl

/-- A register write changes the register that it names, when the group's allocation holds it (R55). -/
theorem Group.vreg_setVreg (g : Group) (r n : Nat) (v : Lanes) :
    (g.setVreg r v).vreg n = if n = r ∧ n < g.vregs.length then v else g.vreg n := by
  unfold Group.vreg Group.setVreg
  by_cases hr : r = n
  · subst hr
    by_cases hn : r < g.vregs.length <;> simp [List.getD_eq_getElem?_getD, hn]
  · simp [List.getD_eq_getElem?_getD, hr, Ne.symm hr]

/-! The effective lanes of a plain and of a negated guard. -/

theorem Slot.eff_plain (sl : Slot) (n : BitVec 4) : sl.eff ⟨false, n⟩ = sl.p.exec &&& sl.g.pred n.toNat := rfl

theorem Slot.eff_negated (sl : Slot) (n : BitVec 4) : sl.eff ⟨true, n⟩ = sl.p.exec &&& ~~~(sl.g.pred n.toNat) := rfl

/-- A guard that names P15 leaves the instruction unguarded. -/
theorem Slot.eff_p15 (sl : Slot) : sl.eff ⟨false, 15⟩ = sl.p.exec := by
  have h : sl.g.pred (15 : BitVec 4).toNat = BitVec.allOnes 64 := sl.g.pred_fifteen
  rw [Slot.eff_plain, h, BitVec.and_allOnes]

/-- A negated guard that names P15 leaves no effective lanes. -/
theorem Slot.eff_not_p15 (sl : Slot) : sl.eff ⟨true, 15⟩ = 0 := by
  have h : sl.g.pred (15 : BitVec 4).toNat = BitVec.allOnes 64 := sl.g.pred_fifteen
  rw [Slot.eff_negated, h, BitVec.not_allOnes]
  exact BitVec.and_zero

/-! The group that is found after a vector result is written. -/

theorem findGroup_pushReady (s : State) (gid pair q n : Nat) (v : Lanes) :
    findGroup (pushReady s gid pair q v) n = findGroup s n := rfl

theorem findGroup_capture (s : State) (sl : Slot) (c : BitVec 2) (v : Lanes) (n : Nat) :
    findGroup (capture s sl c v) n = findGroup s n := by
  unfold capture
  split
  · rfl
  · rfl

/-- A result for a queue port, or with no-write-back set, leaves every group. -/
theorem findGroup_writeVec_of_unwritten (s : State) (sl : Slot) (d : Dst) (eff : Mask) (v : Lanes) (n : Nat)
    (h : 240 ≤ d.reg.toNat ∨ d.nwb = true) : findGroup (writeVec s sl d eff v) n = findGroup s n := by
  unfold writeVec
  by_cases hport : 240 ≤ d.reg.toNat
  · simp [hport, findGroup_pushReady, findGroup_capture]
  · have hnwb : d.nwb = true := h.resolve_left hport
    simp [hport, hnwb, findGroup_capture]

/-- A result for a register is merged into it, in the group that issues and in no other. -/
theorem findGroup_writeVec_of_register (s : State) (sl : Slot) (d : Dst) (eff : Mask) (v : Lanes) (n : Nat)
    (hport : ¬240 ≤ d.reg.toNat) (hnwb : d.nwb = false) :
    findGroup (writeVec s sl d eff v) n = (findGroup s n).map fun g =>
      if n = sl.g.gid then g.setVreg d.reg.toNat (Lanes.merge eff v (g.vreg d.reg.toNat)) else g := by
  unfold writeVec
  simp only [hport, hnwb, decide_false, Bool.false_eq_true, if_false]
  rw [findGroup_updGroup _ _ _ _ fun _ => Group.setVreg_gid _ _ _, findGroup_capture]

/-- The lanes of a register after a masked write to a register of the same group. -/
theorem Group.get_vreg_setVreg_merge (g : Group) (r n : Nat) (eff : Mask) (v : Lanes) {i : Nat} (hi : i < 64) :
    ((g.setVreg r (Lanes.merge eff v (g.vreg r))).vreg n).get i =
      if n = r ∧ n < g.vregs.length ∧ eff.getLsbD i = true then v.get i else (g.vreg n).get i := by
  rw [Group.vreg_setVreg]
  by_cases hw : n = r ∧ n < g.vregs.length
  · obtain ⟨rfl, hn⟩ := hw
    simp [hn, Lanes.get_merge _ _ _ hi]
  · rw [if_neg hw, if_neg fun ⟨hr, hn, _⟩ => hw ⟨hr, hn⟩]

/-- Settles O45: P15 and the guards by the equations of `Group.pred` and `Slot.eff`; a vector result by whether its destination is
written, and then by the merge of its lanes. -/
theorem predicatesAndEffectiveLanes : Obligations.PredicatesAndEffectiveLanes := by
  unfold Obligations.PredicatesAndEffectiveLanes
  refine ⟨fun g m => ⟨g.pred_fifteen, g.setPred_fifteen m⟩,
    fun sl => ⟨sl.eff_p15, sl.eff_not_p15, fun n => ⟨sl.eff_plain n, sl.eff_negated n⟩⟩, ?_⟩
  intro s sl d eff v g hg
  by_cases hdst : 240 ≤ d.reg.toNat ∨ d.nwb = true
  · refine ⟨g, (findGroup_writeVec_of_unwritten s sl d eff v _ hdst).trans hg, fun n i _ => (if_neg ?_).symm⟩
    rintro ⟨hreg, hlt, -, hnwb, -⟩
    rcases hdst with hport | hset
    · omega
    · simp [hnwb] at hset
  · obtain ⟨hport, hset⟩ := not_or.mp hdst
    have hnwb : d.nwb = false := Bool.eq_false_iff.mpr hset
    refine ⟨g.setVreg d.reg.toNat (Lanes.merge eff v (g.vreg d.reg.toNat)), ?_, fun n i hi => ?_⟩
    · simp [findGroup_writeVec_of_register s sl d eff v _ hport hnwb, hg]
    · rw [Group.get_vreg_setVreg_merge g _ _ _ _ hi]
      have hcond : (n = d.reg.toNat ∧ n < 240 ∧ n < g.vregs.length ∧ d.nwb = false ∧ eff.getLsbD i = true) ↔
          (n = d.reg.toNat ∧ n < g.vregs.length ∧ eff.getLsbD i = true) := by
        constructor
        · rintro ⟨hreg, -, hlen, -, hlane⟩
          exact ⟨hreg, hlen, hlane⟩
        · rintro ⟨hreg, hlen, hlane⟩
          exact ⟨hreg, by omega, hlen, hnwb, hlane⟩
      simp only [hcond]

end Sys2Proof.Machine

end

/-! ### VSEL: the fields of its word, and the choice of each lane (R196, R200, R250) -/

section

namespace Sys2Proof.Machine

open Sys2Proof.Safety

/-! The two fields of a packed word that name its entry. -/

theorem extractLsb'_packWord_major (major minor : Nat) (h : Head) (rest : BitVec 55) :
    (packWord major minor h rest).extractLsb' 88 8 = BitVec.ofNat 8 major := by
  simp (disch := omega) only [packWord, BitVec.extractLsb'_append_eq_of_le, Nat.reduceSub, BitVec.extractLsb'_eq_self]

theorem extractLsb'_packWord_minor (major minor : Nat) (h : Head) (rest : BitVec 55) :
    (packWord major minor h rest).extractLsb' 82 6 = BitVec.ofNat 6 minor := by
  simp (disch := omega) only [packWord, BitVec.extractLsb'_append_eq_of_le, BitVec.extractLsb'_append_eq_of_add_le,
    Nat.reduceSub, BitVec.extractLsb'_eq_self]

/-! What the field rules of a word say of a source that they read as a predicate. -/

/-- A predicate source is one of P0 to P15, named with kind 0b00. -/
theorem srcOk_pred_iff (wide : Bool) (x : Src) : srcOk wide .pred x = true ↔ ∃ n : BitVec 8, x = .vec n ∧ n.toNat < 16 := by
  cases x with
  | vec n => simp [srcOk]
  | uni n | latch n | short i | wide => simp [srcOk]

/-- The field rules of a word of format A check its source C by the role that the entry gives it. -/
theorem srcOk_c_of_entryOk {major minor : Nat} {f : FmtA} (h : entryOk major minor (.a f) = true) :
    srcOk true (rolesA major minor f).c f.c = true := by
  simp only [entryOk, rolesOf, Bool.and_eq_true] at h
  obtain ⟨-, ⟨⟨-, hc⟩, -⟩, -⟩ := h
  exact hc

theorem entryOk_of_wellFormed_vsel {f : FmtA} (h : (Instr.vsel f).wellFormed = true) : entryOk 0x21 0x0F (.a f) = true :=
  (Bool.and_eq_true_iff.mp h).1

/-- A well-formed VSEL names a predicate as its source C. -/
theorem vsel_source_of_wellFormed {f : FmtA} (h : (Instr.vsel f).wellFormed = true) :
    ∃ n : BitVec 8, f.c = .vec n ∧ n.toNat < 16 :=
  (srcOk_pred_iff true f.c).mp (srcOk_c_of_entryOk (entryOk_of_wellFormed_vsel h))

/-- A 64-lane word that issues completes with its value written in the effective lanes (R58, R63). -/
theorem issueVec_of_issues {i : Instr} {s : State} {sl : Slot} (h : Head) (v : Slot → Lanes) (hi : Issues s sl i) :
    issueVec i h v s = .next (after i sl (vecResult i h s sl (v sl))) :=
  issueWord_done hi rfl

theorem exec_vsel_of_issues {f : FmtA} {s : State} {sl : Slot} (hi : Issues s sl (.vsel f)) :
    exec (.vsel f) s = .next (after (.vsel f) sl
      (vecResult (.vsel f) f.toHead s sl (Lanes.merge (sl.predSrc f.c) (sl.srcA f) (sl.srcB f)))) :=
  issueVec_of_issues f.toHead (fun sl => Lanes.merge (sl.predSrc f.c) (sl.srcA f) (sl.srcB f)) hi

/-- Settles O46: the word by its packed fields and the role of source C; the result by the completion of a 64-lane word, whose value
is the merge of a and b under P[c]. -/
theorem selectByPredicate : Obligations.SelectByPredicate := by
  unfold Obligations.SelectByPredicate
  constructor
  · exact fun f => ⟨extractLsb'_packWord_major 0x21 0x0F f.toHead (restBits (.a f)),
      extractLsb'_packWord_minor 0x21 0x0F f.toHead (restBits (.a f)), vsel_source_of_wellFormed⟩
  · intro f s sl n hc hi
    have hpred : sl.predSrc f.c = sl.g.pred n.toNat := by rw [hc]; rfl
    refine ⟨Lanes.merge (sl.predSrc f.c) (sl.srcA f) (sl.srcB f), exec_vsel_of_issues hi, fun i hlane => ?_⟩
    rw [Lanes.get_merge _ _ _ hlane, hpred]

end Sys2Proof.Machine

end

/-! ### MZERO: the end of a Press command and the accumulator that it zeroes (R307, R318, R327) -/

section

namespace Sys2Proof.Machine

/-- A stream changed is the stream found; every other stream is found as before. -/
theorem findPress_updPress (s : State) (core num c n : Nat) (f : PressCtx → PressCtx)
    (hf : ∀ p, (f p).core = p.core ∧ (f p).num = p.num) :
    findPress (updPress s core num f) c n = (findPress s c n).map fun p => if c = core ∧ n = num then f p else p := by
  have hkey : ((fun p : PressCtx => p.core == c && p.num == n) ∘ fun p => if p.core == core && p.num == num then f p else p) =
      fun p => p.core == c && p.num == n := by
    funext p
    simp only [Function.comp_apply]
    split
    · rw [(hf p).1, (hf p).2]
    · rfl
  unfold findPress
  rw [updPress_presses, List.find?_map, hkey]
  refine Option.map_congr fun p hp => ?_
  obtain ⟨rfl, rfl⟩ : p.core = c ∧ p.num = n := by simpa using List.find?_some hp
  simp

/-- The stream that is changed. -/
theorem findPress_updPress_self {s : State} {core num : Nat} {f : PressCtx → PressCtx} {p : PressCtx}
    (hf : ∀ p, (f p).core = p.core ∧ (f p).num = p.num) (hp : findPress s core num = some p) :
    findPress (updPress s core num f) core num = some (f p) := by
  simp [findPress_updPress s core num core num f hf, hp]

@[simp] theorem findPress_scoreLeave (s : State) (id core num : Nat) :
    findPress (scoreLeave s id) core num = findPress s core num := rfl

/-- A command that no earlier access holds on the scoreboard, and that is first or need not be, finishes with its effect (R307,
R327). -/
theorem exec_pressCommandFinish_of_unheld {s : State} {id : Nat} {p : PressCtx} {c : PressCmd} {co : Cohort}
    (hp : (s.exec.presses.find? fun p => p.cmds.any fun x => x.id == id) = some p)
    (hc : p.cmds.find? (fun x => x.id == id) = some c) (hco : findCohort s p.cohort = some co)
    (hscore : ∀ e, s.exec.score.find? (fun e => e.id == id) = some e → scoreBehind s e = false)
    (hfirst : (p.cmds.head?.map (·.id)) = some id ∨ waitsForEarlier c.what = false) :
    exec (.pressCommandFinish id) s = .next (scoreLeave (updPress (pressPerform s p co c) p.core p.num fun p =>
      { p with cmds := p.cmds.filter fun x => x.id != id }) id) := by
  have hmay : ((p.cmds.head?.map (·.id)) == some id || !waitsForEarlier c.what) = true := by
    simpa using hfirst
  show execPressCommandFinish id s = _
  simp only [execPressCommandFinish, hp, hc, hco, hmay, Bool.and_true]
  refine eventIf_next.mpr ⟨?_, rfl⟩
  cases he : s.exec.score.find? fun e => e.id == id with
  | none => rfl
  | some e => simp [hscore e he]

/-- What an MZERO does when it finishes (R318). -/
theorem pressPerform_mzero (s : State) (p : PressCtx) (co : Cohort) {c : PressCmd} {f : FmtXA} (hc : c.what = .mzero f) :
    pressPerform s p co c =
      updPress s p.core p.num fun p => { p with accs := p.accs.set f.dst.reg.toNat (List.replicate 4096 0) } := by
  simp only [pressPerform, hc]

/-- The stream after an MZERO that finishes: its accumulator zeroed, and the command gone. -/
theorem findPress_mzero_finished {s : State} {p : PressCtx} {co : Cohort} {c : PressCmd} {f : FmtXA} (hc : c.what = .mzero f)
    (hp : findPress s p.core p.num = some p) (id : Nat) :
    findPress (scoreLeave (updPress (pressPerform s p co c) p.core p.num fun p =>
        { p with cmds := p.cmds.filter fun x => x.id != id }) id) p.core p.num =
      some { p with accs := p.accs.set f.dst.reg.toNat (List.replicate 4096 0), cmds := p.cmds.filter fun x => x.id != id } := by
  rw [findPress_scoreLeave, pressPerform_mzero s p co hc]
  exact findPress_updPress_self (by simp) (findPress_updPress_self (by simp) hp)

/-- Settles O59: the command at the front finishes, its scoreboard entry being absent, and the stream found then is the stream
before with one accumulator set. -/
theorem mzeroClearsItsAccumulator : Obligations.MzeroClearsItsAccumulator := by
  unfold Obligations.MzeroClearsItsAccumulator
  intro s f c p co hc hfind hacc hp hcmd hco hscore hfirst
  have hunheld : ∀ e, s.exec.score.find? (fun e => e.id == c.id) = some e → scoreBehind s e = false := by
    simp [hscore]
  refine ⟨_, _, exec_pressCommandFinish_of_unheld hp hcmd hco hunheld (.inl hfirst), findPress_mzero_finished hc hfind c.id,
    List.getElem?_set_self hacc, fun n hn => List.getElem?_set_ne hn.symm, rfl⟩

end Sys2Proof.Machine

end

/-! ### Encoding and decoding a word (R196 to R206, R219) -/

section

namespace Sys2Proof

open Machine

/-! The fields: what is packed reads back, and what is read packs back. -/

theorem getLsbD_bit1 (b : Bool) : (bit1 b).getLsbD 0 = b := by cases b <;> rfl

theorem bit1_getLsbD {w : Nat} (x : BitVec w) (i : Nat) : bit1 (x.getLsbD i) = x.extractLsb' i 1 := by
  refine BitVec.eq_of_getLsbD_eq fun k hk => ?_
  obtain rfl : k = 0 := by omega
  rw [getLsbD_bit1, BitVec.getLsbD_extractLsb']
  rfl

theorem guardOf_guardBits (g : Guard) : guardOf (guardBits g) = g := by
  show Guard.mk ((bit1 g.neg ++ g.pred).getLsbD 4) ((bit1 g.neg ++ g.pred).extractLsb' 0 4) = g
  simp (disch := omega) only [BitVec.extractLsb'_append_eq_of_add_le, BitVec.extractLsb'_eq_self, BitVec.getLsbD_append,
    Nat.lt_irrefl, if_false, Nat.sub_self, getLsbD_bit1]

theorem guardBits_guardOf (x : BitVec 5) : guardBits (guardOf x) = x := by
  revert x; decide

theorem dstOf_dstBits (d : Dst) : dstOf (dstBits d) = d := by
  show dstOf (d.cap ++ bit1 d.nwb ++ d.reg) = d
  simp (disch := omega) only [dstOf, BitVec.extractLsb'_append_eq_of_le, BitVec.extractLsb'_append_eq_of_add_le,
    BitVec.extractLsb'_eq_self, BitVec.getLsbD_append, Nat.reduceSub, Nat.lt_irrefl, Nat.zero_lt_one, if_false, if_true,
    Nat.sub_self, getLsbD_bit1]

theorem dstBits_dstOf (x : BitVec 11) : dstBits (dstOf x) = x := by
  show x.extractLsb' 9 2 ++ bit1 (x.getLsbD 8) ++ x.extractLsb' 0 8 = x
  rw [bit1_getLsbD, BitVec.extractLsb'_append_extractLsb'_eq_extractLsb' (by rfl),
    BitVec.extractLsb'_append_extractLsb'_eq_extractLsb' (by rfl)]
  exact BitVec.extractLsb'_eq_self

/-- The kind of a source stands in its two highest bits (R200). -/
theorem srcOf_append (k : BitVec 2) (n : BitVec 8) : srcOf (k ++ n) =
    match k.toNat with
    | 0 => some (.vec n)
    | 1 => some (.uni n)
    | 2 => some (.latch n)
    | _ => if n.getLsbD 7 then (if n.extractLsb' 0 7 = 0 then some .wide else none) else some (.short (n.extractLsb' 0 7)) := by
  simp (disch := omega) only [srcOf, BitVec.extractLsb'_append_eq_of_le, BitVec.extractLsb'_append_eq_of_add_le,
    BitVec.extractLsb'_eq_self, BitVec.getLsbD_append, Nat.reduceSub]
  rfl

theorem srcOf_srcBits (x : Src) : srcOf (srcBits x) = some x := by
  cases x with
  | vec n => exact srcOf_append 0 n
  | uni n => exact srcOf_append 1 n
  | latch n => exact srcOf_append 2 n
  | wide => rfl
  | short i =>
    have hbits : srcBits (.short i) = 3#2 ++ (0#1 ++ i) := BitVec.append_assoc (x₁ := 3#2) (x₂ := 0#1) (x₃ := i)
    rw [hbits, srcOf_append]
    simp (disch := omega) only [BitVec.extractLsb'_append_eq_of_add_le, BitVec.extractLsb'_eq_self, BitVec.getLsbD_append]
    rfl

theorem srcBits_of_srcOf {x : BitVec 10} {y : Src} (h : srcOf x = some y) : srcBits y = x := by
  revert x y; decide

/-! The word: its major, its head and its tail. -/

theorem toNat_major_packWord {M : Nat} (m : Nat) (h : Head) (rest : BitVec 55) (hM : M < 256) :
    ((packWord M m h rest).extractLsb' 88 8).toNat = M := by
  rw [extractLsb'_packWord_major, BitVec.toNat_ofNat, Nat.mod_eq_of_lt hM]

theorem toNat_minor_packWord {m : Nat} (M : Nat) (h : Head) (rest : BitVec 55) (hm : m < 64) :
    ((packWord M m h rest).extractLsb' 82 6).toNat = m := by
  rw [extractLsb'_packWord_minor, BitVec.toNat_ofNat, Nat.mod_eq_of_lt hm]

theorem extractLsb'_packWord_rest (M m : Nat) (h : Head) (rest : BitVec 55) {lo n : Nat} (hn : lo + n ≤ 55) :
    (packWord M m h rest).extractLsb' lo n = rest.extractLsb' lo n := by
  simp only [packWord]
  exact BitVec.extractLsb'_append_eq_of_add_le hn

theorem getLsbD_packWord_rest (M m : Nat) (h : Head) (rest : BitVec 55) {i : Nat} (hi : i < 55) :
    (packWord M m h rest).getLsbD i = rest.getLsbD i := by
  simp only [packWord, BitVec.getLsbD_append, hi, if_true]

theorem headOf_packWord (M m : Nat) (h : Head) (rest : BitVec 55) : headOf (packWord M m h rest) = some h := by
  simp (disch := omega) only [headOf, packWord, BitVec.extractLsb'_append_eq_of_le,
    BitVec.extractLsb'_append_eq_of_add_le, BitVec.extractLsb'_eq_self, BitVec.getLsbD_append, Nat.reduceSub, Nat.reduceLT,
    if_false, if_true, srcOf_srcBits, guardOf_guardBits, dstOf_dstBits, getLsbD_bit1]

/-- A word is its major, its minor, its head and its tail. -/
theorem packWord_of_headOf {w : BitVec 96} {h : Head} (hh : headOf w = some h) :
    packWord (w.extractLsb' 88 8).toNat (w.extractLsb' 82 6).toNat h (w.extractLsb' 0 55) = w := by
  unfold headOf at hh
  split at hh
  · rename_i a ha
    cases hh
    simp only [packWord, BitVec.ofNat_toNat, BitVec.setWidth_eq, bit1_getLsbD, guardBits_guardOf, dstBits_dstOf,
      srcBits_of_srcOf ha]
    iterate 6 rw [BitVec.extractLsb'_append_extractLsb'_eq_extractLsb' (by rfl)]
    exact BitVec.extractLsb'_eq_self
  · cases hh

/-! The format of a body and its major (R197). -/

/-- The majors of a body's format. -/
def Machine.Body.underMajor (M : Nat) : Body → Prop
  | .y _ => M < 0x20
  | .a _ => 0x20 ≤ M ∧ M < 0x60
  | .i _ => 0x60 ≤ M ∧ M < 0x80
  | .m _ => 0x80 ≤ M ∧ M < 0xC0
  | .b _ => 0xC0 ≤ M ∧ M < 0xE0
  | .xr _ => M = 0xE0
  | .xa _ => 0xE0 < M

/-- A packed body is read back under a major of its format. -/
theorem bodyOf_packWord {M m : Nat} {b : Body} (hM : M < 256) (hb : b.underMajor M) :
    bodyOf (packWord M m b.head (restBits b)) = some b := by
  cases b with
  | y f | a f | i f | m f | b f | xr f | xa f =>
    simp only [Body.underMajor] at hb
    simp (disch := omega) only [bodyOf, toNat_major_packWord, headOf_packWord, if_pos, if_neg, extractLsb'_packWord_rest,
      getLsbD_packWord_rest, restBits, Body.head, BitVec.extractLsb'_append_eq_of_le,
      BitVec.extractLsb'_append_eq_of_add_le, BitVec.extractLsb'_eq_self, BitVec.getLsbD_append, Nat.reduceSub,
      Nat.reduceLT, if_false, if_true, srcOf_srcBits, getLsbD_bit1]

/-- The body that a word holds has the word's head, and packs to the word's tail. -/
theorem headOf_of_bodyOf {w : BitVec 96} {b : Body} (h : bodyOf w = some b) :
    headOf w = some b.head ∧ restBits b = w.extractLsb' 0 55 := by
  unfold bodyOf at h
  dsimp only at h
  split at h
  · cases h
  · rename_i hd hhd
    split at h
    · cases h
      refine ⟨hhd, ?_⟩
      simp only [restBits]
      iterate 3 rw [BitVec.extractLsb'_append_extractLsb'_eq_extractLsb' (by rfl)]
    · split at h
      · cases h
        refine ⟨hhd, ?_⟩
        simp only [restBits]
        iterate 5 rw [BitVec.extractLsb'_append_extractLsb'_eq_extractLsb' (by rfl)]
      · split at h
        · rename_i x y hx hy
          have key : srcBits x ++ srcBits y = w.extractLsb' 35 20 := by
            rw [srcBits_of_srcOf hx, srcBits_of_srcOf hy]
            exact BitVec.extractLsb'_append_extractLsb'_eq_extractLsb' (by rfl)
          repeat' split at h
          all_goals
            cases h
            refine ⟨hhd, ?_⟩
            simp only [restBits, key, bit1_getLsbD]
          · iterate 2 rw [BitVec.extractLsb'_append_extractLsb'_eq_extractLsb' (by rfl)]
          · iterate 4 rw [BitVec.extractLsb'_append_extractLsb'_eq_extractLsb' (by rfl)]
          · iterate 8 rw [BitVec.extractLsb'_append_extractLsb'_eq_extractLsb' (by rfl)]
          · iterate 4 rw [BitVec.extractLsb'_append_extractLsb'_eq_extractLsb' (by rfl)]
          · iterate 4 rw [BitVec.extractLsb'_append_extractLsb'_eq_extractLsb' (by rfl)]
        · cases h

/-! The opcode map: the pair of a word, and the word of a pair (R219 to R228). -/

theorem build_lease (f : FmtM) : build 0x8B 0 (.m f) = some (if f.off.getLsbD 1 then .leaseDrop f else .lease f) := rfl

theorem build_rget (f : FmtM) : build 0x8B 5 (.m f) = some (if f.off.getLsbD 0 then .rgetSpad f else .rgetQueue f) := rfl

theorem Instr.isWord_of_parts {i : Instr} {p : Nat × Nat × Body} (h : parts i = some p) : i.isWord = true := by
  rw [Instr.isWord, h]; rfl

/-- The pair of a word is assigned, and its major is one of its format. -/
theorem parts_assigned {i : Instr} {M m : Nat} {b : Body} (hp : parts i = some (M, m, b)) :
    M < 256 ∧ m < 64 ∧ b.underMajor M ∧ minorMask M ≠ 0 ∧ (minorMask M).testBit m = true := by
  cases i
  all_goals cases hp
  all_goals (simp only [Body.underMajor]; decide)

/-- A well-formed word is what its pair and its body build. -/
theorem build_of_parts {i : Instr} {M m : Nat} {b : Body} (hp : parts i = some (M, m, b)) (hw : i.wellFormed = true) :
    build M m b = some i := by
  cases i
  case lease f =>
    cases hp
    have hoff : f.off.toNat ≤ 1 := of_decide_eq_true (Bool.and_eq_true_iff.mp hw).2
    have hbit : f.off.getLsbD 1 = false := Nat.testBit_lt_two_pow (Nat.lt_succ_of_le hoff)
    rw [build_lease, hbit]; rfl
  case leaseDrop f =>
    cases hp
    have hoff : f.off = 2 := eq_of_beq (Bool.and_eq_true_iff.mp hw).2
    rw [build_lease, hoff]; rfl
  case rgetQueue f =>
    cases hp
    have hoff : f.off = 0 := eq_of_beq (Bool.and_eq_true_iff.mp hw).2
    rw [build_rget, hoff]; rfl
  case rgetSpad f =>
    cases hp
    have hoff : f.off = 1 := eq_of_beq (Bool.and_eq_true_iff.mp hw).2
    rw [build_rget, hoff]; rfl
  all_goals cases hp
  all_goals rfl

theorem minorMask_lt (M : Nat) : minorMask M < 2 ^ 17 := by
  unfold minorMask
  split <;> decide

/-- An assigned minor is below 17. -/
theorem minor_lt_of_testBit {M m : Nat} (hm : (minorMask M).testBit m = true) : m < 17 := by
  by_contra hge
  have hpow : 2 ^ 17 ≤ 2 ^ m := Nat.pow_le_pow_right (by decide) (by omega)
  rw [Nat.testBit_lt_two_pow ((minorMask_lt M).trans_le hpow)] at hm
  cases hm

/-- The words of major 0x8B, two pairs of which name two instructions each. -/
theorem parts_of_build_fabric {i : Instr} {m : Nat} {b : Body} (hm : m < 17) (h : build 0x8B m b = some i) :
    parts i = some (0x8B, m, b) := by
  cases b with
  | m f =>
    interval_cases m
    · rw [build_lease] at h
      split at h <;> cases h <;> rfl
    pick_goal 5 -- minor 5, past 1 to 4
    · rw [build_rget] at h
      split at h <;> cases h <;> rfl
    all_goals cases h
    all_goals rfl
  | y f | a f | i f | b f | xr f | xa f =>
    interval_cases m
    all_goals cases h

/-- What an assigned pair and a body build has that pair and that body. -/
theorem parts_of_build {i : Instr} {M m : Nat} {b : Body} (hm : (minorMask M).testBit m = true) (h : build M m b = some i) :
    parts i = some (M, m, b) := by
  have hlt := minor_lt_of_testBit hm
  unfold minorMask at hm
  split at hm
  case h_38 => exact parts_of_build_fabric hlt h
  case h_44 => simp at hm
  all_goals
    clear hm
    interval_cases m
  all_goals cases b
  all_goals cases h
  all_goals rfl

/-- A word whose pair is assigned, and whose pair and body build a well-formed instruction, decodes to it. -/
theorem decode_eq_ok {w : BitVec 96} {i : Instr} {M m : Nat} {b : Body} (hM : (w.extractLsb' 88 8).toNat = M)
    (hm : (w.extractLsb' 82 6).toNat = m) (hmajor : minorMask M ≠ 0) (hminor : (minorMask M).testBit m = true)
    (hb : bodyOf w = some b) (hi : build M m b = some i) (hwf : i.wellFormed = true) : decode w = .ok i := by
  simp only [decode, hM, hm, hmajor, hminor, hb, hi, hwf, if_true, if_false, Bool.not_true, Bool.false_eq_true]

/-- What a word that decodes has passed. -/
theorem decode_ok {w : BitVec 96} {i : Instr} (h : decode w = .ok i) :
    (minorMask (w.extractLsb' 88 8).toNat).testBit (w.extractLsb' 82 6).toNat = true ∧ i.wellFormed = true ∧
      ∃ b, bodyOf w = some b ∧ build (w.extractLsb' 88 8).toNat (w.extractLsb' 82 6).toNat b = some i := by
  unfold decode at h
  dsimp only at h
  split at h
  · cases h
  · split at h
    · cases h
    · rename_i hminor
      split at h
      · cases h
      · rename_i b hb
        split at h
        · cases h
        · rename_i j hj
          split at h
          · rename_i hwf
            cases h
            exact ⟨by simpa using hminor, hwf, b, hb, hj⟩
          · cases h

/-- Settles O43: the word's pair is assigned, its body is read back from the packed fields, and the pair and the body build the
instruction. -/
theorem decodeOfEncode : Obligations.DecodeOfEncode := by
  unfold Obligations.DecodeOfEncode
  intro i hword hwf
  obtain ⟨⟨M, m, b⟩, hp⟩ := Option.isSome_iff_exists.mp hword
  obtain ⟨hM, hm, hb, hmajor, hminor⟩ := parts_assigned hp
  have hw : encode i = packWord M m b.head (restBits b) := by rw [encode, hp]
  rw [hw]
  exact decode_eq_ok (toNat_major_packWord m _ _ hM) (toNat_minor_packWord M _ _ hm) hmajor hminor (bodyOf_packWord hM hb)
    (build_of_parts hp hwf) hwf

/-- Settles O44: what a word's pair and body build has that pair and that body, which pack to the word that they were read from. -/
theorem encodeOfDecode : Obligations.EncodeOfDecode := by
  unfold Obligations.EncodeOfDecode
  intro w i h
  obtain ⟨hminor, hwf, b, hb, hbuild⟩ := decode_ok h
  have hp := parts_of_build hminor hbuild
  obtain ⟨hhead, hrest⟩ := headOf_of_bodyOf hb
  refine ⟨Instr.isWord_of_parts hp, hwf, ?_⟩
  simp only [encode, hp, hrest, packWord_of_headOf hhead]

end Sys2Proof

end

/-! ### The words of Chapters 12 and 13 (R240 to R270): completion with their result -/

section

namespace Sys2Proof.Machine

open Sys2Proof.Safety

/-! What each shape of word does when it issues. -/

section

variable {i : Instr} {s : State} {sl : Slot}

theorem issuePred_of_issues (h : Head) (v : Slot → Mask) (hi : Issues s sl i) :
    issuePred i h v s = .next (after i sl (predResult i h s sl (v sl))) := issueWord_done hi rfl

/-- A word with carry writes its result and its carry predicate in the effective lanes (R246). -/
theorem issueCarry_of_issues (h : Head) (pc : Nat) (op : Nat → Nat → Nat → Nat → Nat × Bool) (ab : Slot → Lanes × Lanes)
    (hi : Issues s sl i) :
    issueCarry i h pc op ab s = .next (after i sl
      (let r := carryLanes sl.w op (sl.g.pred pc) (ab sl).1 (ab sl).2
       let t := writeVec (noteIssued s sl) sl h.dst (sl.eff h.guard) (Lanes.build fun k => BitVec.ofNat 64 (r.getD k (0, false)).1)
       popPorts (updGroup t sl.g.gid fun g =>
         g.setPred pc (mergeMask (sl.eff h.guard) (maskOf fun k => (r.getD k (0, false)).2) (g.pred pc))) sl (wordPorts i))) :=
  issueWord_done hi rfl

/-- A uniform word computes on 64 bits in its pair form, and else on 32 (R240). -/
theorem issueUni_of_issues (h : Head) (dd : Bool) (v : Slot → Nat → Nat) (hi : Issues s sl i) :
    issueUni i h dd v s = .next (after i sl (uniResult h dd s sl (v sl (if dd then 64 else 32)))) := by
  refine issueWord_done hi ?_
  cases dd <;> rfl

theorem uniA_of_issues (f : FmtA) (op : Nat → Nat → Nat → Nat → Nat) (hi : Issues s sl i) :
    let w := if f.modi.getLsbD 0 then 64 else 32
    uniA i f op s = .next (after i sl (uniResult f.toHead (f.modi.getLsbD 0) s sl
      (op w (sl.uniW w f.wide.toInt f.a) (sl.uniW w f.wide.toInt f.b) (sl.uniW w f.wide.toInt f.c)))) :=
  issueUni_of_issues f.toHead _ _ hi

theorem uniI_of_issues (f : FmtI) (op : Nat → Nat → Nat → Nat → Nat) (hi : Issues s sl i) :
    let w := if f.modi.getLsbD 0 then 64 else 32
    uniI i f op s = .next (after i sl (uniResult f.toHead (f.modi.getLsbD 0) s sl
      (op w (sl.uniW w 0 f.a) (wrapInt w f.imm.toInt) 0))) :=
  issueUni_of_issues f.toHead _ _ hi

theorem issuePredOp_of_issues (h : Head) (v : Slot → Mask) (hi : Issues s sl i) :
    issuePredOp i h v s = .next (after i sl (writePred (noteIssued s sl) sl h.dst (v sl))) := issueWord_done hi rfl

/-- A ranking word writes the lanes whose rank is below k (R270). -/
theorem issueRank_of_issues (f : FmtA) (v : Slot → Mask → Lanes → Nat → Nat → Dword) (hi : Issues s sl i) :
    issueRank i f v s = .next (after i sl
      (let eff := sl.eff f.guard
       let a := sl.redSrc f
       let seg := rankSeg f
       let write := eff &&& maskOf fun p => decide (p % seg < sl.rankK f)
       let key (p : Nat) : Int := rankKey f.fmt ((a.get p).toNat % 2 ^ 32)
       let r := Lanes.build fun p =>
         if write.getLsbD p then v sl eff a (p / seg * seg) (laneOfRank eff key seg (p / seg * seg) (p % seg)) else 0
       popPorts (writeVec (noteIssued s sl) sl f.dst write r) sl (wordPorts i))) := issueWord_done hi rfl

/-- What SRDSYS reads is none of the records of issue (R241, R454). -/
theorem sysValue_noteIssued (s : State) (sl : Slot) (n : Nat) : sysValue (noteIssued s sl) sl n = sysValue s sl n := rfl

theorem exec_srdsys_of_issues {f : FmtA} (hi : Issues s sl (.srdsys f)) : exec (.srdsys f) s =
    .next (after (.srdsys f) sl (uniResult f.toHead (f.modi.getLsbD 0) s sl (sysValue s sl (shortOf f.a).toNat))) := by
  refine (issueWord_done hi ?_ : execSrdsys f s = _)
  dsimp only [uniResult]
  rw [sysValue_noteIssued]

@[simp] theorem findLaunch_noteIssued (s : State) (sl : Slot) (n : Nat) : findLaunch (noteIssued s sl) n = findLaunch s n := rfl

theorem exec_sldc_of_issues {f : FmtA} (hi : Issues s sl (.sldc f)) : exec (.sldc f) s = .next (after (.sldc f) sl
    (let i := (sl.uni32 f.wide.toInt f.a).toNat
     let args := ((findLaunch s sl.g.launch).map (·.args)).getD []
     writeUni (noteIssued s sl) sl f.dst (if i < 64 then args.getD i 0 else 0))) := by
  refine (issueWord_done hi ?_ : execSldc f s = _)
  simp only [findLaunch_noteIssued]

end

/-- Settles O1: each word's act writes its element-wise result. -/
theorem vectorIntegerWordsComplete : Obligations.VectorIntegerWordsComplete := by
  unfold Obligations.VectorIntegerWordsComplete
  simp only [List.forall_mem_cons, List.not_mem_nil, IsEmpty.forall_iff, implies_true, and_true]
  and_intros
  all_goals exact fun f s sl hi => issueVec_of_issues f.toHead _ hi

/-- Settles O2: a word with carry writes its result and its carry, VSEL its choice, and the others their predicate. -/
theorem carryAndCompareWordsComplete : Obligations.CarryAndCompareWordsComplete := by
  unfold Obligations.CarryAndCompareWordsComplete
  simp only [List.forall_mem_cons, List.not_mem_nil, IsEmpty.forall_iff, implies_true, and_true]
  refine ⟨⟨⟨?_, ?_⟩, ?_, ?_⟩, ?_, ?_, ?_⟩
  iterate 4 exact fun f s sl hi => issueCarry_of_issues f.toHead _ _ _ hi
  · exact fun f s sl hi => issueVec_of_issues f.toHead _ hi
  · and_intros
    all_goals exact fun f s sl hi => issuePred_of_issues f.toHead _ hi
  · and_intros
    all_goals exact fun f s sl hi => issuePred_of_issues f.toHead _ hi

/-- Settles O3: each word's act writes its element-wise result. -/
theorem vectorFloatWordsComplete : Obligations.VectorFloatWordsComplete := by
  unfold Obligations.VectorFloatWordsComplete
  simp only [List.forall_mem_cons, List.not_mem_nil, IsEmpty.forall_iff, implies_true, and_true]
  and_intros
  all_goals exact fun f s sl hi => issueVec_of_issues f.toHead _ hi

/-- Settles O4: each conversion's act writes its result, and CVTEF its residue as well. -/
theorem conversionWordsComplete : Obligations.ConversionWordsComplete := by
  unfold Obligations.ConversionWordsComplete
  simp only [List.forall_mem_cons, List.not_mem_nil, IsEmpty.forall_iff, implies_true, and_true]
  constructor
  · and_intros
    all_goals exact fun f s sl hi => issueVec_of_issues f.toHead _ hi
  · exact fun f s sl hi => (issueWord_done hi rfl : execCvtef f s = _)

/-- Settles O5: each word's act writes its lanes; a ranking word those that the rank selects. -/
theorem crossLaneWordsComplete : Obligations.CrossLaneWordsComplete := by
  unfold Obligations.CrossLaneWordsComplete
  simp only [List.forall_mem_cons, List.not_mem_nil, IsEmpty.forall_iff, implies_true, and_true]
  refine ⟨?_, ?_, ?_⟩
  · and_intros
    all_goals exact fun f s sl hi => issueVec_of_issues f.toHead _ hi
  · exact fun f s sl hi =>
      issueRank_of_issues f (fun _ eff a _ c => if eff.getLsbD c then a.get c else rankFill f.fmt) hi
  · exact fun f s sl hi =>
      issueRank_of_issues f (fun _ eff _ g c => if eff.getLsbD c then BitVec.ofNat 64 (c - g) else 0xFFFFFFFF) hi

/-- Settles O6: each uniform word is its operation at the width of its form. -/
theorem uniformWordsComplete : Obligations.UniformWordsComplete := by
  unfold Obligations.UniformWordsComplete
  simp only [List.forall_mem_cons, List.not_mem_nil, IsEmpty.forall_iff, implies_true, and_true]
  refine ⟨⟨?_, ?_, ?_, ?_, ?_, ?_, ?_, ?_, ?_, ?_, ?_, ?_, ?_⟩, ?_, ?_, ?_, ?_, ?_, ?_, ?_, ?_, ?_, ?_, ?_, ?_⟩
  · exact fun f s sl hi => uniA_of_issues f uniAdd hi
  · exact fun f s sl hi => uniA_of_issues f uniSub hi
  · exact fun f s sl hi => uniA_of_issues f uniMul hi
  · exact fun f s sl hi => uniA_of_issues f (fun _ a b _ => a &&& b) hi
  · exact fun f s sl hi => uniA_of_issues f (fun _ a b _ => a ||| b) hi
  · exact fun f s sl hi => uniA_of_issues f (fun _ a b _ => a ^^^ b) hi
  · exact fun f s sl hi => uniA_of_issues f shlBits hi
  · exact fun f s sl hi => uniA_of_issues f shrBits hi
  · exact fun f s sl hi => uniA_of_issues f sarBits hi
  · exact fun f s sl hi => uniA_of_issues f (uniMinMax false (f.modi.getLsbD 1)) hi
  · exact fun f s sl hi => uniA_of_issues f (uniMinMax true (f.modi.getLsbD 1)) hi
  · exact fun f s sl hi => uniA_of_issues f (fun _ a _ _ => a) hi
  · exact fun f s sl hi => uniA_of_issues f (fun _ a b c => if c ≠ 0 then a else b) hi
  · exact fun f s sl hi => uniI_of_issues f uniAdd hi
  · exact fun f s sl hi => uniI_of_issues f uniSub hi
  · exact fun f s sl hi => uniI_of_issues f uniMul hi
  · exact fun f s sl hi => uniI_of_issues f (fun _ a b _ => a &&& b) hi
  · exact fun f s sl hi => uniI_of_issues f (fun _ a b _ => a ||| b) hi
  · exact fun f s sl hi => uniI_of_issues f (fun _ a b _ => a ^^^ b) hi
  · exact fun f s sl hi => uniI_of_issues f shlBits hi
  · exact fun f s sl hi => uniI_of_issues f shrBits hi
  · exact fun f s sl hi => uniI_of_issues f sarBits hi
  · exact fun f s sl hi => uniI_of_issues f (uniMinMax false (f.modi.getLsbD 1)) hi
  · exact fun f s sl hi => uniI_of_issues f (uniMinMax true (f.modi.getLsbD 1)) hi
  · exact fun f s sl hi => uniI_of_issues f (fun _ _ b _ => b) hi

/-- Settles O7: each word's act writes the value that it reads; no record of issue is part of that value. -/
theorem uniformReadsAndPredicateWordsComplete : Obligations.UniformReadsAndPredicateWordsComplete := by
  unfold Obligations.UniformReadsAndPredicateWordsComplete
  simp only [List.forall_mem_cons, List.not_mem_nil, IsEmpty.forall_iff, implies_true, and_true]
  refine ⟨⟨?_, ?_, ?_, ?_, ?_⟩, ?_⟩
  · exact fun f s sl hi => exec_srdsys_of_issues hi
  · exact fun f s sl hi => exec_sldc_of_issues hi
  · exact fun f s sl hi => (issueWord_done hi rfl : execPcnt f s = _)
  · exact fun f s sl hi => (issueWord_done hi rfl : execPfirst f s = _)
  · and_intros
    all_goals exact fun f s sl hi => issuePredOp_of_issues f.toHead _ hi
  · exact fun f s sl hi => (issueWord_done hi rfl : execTstamp f s = _)

end Sys2Proof.Machine

end

/-! ### Transfers, paths and timed waits (R37 to R39, R230 to R238): completion -/

section

namespace Sys2Proof.Machine

open Sys2Proof.Safety

/-- Settles O8: the act of each transfer is to go to its target, or to be done where it is not taken. -/
theorem transferWordsComplete : Obligations.TransferWordsComplete := by
  unfold Obligations.TransferWordsComplete
  intro f s sl
  simp only [List.forall_mem_cons, List.not_mem_nil, IsEmpty.forall_iff, implies_true, and_true]
  refine ⟨⟨?_, ?_, ?_⟩, ?_, ?_, ?_, fun n hn => ⟨?_, ?_⟩⟩
  · exact fun hi hb => (issueWord_goto hi rfl hb : execBra f s = _)
  · exact fun hi hb => (issueWord_goto hi rfl hb : execBrx f s = _)
  · exact fun hi hb => (issueWord_goto hi rfl hb : execRet f s = _)
  · exact fun hi hb => (issueWord_goto hi rfl hb : execCall f s = _)
  · exact fun hi ht hb => (issueWord_goto hi (if_pos ht) hb : execBrc f s = _)
  · exact fun hi ht => (issueWord_done hi (if_neg (by simp [ht])) : execBrc f s = _)
  · intro hi hcount hb
    show execLoops f s = _
    exact issueWord_goto hi (by simp only [hn, hcount, if_true]) hb
  · intro hi hcount
    show execLoops f s = _
    exact issueWord_done hi (by simp only [hn, Nat.not_lt.mpr hcount, if_false])

/-! BDIV: no lane taken, every lane taken, and the two ways to diverge (R37, R233). -/

section

variable {f : FmtB} {s : State} {sl : Slot}

theorem exec_bdiv_none (hi : Issues s sl (.bdiv f)) (ht : sl.p.exec &&& sl.guardMask f.guard = 0) :
    exec (.bdiv f) s = .next (after (.bdiv f) sl (noteIssued s sl)) := by
  show execBdiv f s = _
  exact issueWord_done hi (by simp only [ht, beq_self_eq_true, if_true])

theorem exec_bdiv_all (hi : Issues s sl (.bdiv f)) (ht : sl.p.exec &&& sl.guardMask f.guard ≠ 0)
    (hn : sl.p.exec &&& ~~~sl.guardMask f.guard = 0) (hb : badTarget (noteIssued s sl) sl.g (targetPc sl.pc f) = false) :
    exec (.bdiv f) s = .next (afterTransfer (.bdiv f) sl (noteIssued s sl) (targetPc sl.pc f)) := by
  show execBdiv f s = _
  exact issueWord_goto hi (by simp only [beq_iff_eq, ht, hn, if_false, BEq.rfl, Bool.true_or, if_true]) hb

/-- A BDIV that diverges keeps the larger side in its path: the side not taken where the taken one is the smaller. -/
theorem bdiv_diverges (hi : Issues s sl (.bdiv f)) (ht : sl.p.exec &&& sl.guardMask f.guard ≠ 0)
    (hn : sl.p.exec &&& ~~~sl.guardMask f.guard ≠ 0) (hb : badTarget (noteIssued s sl) sl.g (targetPc sl.pc f) = false)
    (hrec : recordCount sl.g < 48) : exec (.bdiv f) s = issueWord s (.bdiv f) fun s sl =>
      let k := if recordCount sl.g + 2 ≤ 48 then lowestFree sl.g else none
      if popMask (sl.p.exec &&& sl.guardMask f.guard) < popMask (sl.p.exec &&& ~~~sl.guardMask f.guard) then
        .done (diverge s sl.g.gid sl.run.entry k (reconPc sl.pc f) (sl.p.exec &&& sl.guardMask f.guard)
          (sl.p.exec &&& ~~~sl.guardMask f.guard) (targetPc sl.pc f))
      else .goto (diverge s sl.g.gid sl.run.entry k (reconPc sl.pc f) (sl.p.exec &&& ~~~sl.guardMask f.guard)
        (sl.p.exec &&& sl.guardMask f.guard) (nextPc sl.pc)) (targetPc sl.pc f) := by
  show execBdiv f s = _
  unfold execBdiv
  rw [issueWord_issues _ hi, issueWord_issues _ hi]
  simp only [beq_iff_eq, ht, hn, hb, if_false, Bool.or_false, Nat.not_le.mpr hrec]

end

/-! EXIT, RECON, EXECWR and SWAIT (R38, R39, R235 to R238). -/

section

variable {s : State} {sl : Slot}

/-- An EXIT that leaves lanes of the path goes on with them. -/
theorem exec_exit_left {f : FmtB} (hi : Issues s sl (.exit f)) (hl : sl.p.lanes &&& ~~~sl.p.exec ≠ 0) :
    exec (.exit f) s = .next (after (.exit f) sl
      (updPath (noteIssued s sl) sl.g.gid sl.run.entry fun p => { p with lanes := sl.p.lanes &&& ~~~sl.p.exec, exec := 0 })) := by
  show execExit f s = _
  exact issueWord_done hi (by simp only [bne_iff_ne, ne_eq, hl, not_false_eq_true, if_true])

/-- An EXIT of the path's last lanes ends the path, and the group with its last path. -/
theorem exec_exit_last {f : FmtB} (hi : Issues s sl (.exit f)) (hl : sl.p.lanes &&& ~~~sl.p.exec = 0) :
    exec (.exit f) s =
      let last := !(sl.g.paths.set sl.run.entry Path.empty).any fun p => p.st != .free
      let t := if sl.g.sup = some sl.run.entry then dropFaulted (noteIssued s sl) sl.g.gid sl.run.entry else noteIssued s sl
      .next (freeUnit (countIssue
        (if last then groupEnd t sl.g.gid else freeEntry t sl.g.gid sl.run.entry) sl (.exit f) false) sl.run.core sl.run.unit) := by
  show execExit f s = _
  refine issueWord_leave hi ?_
  simp only [bne_iff_ne, ne_eq, hl, not_true_eq_false, if_false, BitVec.ofNat_eq_ofNat]
  split <;> rfl

end

/-- Settles O9: the acts of BDIV and EXIT by their cases, that of RECON by the top record of its path, those of EXECWR and SWAIT by their
source and deadline. -/
theorem pathWordsComplete : Obligations.PathWordsComplete := by
  unfold Obligations.PathWordsComplete
  refine ⟨fun f s sl hi => ⟨fun ht => exec_bdiv_none hi ht, fun ht hn hb => exec_bdiv_all hi ht hn hb,
    fun ht hn hb hrec hlt => ?_, fun ht hn hb hrec hle => ?_⟩, fun s sl => ⟨fun f hi => ⟨fun hl => exec_exit_left hi hl,
    fun hl => exec_exit_last hi hl⟩, fun f hi => ⟨fun hs => ?_, fun r rest hs => ⟨?_, ?_, ?_, ?_⟩⟩, fun f hi => ⟨?_, ?_⟩,
    fun f hi => ⟨?_, ?_, ?_⟩⟩⟩
  · exact (bdiv_diverges hi ht hn hb hrec).trans (issueWord_done hi (if_pos hlt))
  · exact (bdiv_diverges hi ht hn hb hrec).trans (issueWord_goto hi (if_neg (Nat.not_lt.mpr hle)) hb)
  · exact issueWord_done (act := reconAct) hi (by simp only [reconAct, hs])
  · exact fun hr => issueWord_done (act := reconAct) hi (by simp only [reconAct, hs, ne_eq, hr, not_false_eq_true, if_true])
  · exact fun hr hk hp => issueWord_jump (act := reconAct) hi
      (by simp only [reconAct, hs, hr, hk, hp, ne_eq, not_true_eq_false, if_false, if_true])
  · exact fun hr hk hp => issueWord_done (act := reconAct) hi
      (by simp only [reconAct, hs, hr, hk, hp, ne_eq, not_true_eq_false, if_false])
  · exact fun hr hk hp => issueWord_done (act := reconAct) hi
      (by simp [reconAct, hs, hr, hk, hp])
  · intro n hn
    show execExecwr f s = _
    exact issueWord_done hi (by simp only [hn])
  · intro hn
    show execExecwr f s = _
    refine issueWord_done hi ?_
    cases ha : f.a with
    | vec n => exact absurd ha (hn n)
    | uni n | latch n | short i | wide => rfl
  · intro habs hdue
    show execSwait f s = _
    exact issueWord_done hi (by simp only [habs, if_true]; exact if_pos hdue)
  · intro d habs hd hdue
    show execSwait f s = _
    exact issueWord_done hi (by simp only [habs, hd]; exact if_pos hdue)
  · intro habs hd hdue
    show execSwait f s = _
    refine issueWord_done hi ?_
    have h0 : (sl.uni32 f.wide.toInt f.a).toInt.toNat = 0 := by omega
    simp only [habs, hd, h0]
    exact if_pos (Nat.le_refl _)

end Sys2Proof.Machine

end

section
/-! ### Ten words, the state at reset, memory read back, the end of a run and the return from the handler -/
namespace Sys2Proof.Machine
open Sys2Proof.Safety

/-! #### Memory read back -/

@[simp] theorem Memory.read_nil (e a : Nat) : Memory.read e [] a = Memory.unlisted e a := rfl

theorem Memory.read_cons (e : Nat) (c : Host.Cell) (m : List Host.Cell) (a : Nat) :
    Memory.read e (c :: m) a = if c.1 = a then c.2 else Memory.read e m a := by
  unfold Memory.read
  by_cases h : c.1 = a <;> simp [h]

/-- An address below every entry is not listed. -/
theorem Memory.read_of_lt {e a : Nat} {m : List Host.Cell} (h : ∀ c ∈ m, a < c.1) : Memory.read e m a = Memory.unlisted e a := by
  induction m with
  | nil => rfl
  | cons c m ih =>
    obtain ⟨hc, hm⟩ := List.forall_mem_cons.mp h
    rw [Memory.read_cons, if_neg (by omega), ih hm]

/-- A byte put in front of entries that stand above it, listed only where it differs from an unlisted one. -/
theorem Memory.read_front {e a : Nat} {m : List Host.Cell} (h : ∀ c ∈ m, a < c.1) (b : Byte) (x : Nat) :
    Memory.read e (if b = Memory.unlisted e a then m else (a, b) :: m) x = if x = a then b else Memory.read e m x := by
  by_cases hx : x = a
  · subst hx
    split
    · rw [if_pos rfl, Memory.read_of_lt h]; exact Eq.symm ‹_›
    · simp [Memory.read_cons]
  · rw [if_neg hx]
    split
    · rfl
    · rw [Memory.read_cons, if_neg (Ne.symm hx)]

/-- A byte reads back what was written, and every other byte keeps its value. -/
theorem Memory.read_write {e : Nat} {m : List Host.Cell} (h : Memory.rising m = true) (a : Nat) (b : Byte) (x : Nat) :
    Memory.read e (Memory.write e m a b) x = if x = a then b else Memory.read e m x := by
  induction m with
  | nil => exact Memory.read_front (m := []) (by simp) b x
  | cons c m ih =>
    obtain ⟨hc, hm⟩ := Memory.rising_cons.mp h
    obtain ⟨k, v⟩ := c
    unfold Memory.write
    rcases lt_trichotomy a k with hk | rfl | hk
    · rw [if_pos hk]
      exact Memory.read_front (List.forall_mem_cons.mpr ⟨hk, fun y hy => hk.trans (hc y hy)⟩) b x
    · rw [if_neg (lt_irrefl a), if_pos rfl, Memory.read_front hc, Memory.read_cons]
      by_cases hx : x = a
      · rw [if_pos hx, if_pos hx]
      · rw [if_neg hx, if_neg hx, if_neg (Ne.symm hx)]
    · rw [if_neg (by omega), if_neg (by omega), Memory.read_cons, Memory.read_cons, ih hm]
      by_cases hx : k = x
      · rw [if_pos hx, if_pos hx, if_neg (by omega)]
      · rw [if_neg hx, if_neg hx]

/-- Memories whose first entries differ in their address do not read alike. -/
theorem Memory.head_le {e : Nat} {c d : Host.Cell} {m n : List Host.Cell} (hm : Memory.wf e (c :: m)) (hn : Memory.rising (d :: n) = true)
    (h : ∀ a, Memory.read e (c :: m) a = Memory.read e (d :: n) a) : d.1 ≤ c.1 := by
  by_contra hlt
  have hd := (Memory.rising_cons.mp hn).1
  have hc := h c.1
  rw [Memory.read_cons, if_pos rfl, Memory.read_of_lt
    (List.forall_mem_cons.mpr ⟨by omega, fun y hy => (by omega : c.1 < d.1).trans (hd y hy)⟩)] at hc
  exact hm.2 c List.mem_cons_self hc

/-- A canonical memory that reads as the empty one is empty. -/
theorem Memory.eq_nil_of_read {e : Nat} {m : List Host.Cell} (hm : Memory.wf e m) (h : ∀ a, Memory.read e m a = Memory.unlisted e a) :
    m = [] := by
  cases m with
  | nil => rfl
  | cons c m => exact absurd (by rw [← h c.1, Memory.read_cons, if_pos rfl]) (hm.2 c List.mem_cons_self)

theorem Memory.wf_tail {e : Nat} {c : Host.Cell} {m : List Host.Cell} (h : Memory.wf e (c :: m)) : Memory.wf e m :=
  ⟨(Memory.rising_cons.mp h.1).2, fun x hx => h.2 x (List.mem_cons_of_mem _ hx)⟩

/-- Canonical memories that read alike are equal. -/
theorem Memory.eq_of_read_eq {e : Nat} {m n : List Host.Cell} (hm : Memory.wf e m) (hn : Memory.wf e n)
    (h : ∀ a, Memory.read e m a = Memory.read e n a) : m = n := by
  induction m generalizing n with
  | nil => exact (Memory.eq_nil_of_read hn fun a => (h a).symm).symm
  | cons c m ih =>
    cases n with
    | nil => exact Memory.eq_nil_of_read hm h
    | cons d n =>
      have hk : c.1 = d.1 := le_antisymm (Memory.head_le hn hm.1 fun a => (h a).symm) (Memory.head_le hm hn.1 h)
      have hv : c.2 = d.2 := by simpa [Memory.read_cons, hk] using h d.1
      refine congrArg₂ _ (Prod.ext hk hv) (ih (Memory.wf_tail hm) (Memory.wf_tail hn) fun a => ?_)
      by_cases ha : c.1 = a
      · rw [Memory.read_of_lt fun y hy => ha ▸ (Memory.rising_cons.mp hm.1).1 y hy,
          Memory.read_of_lt fun y hy => ha ▸ hk ▸ (Memory.rising_cons.mp hn.1).1 y hy]
      · simpa [Memory.read_cons, ha, hk ▸ ha] using h a

/-- Settles O53, by the recursion of a write and by comparing the first entries of two canonical memories. -/
theorem memoryReadsBackWrites : Obligations.MemoryReadsBackWrites := by
  unfold Obligations.MemoryReadsBackWrites
  intro e m n hm hn
  refine ⟨fun a b => ⟨?_, fun x hx => ?_⟩, Memory.eq_of_read_eq hm hn⟩
  · rw [Memory.read_write hm.1, if_pos rfl]
  · rw [Memory.read_write hm.1, if_neg hx]

/-! #### Words and reset -/

/-- Settles O42: each word is decoded. -/
theorem encodedWordsDecode : Obligations.EncodedWordsDecode := by
  unfold Obligations.EncodedWordsDecode
  exact ⟨by decide, by decide, by decide, by decide, by decide, by decide, by decide, by decide, by decide, by decide⟩

/-- Settles O55: the fields of State.reset, and its empty memory. -/
theorem resetState : Obligations.ResetState := by
  unfold Obligations.ResetState
  refine ⟨State.reset_memory_wf, rfl, rfl, rfl, ?_, ?_, rfl, rfl, rfl, rfl, rfl, rfl, rfl⟩
  · decide
  · intro k hk
    simp only [getCore, State.reset, List.getD_eq_getElem?_getD, List.getElem?_map, List.getElem?_range hk]
    exact ⟨rfl, rfl⟩

/-! #### The return from the handler -/

theorem sendRequests_exec (s : State) (o : Op) (m : Mask) : (sendRequests s o m).exec = s.exec := by rw [sendRequests_frame]

theorem sendAgain_exec (s : State) (o : Op) : (sendAgain s o).exec = s.exec := by
  unfold sendAgain
  split <;> exact sendRequests_exec _ _ _

/-- A fold whose every step leaves the groups leaves them. -/
theorem foldl_groups {α : Type} {f : State → α → State} (hf : ∀ s x, (f s x).exec.groups = s.exec.groups)
    (l : List α) (s : State) :
    (l.foldl f s).exec.groups = s.exec.groups := by
  induction l generalizing s with
  | nil => rfl
  | cons x l ih => rw [List.foldl_cons, ih, hf]

theorem sendRget_groups (s : State) (o : Op) (m : Mask) : (sendRget s o m).exec.groups = s.exec.groups := by
  unfold sendRget
  split
  · rfl
  · refine foldl_groups (fun s p => ?_) _ _
    split <;> rfl

theorem findGroup_congr {s t : State} (h : t.exec.groups = s.exec.groups) (gid : Nat) : findGroup t gid = findGroup s gid := by
  unfold findGroup; rw [h]

/-- A path of a group with one path changed. -/
theorem Group.path_modify (g : Group) (e x : Nat) (f : Path → Path) (he : e < g.paths.length) :
    ({ g with paths := g.paths.modify e f } : Group).path x = if e = x then f (g.path x) else g.path x := by
  unfold Group.path
  rcases lt_or_ge x g.paths.length with hx | hx
  · rw [List.getD_eq_getElem _ _ (by simpa using hx), List.getD_eq_getElem _ _ hx, List.getElem_modify]
  · rw [if_neg (by omega), List.getD_eq_default _ _ (by simpa using hx), List.getD_eq_default _ _ hx]

/-- What the handler's return makes of its group. -/
def returnedGroup (e : Nat) (g : Group) : Group :=
  let press : Bool := g.trap.cause.extractLsb' 8 2 == 3
  { g with paths := g.paths.modify e fun p => { p with exec := g.trap.exec &&& p.lanes, pc := g.trap.epc, st := .ready },
           sup := none, pressCause := if press then none else g.pressCause, poison := none }

theorem findGroup_returnFromTrap {s : State} {gid : Nat} (e : Nat) {g : Group} (h : findGroup s gid = some g) :
    findGroup (returnFromTrap s gid e) gid = some (returnedGroup e g) := by
  unfold returnFromTrap
  simp only [h]
  have key : ∀ t : State, t.exec.groups =
      (updPath s gid e fun p => { p with exec := g.trap.exec &&& p.lanes, pc := g.trap.epc, st := .ready }).exec.groups →
      findGroup t gid = some { g with paths := g.paths.modify e fun p =>
          { p with exec := g.trap.exec &&& p.lanes, pc := g.trap.epc, st := .ready } } := by
    intro t ht
    rw [findGroup_congr ht, findGroup_updPath, h, Option.map_some, if_pos rfl]
  have hf (l : List Op) (t : State) : (l.foldl (fun s o => sendRget (sendAgain s o) o o.faulted) t).exec.groups = t.exec.groups :=
    foldl_groups (fun s o => by rw [sendRget_groups, sendAgain_exec]) l t
  rw [findGroup_updGroup, key]
  · rw [Option.map_some, if_pos rfl]; rfl
  · split
    · split <;> exact hf _ _
    · exact hf _ _
  · exact fun _ => rfl

/-- Settles O57: what is sent again leaves the groups, so the group is the returned one. -/
theorem trapReturn : Obligations.TrapReturn := by
  unfold Obligations.TrapReturn
  intro s gid e g hg he
  have hp : (returnedGroup e g).path e = { g.path e with exec := g.trap.exec &&& (g.path e).lanes, pc := g.trap.epc, st := .ready } :=
    (g.path_modify e e _ he).trans (if_pos rfl)
  refine ⟨_, findGroup_returnFromTrap e hg, rfl, by rw [hp], by rw [hp], by rw [hp], by rw [hp], rfl, rfl, rfl, rfl, fun x hx => ?_⟩
  exact (g.path_modify e x _ he).trans (if_neg (Ne.symm hx))

/-! #### The end of a run drops the path's delayed pop -/

/-- An execute group at the last slot of its run, with the record of a delayed pop in its paths (R44). -/
def poppedDemo : State :=
  Sys2Proof.Tests.demoG 0 1 (.vadd Sys2Proof.Tests.vecWord) fun g => { g with paths := g.paths.map fun p => { p with popSince := some 0 } }

/-- What that state shows: the record is in the path before the word, and in no path of its group after it. -/
def popDropped (sl : Slot) (t : State) : Bool :=
  decide (sl.p.popSince = some 0) && (findGroup t sl.g.gid).all fun u => decide ((u.path sl.run.entry).popSince = none)

theorem not_samePath_of_popDropped {t : State} {sl : Slot} {u : Group} (h : popDropped sl t = true)
    (hu : findGroup t sl.g.gid = some u) : ¬ SamePath sl.p (u.path sl.run.entry) := by
  intro hs
  simp only [popDropped, hu, Bool.and_eq_true, decide_eq_true_eq, Option.all_some] at h
  have := congrArg Path.popSince hs
  rw [h.2, h.1] at this
  cases this

theorem poppedDemo_meets : Sys2Proof.Tests.meets poppedDemo (.vadd Sys2Proof.Tests.vecWord) (fun sl =>
    Sys2Proof.Tests.quiet poppedDemo sl &&
    popDropped sl (finishRun poppedDemo sl (nextPc sl.pc)) &&
    match exec (.vadd Sys2Proof.Tests.vecWord) poppedDemo with
    | .next t => popDropped sl t
    | _ => false) = true := by decide +kernel
/-- Refutes O49: in that state the end of the run drops the record of the delayed pop, which is neither the path's PC nor its state. -/
theorem not_endOfRunFrame : ¬ Obligations.EndOfRunFrame := by
  unfold Obligations.EndOfRunFrame
  intro h
  obtain ⟨sl, ⟨hs, -⟩, hm⟩ := Sys2Proof.Tests.meets_issues poppedDemo_meets
  simp only [Bool.and_eq_true] at hm
  obtain ⟨⟨hq, hp⟩, -⟩ := hm
  obtain ⟨-, -, -, -, -, -, -, u, hu, -, -, -, -, -, hsp, -⟩ := h poppedDemo sl (nextPc sl.pc) hs (Sys2Proof.Tests.quiet_end hq)
  exact not_samePath_of_popDropped hp hu hsp

/-- Refutes O48: at the last slot of its run VADD drops the record of a delayed pop, which is neither its path's PC nor its state. -/
theorem not_registerWordFrame : ¬ Obligations.RegisterWordFrame := by
  unfold Obligations.RegisterWordFrame
  intro h
  obtain ⟨sl, hi, hm⟩ := Sys2Proof.Tests.meets_issues poppedDemo_meets
  simp only [Bool.and_eq_true] at hm
  obtain ⟨⟨hq, -⟩, hp⟩ := hm
  split at hp
  · rename_i t ht
    obtain ⟨-, -, -, -, -, -, u, hu, -, -, -, -, -, hsp⟩ :=
      h _ poppedDemo sl t (by decide) hi (fun _ => Sys2Proof.Tests.quiet_end hq) ht
    exact not_samePath_of_popDropped hp hu hsp
  · cases hp

end Sys2Proof.Machine
end

section
/-!
### Memory's canonical form is kept by every step

One lemma per operation of the model, in its order: the operation keeps the canonical form. `Keeps` says it of an outcome, and also that
the outcome is no fault.
-/
namespace Sys2Proof.Machine
open Sys2Proof.Safety

-- The many short lemmas below are elaborated in turn: elaborated at once, each waiting one would hold a thread and its stack.
set_option Elab.async false

/-- An outcome of `s` is no fault, and its next state is canonical when `s` is. -/
inductive Keeps (s : State) : Host.Outcome State Fault Refusal → Prop
  | next {t : State} (h : MemoryCanonical s → MemoryCanonical t) : Keeps s (.next t)
  | refused (r : Refusal) : Keeps s (.refused r)

/-- The state that an instruction's act leaves is canonical. -/
inductive ActWf : Act → Prop
  | done {t : State} (h : MemoryCanonical t) : ActWf (.done t)
  | wait {t : State} (h : MemoryCanonical t) : ActWf (.wait t)
  | cause {t : State} {c : Cause} (h : MemoryCanonical t) : ActWf (.cause t c)
  | goto {t : State} {p : Dword} (h : MemoryCanonical t) : ActWf (.goto t p)
  | jump {t : State} {p : Dword} (h : MemoryCanonical t) : ActWf (.jump t p)
  | leave {t : State} (h : MemoryCanonical t) : ActWf (.leave t)
  | park {t : State} (h : MemoryCanonical t) : ActWf (.park t)
  | stall : ActWf .stall

/-- The state that a Press command's act leaves is canonical. -/
inductive PActWf : PAct → Prop
  | done {t : State} (h : MemoryCanonical t) : PActWf (.done t)
  | stall {t : State} (h : MemoryCanonical t) : PActWf (.stall t)
  | wait : PActWf .wait
  | cause {code : Nat} : PActWf (.cause code)
  | goto {t : State} {p : Dword} (h : MemoryCanonical t) : PActWf (.goto t p)
  | ended {t : State} (h : MemoryCanonical t) : PActWf (.ended t)

variable {s t : State}

theorem mk_wf {tick : Nat} {issuer : Option (Nat × Nat)} {agenda : List Instr} {turn : Nat} {fabric : Fabric}
    {host : HostSide} {memory : MemSide} {exec : Exec} {ctxs : List Ctx} {cores : List Core} (h : MemoryCanonical s) :
    MemoryCanonical ⟨s.mem, tick, issuer, agenda, turn, s.mysko, fabric, host, memory, exec, ctxs, cores⟩ := h

/-- A change of Mysko that leaves the epoch of the undefined memory. -/
theorem State.onMysko_wf {f : Mysko → Mysko} (h : MemoryCanonical s)
    (hf : ∀ m, (f m).serviceEpoch = m.serviceEpoch := by intro _; rfl) : MemoryCanonical (s.onMysko f) := by
  unfold MemoryCanonical at *
  rw [State.onMysko_mysko, hf]
  exact h

theorem State.onMemory_wf {f : MemSide → MemSide} (h : MemoryCanonical s) : MemoryCanonical (s.onMemory f) := h

/-! #### The operations of Machine/Ops -/

theorem State.onExec_wf {f : Exec → Exec} (h : MemoryCanonical s) : MemoryCanonical (State.onExec s f) := h
theorem State.onFabric_wf {f : Fabric → Fabric} (h : MemoryCanonical s) : MemoryCanonical (State.onFabric s f) := h
theorem State.onHost_wf {f : HostSide → HostSide} (h : MemoryCanonical s) : MemoryCanonical (State.onHost s f) := h
theorem updGroup_wf {gid : Nat} {f : Group → Group} (h : MemoryCanonical s) : MemoryCanonical (updGroup s gid f) := h
theorem updPair_wf {id : Nat} {f : Pair → Pair} (h : MemoryCanonical s) : MemoryCanonical (updPair s id f) := h
theorem updCohort_wf {id : Nat} {f : Cohort → Cohort} (h : MemoryCanonical s) : MemoryCanonical (updCohort s id f) := h
theorem updOp_wf {id : Nat} {f : Op → Op} (h : MemoryCanonical s) : MemoryCanonical (updOp s id f) := h
theorem updLaunch_wf {id : Nat} {f : Launch → Launch} (h : MemoryCanonical s) : MemoryCanonical (updLaunch s id f) := h
theorem updPress_wf {core num : Nat} {f : PressCtx → PressCtx} (h : MemoryCanonical s) : MemoryCanonical (updPress s core num f) := h
theorem updRun_wf {core unit : Nat} {f : Run → Run} (h : MemoryCanonical s) : MemoryCanonical (updRun s core unit f) := h
theorem dropRun_wf {core unit : Nat} (h : MemoryCanonical s) : MemoryCanonical (dropRun s core unit) := h
theorem updCtx_wf {c : Nat} {f : Ctx → Ctx} (h : MemoryCanonical s) : MemoryCanonical (updCtx s c f) := h
theorem updCore_wf {c : Nat} {f : Core → Core} (h : MemoryCanonical s) : MemoryCanonical (updCore s c f) := h
theorem dropOp_wf {id : Nat} (h : MemoryCanonical s) : MemoryCanonical (dropOp s id) := h
theorem addOp_wf {o : Op} (h : MemoryCanonical s) : MemoryCanonical (addOp s o) := h

theorem fresh_wf {x : Nat} (h : MemoryCanonical s) (e : fresh s = (x, t)) : MemoryCanonical t := by
  unfold fresh at e
  cases e; exact State.onExec_wf h

theorem updPath_wf {gid entry : Nat} {f : Path → Path} (h : MemoryCanonical s) : MemoryCanonical (updPath s gid entry f) := h

theorem sendMsix_wf {v : Nat} (h : MemoryCanonical s) : MemoryCanonical (sendMsix s v) := by
  unfold sendMsix
  split <;> exact State.onHost_wf h

theorem setEvent_wf {bit : Nat} (h : MemoryCanonical s) : MemoryCanonical (setEvent s bit) := sendMsix_wf (State.onMysko_wf h)

theorem faultRecord_wf {c : Nat} {r : FaultRec} (h : MemoryCanonical s) : MemoryCanonical (faultRecord s c r) := by
  unfold faultRecord
  dsimp only
  split
  · exact physWrite_wf _ _ h
  · split
    · exact sendMsix_wf (physWrite_wf _ _ (physWrite_wf _ _ h))
    · exact physWrite_wf _ _ (physWrite_wf _ _ h)

theorem errorRecord_wf {cls kind unit ctx : Nat} {addr : Dword} {struct : Nat} (h : MemoryCanonical s) :
    MemoryCanonical (errorRecord s cls kind unit ctx addr struct) := by
  unfold errorRecord
  exact setEvent_wf (State.onMysko_wf h (fun m => by split <;> rfl))

theorem recallForLoad_wf {c line : Nat} {keep : Option Nat} (h : MemoryCanonical s) : MemoryCanonical (recallForLoad s c line keep) := by
  unfold recallForLoad
  dsimp only
  exact State.onMemory_wf (recallOwned_wf _ _ _ (recallOwned_wf _ _ _ h))

theorem touchLine_wf {c line party : Nat} (h : MemoryCanonical s) : MemoryCanonical (touchLine s c line party) := by
  unfold touchLine
  dsimp only
  exact State.onMemory_wf h

theorem walked_wf {c off : Nat} (h : MemoryCanonical s) : MemoryCanonical (walked s c off) := by
  unfold walked
  split
  · exact translateAnew_wf h ‹_›
  · exact walkLines_wf _ _ h

theorem refusedWalk_wf {c : Nat} {a : Dword} (h : MemoryCanonical s) : MemoryCanonical (refusedWalk s c a) := by
  unfold refusedWalk
  dsimp only
  split
  · exact h
  · split
    · exact walked_wf h
    · split
      · exact walked_wf (translate_wf h ‹_›)
      · exact walkLines_wf _ _ h

theorem snoop_wf {c off n : Nat} {keep : Option Nat} (h : MemoryCanonical s) : MemoryCanonical (snoop s c off n keep) := by
  unfold snoop
  dsimp only
  split
  · exact l1Recall_wf _ _ _ (l1Recall_wf _ _ _ h)
  · exact l1Recall_wf _ _ _ (l1Recall_wf _ _ _ (l1Recall_wf _ _ _ (l1Recall_wf _ _ _ h)))

theorem homeStore_wf {c off : Nat} {bs : List Byte} {party : Nat} (h : MemoryCanonical s) (e : homeStore s c off bs party = .ok t) :
    MemoryCanonical t := by
  unfold homeStore at e
  split at e
  · cases e
  · split at e
    · cases e
    · cases e
      exact foldl_wf (fun _ _ h => touchLine_wf h) _ (storeBytes_wf (snoop_wf (canWrite_wf h ‹_›)) ‹_›)

theorem spadWrite_wf {core : Nat} {o : PlaceSrc} {mode a : Nat} {bs : List Byte} (h : MemoryCanonical s) :
    MemoryCanonical (spadWrite s core o mode a bs) := by
  unfold spadWrite
  dsimp only
  exact State.onExec_wf h

theorem spadPut_wf {k : Nat} {own : PlaceSrc} {mode off : Nat} {bs : List Byte} (h : MemoryCanonical s) :
    MemoryCanonical (spadPut s k own mode off bs) := by
  unfold spadPut
  dsimp only
  split
  · exact foldl_wf (fun _ _ h => physWriteByte_wf _ _ h) _ (spadWrite_wf h)
  · exact spadWrite_wf h

theorem updSched_wf {core unit : Nat} {f : UnitSched → UnitSched} (h : MemoryCanonical s) : MemoryCanonical (updSched s core unit f) := h
theorem ocRaise_wf {gid : Nat} {c : OcClass} (h : MemoryCanonical s) : MemoryCanonical (ocRaise s gid c) := h
theorem ocLower_wf {gid : Nat} {c : OcClass} (h : MemoryCanonical s) : MemoryCanonical (ocLower s gid c) := h
theorem lateGone_wf (h : MemoryCanonical s) : MemoryCanonical (lateGone s) := h

theorem circleLeave_wf {gid c : Nat} {key : Word} (h : MemoryCanonical s) : MemoryCanonical (circleLeave s gid c key) := by
  unfold circleLeave
  dsimp only
  refine updGroup_wf (lateGone_wf ?_)
  split <;> exact State.onExec_wf h

theorem leaveCircles_wf {gid : Nat} (h : MemoryCanonical s) : MemoryCanonical (leaveCircles s gid) := by
  unfold leaveCircles
  split
  · exact foldl_wf (fun _ _ h => circleLeave_wf h) _ h
  · exact h

theorem updQueue_wf {pair q : Nat} {f : Queue → Queue} (h : MemoryCanonical s) : MemoryCanonical (updQueue s pair q f) := h

theorem pressOrphan_wf {core num : Nat} (h : MemoryCanonical s) : MemoryCanonical (pressOrphan s core num) := by
  unfold pressOrphan
  split
  · exact h
  · dsimp only
    split
    · exact faultRecord_wf (updPress_wf h)
    · exact updPress_wf h

theorem joinReplay_wf {id : Nat} {lanes : Mask} {entry : Nat} (h : MemoryCanonical s) : MemoryCanonical (joinReplay s id lanes entry) := h

theorem settleClass_wf {gid : Nat} {c : OcClass} (h : MemoryCanonical s) : MemoryCanonical (settleClass s gid c) := by
  unfold settleClass
  dsimp only
  exact foldl_wf (fun _ _ h => ocLower_wf (dropOp_wf h)) _ h

theorem finishOp_wf {id : Nat} (h : MemoryCanonical s) : MemoryCanonical (finishOp s id) := by
  unfold finishOp
  split
  · exact h
  · split
    · exact h
    · split
      · exact dropOp_wf h
      · exact settleClass_wf h

theorem settleAll_wf {gid : Nat} (h : MemoryCanonical s) : MemoryCanonical (settleAll s gid) := foldl_wf (fun _ _ h => settleClass_wf h) _ h

theorem discardOps_wf {gone : List Op} (h : MemoryCanonical s) : MemoryCanonical (discardOps s gone) := by
  unfold discardOps
  dsimp only
  refine State.onExec_wf (foldl_wf (fun _ _ h => ?_) _ h)
  split
  · exact ocLower_wf h
  · exact h

theorem discardFaulted_wf {gid : Nat} {p : Op → Bool} (h : MemoryCanonical s) : MemoryCanonical (discardFaulted s gid p) := by
  unfold discardFaulted
  dsimp only
  exact settleAll_wf (State.onExec_wf (discardOps_wf h))

theorem refuseHeld_wf {o : Op} (h : MemoryCanonical s) : MemoryCanonical (refuseHeld s o) := by
  unfold refuseHeld
  split
  · split
    · exact updOp_wf h
    · exact h
  · split
    · exact h
    · dsimp only
      exact updOp_wf h
  · dsimp only
    split
    · exact h
    · exact joinReplay_wf h

theorem discardEnded_wf {gid : Nat} {p : Op → Bool} (h : MemoryCanonical s) : MemoryCanonical (discardEnded s gid p) := by
  unfold discardEnded
  dsimp only
  exact discardFaulted_wf (discardOps_wf (foldl_wf (fun _ _ h => refuseHeld_wf h) _ h))

theorem groupEnd_wf {gid : Nat} (h : MemoryCanonical s) : MemoryCanonical (groupEnd s gid) := by
  unfold groupEnd
  split
  · exact h
  · dsimp only
    refine updGroup_wf ?_
    split
    · split
      · refine updPress_wf (updPair_wf (State.onExec_wf (lateGone_wf ?_)))
        split
        · exact discardEnded_wf (leaveCircles_wf h)
        · exact discardFaulted_wf (leaveCircles_wf h)
      · refine pressOrphan_wf (updPair_wf (State.onExec_wf (lateGone_wf ?_)))
        split
        · exact discardEnded_wf (leaveCircles_wf h)
        · exact discardFaulted_wf (leaveCircles_wf h)
    · refine updPair_wf (State.onExec_wf (lateGone_wf ?_))
      split
      · exact discardEnded_wf (leaveCircles_wf h)
      · exact discardFaulted_wf (leaveCircles_wf h)

theorem takeTrap_wf {gid entry : Nat} {causes : List Cause} {saved : Dword} (h : MemoryCanonical s) :
    MemoryCanonical (takeTrap s gid entry causes saved) := by
  unfold takeTrap
  split
  · dsimp only
    split
    · exact groupEnd_wf (updGroup_wf (faultRecord_wf h))
    · split
      · exact groupEnd_wf (updGroup_wf (faultRecord_wf h))
      · split
        · exact groupEnd_wf (updGroup_wf (faultRecord_wf h))
        · rename_i u d hu
          have hw : MemoryCanonical u := by
            split at hu
            · exact fetchLine_wf h hu
            · cases hu
          split
          · exact groupEnd_wf (updGroup_wf (faultRecord_wf hw))
          · refine updPath_wf (updGroup_wf ?_)
            split
            · exact hw
            · exact hw
  · exact h

theorem flitsOn_wf {peer set n : Nat} {relaxed : Bool} (h : MemoryCanonical s) : MemoryCanonical (flitsOn s peer set n relaxed) := h

theorem linkSend_wf {c peer line channel n : Nat} (h : MemoryCanonical s) : MemoryCanonical (linkSend s c peer line channel n) := by
  unfold linkSend
  split
  · exact h
  · split
    · exact h
    · dsimp only
      split
      · split
        · exact State.onFabric_wf h
        · exact flitsOn_wf (assayAdd_wf _ _ _ h)
      · exact flitsOn_wf (assayAdd_wf _ _ _ h)

theorem sendOut_wf {peer kind : Nat} {words : List Nat} (h : MemoryCanonical s) : MemoryCanonical (sendOut s peer kind words) := h

theorem leaseOut_wf {peer kind : Nat} {words : List Nat} (h : MemoryCanonical s) : MemoryCanonical (leaseOut s peer kind words) := by
  unfold leaseOut
  refine sendOut_wf ?_
  split
  · exact h
  · exact flitsOn_wf h

theorem sendRget_wf {o : Op} {m : Mask} (h : MemoryCanonical s) : MemoryCanonical (sendRget s o m) := by
  unfold sendRget
  split
  · exact h
  · dsimp only
    refine foldl_wf (fun _ _ h => ?_) _ h
    split
    · exact sendOut_wf h
    · exact updOp_wf h

theorem sendRequests_wf {o : Op} {lanes : Mask} (h : MemoryCanonical s) :
    MemoryCanonical (sendRequests s o lanes) := foldl_wf (fun _ _ h => sendOut_wf (linkSend_wf h)) _ h

theorem sendAgain_wf {o : Op} (h : MemoryCanonical s) : MemoryCanonical (sendAgain s o) := by
  unfold sendAgain
  split <;> exact sendRequests_wf h

theorem returnFromTrap_wf {gid entry : Nat} (h : MemoryCanonical s) : MemoryCanonical (returnFromTrap s gid entry) := by
  unfold returnFromTrap
  split
  · exact h
  · dsimp only
    refine updGroup_wf ?_
    split
    · split
      · exact updPress_wf (State.onMysko_wf (foldl_wf (fun _ _ h => sendRget_wf (sendAgain_wf h)) _ (updPair_wf (State.onExec_wf
          (updPath_wf h)))))
      · exact State.onMysko_wf (foldl_wf (fun _ _ h => sendRget_wf (sendAgain_wf h)) _ (updPair_wf (State.onExec_wf (updPath_wf h))))
    · exact State.onMysko_wf (foldl_wf (fun _ _ h => sendRget_wf (sendAgain_wf h)) _ (updPair_wf (State.onExec_wf (updPath_wf h))))

/-! #### The operations of Machine/Operands -/

theorem popQueue_wf {pair q : Nat} (h : MemoryCanonical s) : MemoryCanonical (popQueue s pair q) := by
  unfold popQueue
  split
  · exact h
  · split
    · exact h
    · dsimp only
      split
      · exact updQueue_wf h
      · refine updPair_wf ?_
        split
        · exact dropOp_wf (updQueue_wf h)
        · exact updQueue_wf h

theorem popPorts_wf {sl : Slot} {ports : List Nat} (h : MemoryCanonical s) :
    MemoryCanonical (popPorts s sl ports) := foldl_wf (fun _ _ h => popQueue_wf h) _ h

theorem pushReady_wf {gid pair q : Nat} {vals : Lanes} (h : MemoryCanonical s) : MemoryCanonical (pushReady s gid pair q vals) := by
  unfold pushReady
  split
  exact updQueue_wf (fresh_wf h ‹_›)

theorem pushFilling_wf {pair q : Nat} {wait : Mask} {x : Nat} (h : MemoryCanonical s) (e : pushFilling s pair q wait = (t, x)) :
    MemoryCanonical t := by
  unfold pushFilling at e
  split at e
  cases e; exact updQueue_wf (fresh_wf h ‹_›)

theorem capture_wf {sl : Slot} {cap : BitVec 2} {v : Lanes} (h : MemoryCanonical s) : MemoryCanonical (capture s sl cap v) := by
  unfold capture
  split
  · exact h
  · exact updRun_wf h

theorem writeVec_wf {sl : Slot} {d : Dst} {eff : Mask} {v : Lanes} (h : MemoryCanonical s) : MemoryCanonical (writeVec s sl d eff v) := by
  unfold writeVec
  dsimp only
  split
  · exact pushReady_wf (capture_wf h)
  · split
    · exact capture_wf h
    · exact updGroup_wf (capture_wf h)

theorem writePredLanes_wf {sl : Slot} {d : Dst} {eff : Mask} {v : Mask} (h : MemoryCanonical s) :
    MemoryCanonical (writePredLanes s sl d eff v) := by
  unfold writePredLanes
  split
  · exact h
  · exact updGroup_wf h

theorem writePred_wf {sl : Slot} {d : Dst} {v : Mask} (h : MemoryCanonical s) : MemoryCanonical (writePred s sl d v) := by
  unfold writePred
  split
  · exact h
  · exact updGroup_wf h

theorem writeUni_wf {sl : Slot} {d : Dst} {v : Word} (h : MemoryCanonical s) : MemoryCanonical (writeUni s sl d v) := by
  unfold writeUni
  dsimp only
  split
  · exact capture_wf h
  · exact updGroup_wf (capture_wf h)

theorem writePair_wf {sl : Slot} {d : Dst} {v : Dword} (h : MemoryCanonical s) : MemoryCanonical (writePair s sl d v) := by
  unfold writePair
  dsimp only
  split
  · exact capture_wf h
  · exact updGroup_wf (capture_wf h)

/-! #### The operations of Machine/RunCheck -/

theorem gather_wf {core c n : Nat} {pc : Dword} (h : MemoryCanonical s) : MemoryCanonical (gather s core c n pc).1 := by
  induction n generalizing s pc with
  | zero => exact h
  | succ n ih =>
    unfold gather
    split
    · exact h
    · rename_i u d hu
      dsimp only
      split
      · exact fetchLine_wf h hu
      · exact ih (fetchLine_wf h hu)

theorem gatherFix_wf {core c n : Nat} {head : Dword} {tried : List Nat} (h : MemoryCanonical s) :
    MemoryCanonical (gatherFix core c head n tried s).2.1 := by
  induction n generalizing s tried with
  | zero => exact gather_wf h
  | succ n ih =>
    unfold gatherFix
    dsimp only
    split
    · exact gather_wf h
    · exact ih (gather_wf h : MemoryCanonical (gather s core c 24 head).1)

theorem noteRefetch_wf {core c : Nat} {rs : List RawSlot} {a : Nat} (h : MemoryCanonical s) :
    MemoryCanonical (noteRefetch core c rs s a) := by
  unfold noteRefetch
  dsimp only
  exact errorRecord_wf h

theorem gatherRun_wf {core c : Nat} {head : Dword} {x : List RawSlot × Bool × Option (Miss × Dword)}
    (h : MemoryCanonical s) (e : gatherRun s core c head = (t, x)) : MemoryCanonical t := by
  cases e
  exact foldl_wf (fun _ _ h => noteRefetch_wf h) _ (gatherFix_wf h)

theorem fetchRun_wf {g : Group} {pr : Pair} {entry : Nat} {head : Dword} {x : FetchResult} (h : MemoryCanonical s)
    (e : fetchRun s g pr entry head = (t, x)) :
    MemoryCanonical t := by
  unfold fetchRun at e
  split at e
  dsimp only at e
  cases e; exact gatherRun_wf h ‹_›

theorem fetchPressRun_wf {core c launch : Nat} {head : Dword} {x : FetchResult} (h : MemoryCanonical s)
    (e : fetchPressRun s core c launch head = (t, x)) :
    MemoryCanonical t := by
  unfold fetchPressRun at e
  split at e
  dsimp only at e
  cases e; exact gatherRun_wf h ‹_›

/-! #### The operations of Machine/Issue -/

theorem stopRecord_wf {c group stream : Nat} {pc : Dword} {n : Nat} (h : MemoryCanonical s) :
    MemoryCanonical (stopRecord s c group stream pc n) := by
  unfold stopRecord
  dsimp only
  exact setEvent_wf (updCtx_wf (physWrite_wf _ _ h))

theorem debugStop_wf {gid entry n : Nat} {pc : Dword} (h : MemoryCanonical s) : MemoryCanonical (debugStop s gid entry n pc) := by
  unfold debugStop
  split
  · exact h
  · dsimp only
    exact stopRecord_wf (updPath_wf h)

theorem atBoundary_wf {gid entry : Nat} (h : MemoryCanonical s) : MemoryCanonical (atBoundary s gid entry) := by
  unfold atBoundary
  split
  · exact h
  · split
    · exact h
    · dsimp only
      split
      · exact takeTrap_wf (updGroup_wf h)
      · split
        · exact h
        · exact updPath_wf h

theorem raiseAt_wf {gid entry : Nat} {causes : List Cause} (h : MemoryCanonical s) :
    MemoryCanonical (raiseAt s gid entry causes) := atBoundary_wf (updGroup_wf h)

theorem freeUnit_wf {core unit : Nat} (h : MemoryCanonical s) : MemoryCanonical (freeUnit s core unit) := by
  unfold freeUnit
  dsimp only
  split
  · exact mk_wf (dropRun_wf h)
  · exact dropRun_wf h

theorem stopIfAsked_wf {gid entry : Nat} (h : MemoryCanonical s) : MemoryCanonical (stopIfAsked s gid entry) := by
  unfold stopIfAsked
  split
  · exact h
  · split
    · exact debugStop_wf h
    · exact h

theorem finishRun_wf {sl : Slot} {next : Dword} (h : MemoryCanonical s) : MemoryCanonical (finishRun s sl next) := by
  unfold finishRun
  dsimp only
  split
  · exact groupEnd_wf (updPath_wf (freeUnit_wf h))
  · split
    · refine debugStop_wf ?_
      split
      · exact atBoundary_wf (updPath_wf (freeUnit_wf h))
      · exact raiseAt_wf (updPath_wf (freeUnit_wf h))
    · refine stopIfAsked_wf ?_
      split
      · exact atBoundary_wf (updPath_wf (freeUnit_wf h))
      · exact raiseAt_wf (updPath_wf (freeUnit_wf h))

theorem headWaits_wf {sl : Slot} (h : MemoryCanonical s) : MemoryCanonical (headWaits s sl) := by
  unfold headWaits
  dsimp only
  exact stopIfAsked_wf (updPath_wf (freeUnit_wf h))

theorem preciseTrap_wf {sl : Slot} {c : Cause} (h : MemoryCanonical s) : MemoryCanonical (preciseTrap s sl c) := by
  unfold preciseTrap
  dsimp only
  exact stopIfAsked_wf (raiseAt_wf (updPath_wf (freeUnit_wf h)))

theorem countIssue_wf {sl : Slot} {i : Instr} {cancelled : Bool} (h : MemoryCanonical s) :
    MemoryCanonical (countIssue s sl i cancelled) := by
  unfold countIssue
  dsimp only
  split
  · split
    · exact assayAdd_wf _ _ _ h
    · exact foldl_wf (fun _ _ h => assayAdd_wf _ _ _ h) _ (assayAdd_wf _ _ _ h)
  · exact assayAdd_wf _ _ _ h

theorem advance_wf {sl : Slot} (h : MemoryCanonical s) : MemoryCanonical (advance s sl) := by
  unfold advance
  split
  · exact finishRun_wf h
  · exact updRun_wf h

theorem noteCause_wf {sl : Slot} {c : Cause} (h : MemoryCanonical s) : MemoryCanonical (noteCause s sl c) := h

theorem badTargetTrap_wf {sl : Slot} {target : Dword} (h : MemoryCanonical s) : MemoryCanonical (badTargetTrap s sl target) := by
  unfold badTargetTrap
  dsimp only
  split
  · exact debugStop_wf (raiseAt_wf (updPath_wf (freeUnit_wf (noteCause_wf h))))
  · exact stopIfAsked_wf (raiseAt_wf (updPath_wf (freeUnit_wf (noteCause_wf h))))

theorem noteIssued_wf {sl : Slot} (h : MemoryCanonical s) : MemoryCanonical (noteIssued s sl) := by
  unfold noteIssued
  dsimp only
  exact State.onExec_wf h

theorem unissued_wf (h : MemoryCanonical t) : MemoryCanonical (unissued s t) := h

theorem settle_wf {sl : Slot} {i : Instr} {a : Act} (h : MemoryCanonical s) (ha : ActWf a) : MemoryCanonical (settle s sl i a) := by
  cases ha with
  | done ha => exact advance_wf (countIssue_wf ha)
  | wait ha => exact headWaits_wf (unissued_wf ha)
  | cause ha => exact advance_wf (noteCause_wf (countIssue_wf ha))
  | goto ha =>
    unfold settle
    dsimp only
    split
    · exact badTargetTrap_wf (noteIssued_wf h)
    · exact finishRun_wf (countIssue_wf ha)
  | jump ha => exact finishRun_wf (countIssue_wf ha)
  | leave ha => exact freeUnit_wf (countIssue_wf ha)
  | park ha => exact stopIfAsked_wf (freeUnit_wf (unissued_wf ha))
  | stall => exact mk_wf h

theorem poisonTrap_wf {sl : Slot} {e0 : Entry} {lanes : Mask} (h : MemoryCanonical s) :
    MemoryCanonical (poisonTrap s sl e0 lanes) := preciseTrap_wf h

theorem popWaits_wf {sl : Slot} (h : MemoryCanonical s) : MemoryCanonical (popWaits s sl) := by
  unfold popWaits
  dsimp only
  split
  · exact updSched_wf h
  · exact headWaits_wf (updPath_wf h)

theorem headGate_wf {sl : Slot} {i : Instr} (h : MemoryCanonical s) (e : headGate s sl i = some t) : MemoryCanonical t := by
  unfold headGate at e
  split at e
  · cases e
  · split at e
    · cases e; exact headWaits_wf h
    · split at e
      · cases e
      · split at e
        · cases e; exact headWaits_wf h
        · split at e
          · cases e; exact poisonTrap_wf h
          · split at e
            · cases e; exact popWaits_wf h
            · cases e

theorem startRun_wf {core unit gid entry : Nat} (h : MemoryCanonical s) : MemoryCanonical (startRun s core unit gid entry) := by
  unfold startRun
  split
  · exact h
  · split
    · exact h
    · dsimp only
      split
      · exact atBoundary_wf h
      · split
        · exact raiseAt_wf h
        · split
          · exact raiseAt_wf (fetchRun_wf (updPath_wf h) ‹_›)
          · exact mk_wf (updPath_wf (State.onExec_wf (fetchRun_wf (updPath_wf h) ‹_›)))

/-! #### The operations of Machine/MemIssue -/

theorem fenceAccesses_wf {gid : Nat} (h : MemoryCanonical s) : MemoryCanonical (fenceAccesses s gid) := by
  unfold fenceAccesses
  dsimp only
  exact updGroup_wf h

theorem fenceReads_wf {gid : Nat} (h : MemoryCanonical s) : MemoryCanonical (fenceReads s gid) := by
  unfold fenceReads
  dsimp only
  exact updGroup_wf h

theorem fenceReleases_wf {gid scope : Nat} (h : MemoryCanonical s) : MemoryCanonical (fenceReleases s gid scope) := by
  unfold fenceReleases
  dsimp only
  exact updGroup_wf h

theorem sendOp_wf {o : Op} (h : MemoryCanonical s) : MemoryCanonical (sendOp s o) := by
  unfold sendOp
  dsimp only
  split
  · refine updGroup_wf ?_
    split
    · exact ocRaise_wf (sendRequests_wf (addOp_wf (fresh_wf h rfl)))
    · exact sendRequests_wf (addOp_wf (fresh_wf h rfl))
  · split
    · exact ocRaise_wf (sendRequests_wf (addOp_wf (fresh_wf h rfl)))
    · exact sendRequests_wf (addOp_wf (fresh_wf h rfl))

theorem openDst_wf {sl : Slot} {d : Dst} {wait : Mask} {x : Dest} (h : MemoryCanonical s) (e : openDst s sl d wait = (t, x)) :
    MemoryCanonical t := by
  unfold openDst at e
  split at e
  · cases e; exact h
  · split at e
    · split at e
      cases e; exact capture_wf (pushFilling_wf h ‹_›)
    · cases e; exact h

theorem examine_wf (h : MemoryCanonical s) : MemoryCanonical (examine s) := h

/-! #### The operations of Machine/GlobalMem -/

theorem pendStore_wf {core : Nat} {o : Op} (h : MemoryCanonical s) : MemoryCanonical (pendStore s core o) := by
  unfold pendStore
  refine foldl_wf (fun _ _ h => ?_) _ h
  dsimp only
  split
  · exact State.onMemory_wf h
  · exact h

theorem loadAct_wf {f : FmtM} {k : OpKind} {eff : Mask} {addr fault : Nat → Dword} {bad remote : Mask} {sl : Slot} (h : MemoryCanonical s) :
    ActWf (loadAct f k eff addr fault bad remote s sl) := by
  unfold loadAct
  dsimp only
  split
  · exact .cause h
  · split
    · split
      · exact .stall
      · split
        · exact .done h
        · split
          · exact .done (openDst_wf h rfl)
          · exact .done (sendOp_wf (openDst_wf h rfl))
    · split
      · exact .stall
      · split
        · exact .done h
        · split
          · exact .done (openDst_wf h rfl)
          · exact .done (sendOp_wf (openDst_wf h rfl))

/-! #### The operations of Machine/Atomics -/

theorem atomicAct_wf {i : Instr} {major minor : Nat} {f : FmtM} {sl : Slot} (h : MemoryCanonical s) :
    ActWf (atomicAct i major minor f s sl) := by
  unfold atomicAct
  dsimp only
  split
  · exact .cause h
  · split
    · split
      · exact .stall
      · split
        · exact .done (popPorts_wf h)
        · exact .done (sendOp_wf (popPorts_wf h))
    · split
      · split
        · exact .stall
        · split
          · exact .done (popPorts_wf h)
          · exact .done (sendOp_wf (popPorts_wf h))
      · split
        · exact .stall
        · split
          · exact .done (popPorts_wf h)
          · exact .done (sendOp_wf (popPorts_wf h))

theorem cruxAct_wf {i : Instr} {f : FmtM} {k : OpKind} {a : Dword} {unit : Nat} {parts_ : List Dword} {none_ dst : Bool} {touched : Mask}
    {s : State} {sl : Slot} (h : MemoryCanonical s) : ActWf (cruxAct i f k a unit parts_ none_ dst touched s sl) := by
  have hp : MemoryCanonical (popPorts s sl (wordPorts i)) := popPorts_wf h
  unfold cruxAct
  dsimp only
  split
  · refine .done ?_
    split
    · exact openDst_wf hp rfl
    · exact hp
  · split
    · exact .cause h
    · split
      · exact .cause h
      · split
        · exact .stall
        · refine .done (sendOp_wf ?_)
          split
          · exact openDst_wf hp rfl
          · exact hp

/-! #### The operations of Machine/ScratchMem -/

theorem spadEnd_wf {sl : Slot} {bad : Mask} {addr : Nat → Int} (h : MemoryCanonical s) : ActWf (spadEnd s sl bad addr) := by
  unfold spadEnd
  split
  · exact .done h
  · exact .cause h

theorem spadLoadAct_wf {f : FmtM} {k : OpKind} {bad : Mask} {addr : Nat → Int} {sl : Slot} (h : MemoryCanonical s) :
    ActWf (spadLoadAct f k bad addr s sl) := by
  unfold spadLoadAct
  dsimp only
  split
  · exact .done (openDst_wf h rfl)
  · exact spadEnd_wf (sendOp_wf (openDst_wf h rfl))

/-! #### The operations of Machine/Sync -/

theorem armWatch_wf {sl : Slot} {w : Watch} (h : MemoryCanonical s) : ActWf (armWatch s sl w) := .wait (updPath_wf h)
theorem freeWatch_wf {sl : Slot} (h : MemoryCanonical s) : MemoryCanonical (freeWatch s sl) := h

theorem watchAct_wf {a : Int} {w : Nat → Watch} {done : State → Dword → State} {sl : Slot}
    (hd : ∀ s v, MemoryCanonical s → MemoryCanonical (done s v)) (h : MemoryCanonical s) : ActWf (watchAct a w done s sl) := by
  unfold watchAct
  split
  · exact .cause h
  · split
    · exact .done (hd _ _ (freeWatch_wf h))
    · split
      · exact .wait h
      · dsimp only
        split
        · exact .done (hd _ _ (freeWatch_wf h))
        · exact armWatch_wf h

theorem circleLimit_wf {sl : Slot} {key : Word} {limit : Nat} (h : MemoryCanonical s) :
    MemoryCanonical (circleLimit s sl key limit) := faultRecord_wf h

theorem circleArrive_wf {gid c : Nat} {key : Word} (h : MemoryCanonical s) : MemoryCanonical (circleArrive s gid c key) := h

/-! #### The operations of Machine/Engines -/

theorem scoreEnter_wf {core id : Nat} {granules : List Nat} {writes : Bool} (h : MemoryCanonical s) :
    MemoryCanonical (scoreEnter s core id granules writes) := by
  unfold scoreEnter
  dsimp only
  exact State.onExec_wf h

theorem scoreLeave_wf {id : Nat} (h : MemoryCanonical s) : MemoryCanonical (scoreLeave s id) := h

theorem copyAct_wf {i : Instr} {f : FmtM} {kind : Nat} {sl : Slot} (h : MemoryCanonical s) : ActWf (copyAct i f kind s sl) := by
  unfold copyAct
  dsimp only
  split
  · exact .cause h
  · split
    · exact .cause h
    · split
      · split
        · split
          · exact .cause h
          · split
            · exact .stall
            · exact .done (scoreEnter_wf (popPorts_wf (sendOp_wf h)))
        · split
          · exact .cause h
          · split
            · exact .stall
            · exact .done (scoreEnter_wf (popPorts_wf (sendOp_wf h)))
      · split
        · split
          · exact .cause h
          · split
            · exact .stall
            · exact .done (scoreEnter_wf (popPorts_wf (sendOp_wf h)))
        · split
          · exact .cause h
          · split
            · exact .stall
            · exact .done (scoreEnter_wf (popPorts_wf (sendOp_wf h)))

theorem setRing_wf {sl : Slot} {k : Nat} {r : Ring} (h : MemoryCanonical s) : MemoryCanonical (setRing s sl k r) := by
  unfold setRing
  split
  · exact updPress_wf h
  · exact h

theorem ringMisuse_wf {sl : Slot} {k : Nat} {n : Word} (h : MemoryCanonical s) : MemoryCanonical (ringMisuse s sl k n) := faultRecord_wf h

theorem ringPut_wf {sl : Slot} {k : Nat} {n : Word} {v : RingSlot} (h : MemoryCanonical s) : MemoryCanonical (ringPut s sl k n v) := by
  unfold ringPut
  dsimp only
  split
  · exact setRing_wf h
  · exact ringMisuse_wf h

/-! #### The operations of Machine/Leases -/

theorem updLink_wf {peer : Nat} {f : PeerLink → PeerLink} (h : MemoryCanonical s) : MemoryCanonical (updLink s peer f) := h

theorem renumber_wf {peer : Nat} {out : Bool} (h : MemoryCanonical s) : MemoryCanonical (renumber s peer out) := by
  unfold renumber
  dsimp only
  exact State.onFabric_wf h

theorem changeSets_wf {peer : Nat} {lanes : Int} (h : MemoryCanonical s) : MemoryCanonical (changeSets s peer lanes) := h
theorem updLease_wf {c slot : Nat} {f : Lease → Lease} (h : MemoryCanonical s) : MemoryCanonical (updLease s c slot f) := h
theorem putLease_wf {c : Nat} {l : Lease} (h : MemoryCanonical s) : MemoryCanonical (putLease s c l) := h
theorem settleCtl_wf {gid : Nat} (h : MemoryCanonical s) : MemoryCanonical (settleCtl s gid) := settleClass_wf h

theorem resolveCtl_wf {p : Op → Bool} (h : MemoryCanonical s) : MemoryCanonical (resolveCtl s p) := by
  unfold resolveCtl
  dsimp only
  exact foldl_wf (fun _ _ h => settleCtl_wf h) _ (State.onExec_wf h)

theorem endLease_wf {c slot : Nat} (h : MemoryCanonical s) : MemoryCanonical (endLease s c slot) := by
  unfold endLease
  split
  · exact h
  · dsimp only
    split
    · exact updLink_wf (State.onFabric_wf (updLease_wf h))
    · exact changeSets_wf (State.onFabric_wf (updLease_wf h))

theorem endServed_wf {id : Nat} (h : MemoryCanonical s) : MemoryCanonical (endServed s id) := by
  unfold endServed
  split
  · exact h
  · exact renumber_wf (State.onFabric_wf h)

theorem dropPeerLeases_wf {peer : Nat} (h : MemoryCanonical s) : MemoryCanonical (dropPeerLeases s peer) := by
  unfold dropPeerLeases
  dsimp only
  exact State.onFabric_wf (foldl_wf (fun _ _ h => endServed_wf h) _ (foldl_wf (fun _ _ h => foldl_wf (fun _ _ h => resolveCtl_wf
    (endLease_wf h)) _ h) _ h))

/-! #### The operations of Machine/System -/

theorem updEntry_wf {pair q id : Nat} {f : Entry → Entry} (h : MemoryCanonical s) : MemoryCanonical (updEntry s pair q id f) := h

theorem reissuePoison_wf {g : Group} {q id : Nat} (h : MemoryCanonical s) : MemoryCanonical (reissuePoison s g q id) := by
  unfold reissuePoison
  split
  · exact h
  · split
    · exact h
    · split
      · exact h
      · split
        · exact h
        · dsimp only
          split
          · exact updPair_wf (updEntry_wf h)
          · exact sendRget_wf (sendRequests_wf (updOp_wf (updPair_wf (updEntry_wf h))))

theorem settleMapft_wf {gid : Nat} (h : MemoryCanonical s) : MemoryCanonical (settleMapft s gid) := by
  unfold settleMapft
  dsimp only
  exact foldl_wf (fun _ _ h => updGroup_wf (dropOp_wf h)) _ h

theorem growGroup_wf {gid n : Nat} (h : MemoryCanonical s) : MemoryCanonical (growGroup s gid n) := by
  unfold growGroup
  dsimp only
  refine updGroup_wf ?_
  split
  · exact h
  · exact State.onExec_wf h

theorem growDone_wf {gid entry : Nat} (h : MemoryCanonical s) : MemoryCanonical (growDone s gid entry) := h
theorem traceEnter_wf {core w0 : Nat} {w1 w2 w3 : Dword} (h : MemoryCanonical s) : MemoryCanonical (traceEnter s core w0 w1 w2 w3) := h

/-! #### The operations of Machine/Poison -/

theorem writeChunks_wf {base : Nat} {cs : List (Nat × List Byte)} (h : MemoryCanonical s) :
    MemoryCanonical (writeChunks s base cs) := foldl_wf (fun _ _ h => physWrite_wf _ _ h) _ h

theorem writeRecord_wf {pair k : Nat} (h : MemoryCanonical s) : MemoryCanonical (writeRecord s pair k) := by
  unfold writeRecord
  split
  · exact h
  · dsimp only
    split
    · exact h
    · refine writeChunks_wf ?_
      split
      · exact h
      · exact updCtx_wf (updPair_wf h)

/-! #### The operations of Machine/Perform -/

theorem directoryRoom_wf {tag line : Nat} (h : MemoryCanonical s) : MemoryCanonical (directoryRoom s tag line) := by
  unfold directoryRoom
  dsimp only
  split
  · exact h
  · split
    · exact l1Recall_wf _ _ _ h
    · exact h

theorem l1Put_wf {core c line : Nat} {owned : Bool} (h : MemoryCanonical s) : MemoryCanonical (l1Put s core c line owned) := by
  unfold l1Put
  dsimp only
  exact State.onMemory_wf (directoryRoom_wf h)

theorem ladleRead_wf {o : Op} {line : Nat} (h : MemoryCanonical s) :
    MemoryCanonical (ladleRead s o line) := touchLine_wf (recallForLoad_wf h)

theorem l1Load_wf {o : Op} {line : Nat} (h : MemoryCanonical s) : MemoryCanonical (l1Load s o line) := by
  unfold l1Load
  dsimp only
  split
  · split
    · exact ladleRead_wf h
    · exact l1Put_wf (ladleRead_wf h)
  · exact ladleRead_wf h

theorem homeTouched_wf {o : Op} {line : Nat} (h : MemoryCanonical s) : MemoryCanonical (homeTouched s o line) := by
  unfold homeTouched
  dsimp only
  split
  · split
    · exact updCore_wf (touchLine_wf h)
    · exact touchLine_wf h
  · exact touchLine_wf h

theorem homeAtomic_wf {o : Op} {off : Nat} (h : MemoryCanonical s) : MemoryCanonical (homeAtomic s o off) := homeTouched_wf (snoop_wf h)

theorem placeAtomic_wf {o : Op} {off : Nat} (h : MemoryCanonical s) : MemoryCanonical (placeAtomic s o off) := by
  unfold placeAtomic
  dsimp only
  split
  · exact homeAtomic_wf h
  · split
    · exact homeAtomic_wf h
    · split
      · exact touchLine_wf (State.onMemory_wf h)
      · split
        · exact homeAtomic_wf h
        · exact l1Put_wf (touchLine_wf (snoop_wf h))

theorem lineBytes_wf {c off n : Nat} {need : Need} {x : List Byte} (h : MemoryCanonical s) (e : lineBytes s c off n need = .ok (t, x)) :
    MemoryCanonical t := by
  unfold lineBytes at e
  split at e
  · cases e
  · cases e; exact l2Ensure_wf h ‹_›

theorem atomicAt_wf {o : Op} {major minor w off x0 new : Nat} {x : Nat} (h : MemoryCanonical s)
    (e : atomicAt s o major minor w off x0 new = .ok (t, x)) :
    MemoryCanonical t := by
  unfold atomicAt at e
  split at e
  · cases e
  · dsimp only at e
    split at e
    · cases e
    · cases e; exact storeBytes_wf (placeAtomic_wf (lineBytes_wf h ‹_›)) ‹_›

theorem signalLower_wf {c : Nat} {a : Dword} {n : Nat} (h : MemoryCanonical s) (e : signalLower s c a n = .ok t) : MemoryCanonical t := by
  unfold signalLower at e
  dsimp only at e
  split at e
  · cases e
  · split at e
    · cases e
    · split at e
      · cases e; exact storeBytes_wf (snoop_wf (lineBytes_wf h ‹_›)) ‹_›
      · split at e
        · cases e
        · split at e
          · split at e
            · cases e
            · split at e
              · cases e
              · cases e
                exact sendMsix_wf (storeBytes_wf (storeBytes_wf (lineBytes_wf (storeBytes_wf (snoop_wf (lineBytes_wf h ‹_›)) ‹_›) ‹_›) ‹_›)
                  ‹_›)
          · cases e; exact lineBytes_wf (storeBytes_wf (snoop_wf (lineBytes_wf h ‹_›)) ‹_›) ‹_›

theorem readAt_wf {o : Op} {a : Dword} {n : Nat} {x : Nat} (h : MemoryCanonical s) (e : readAt s o a n = .ok (t, x)) :
    MemoryCanonical t := by
  unfold readAt at e
  dsimp only at e
  split at e
  · cases e
  · cases e; exact foldl_wf (fun _ _ h => l1Load_wf h) _ (loadBytes_wf h ‹_›)

theorem storeSome_wf {c : Nat} {bs : List (Nat × Byte)} (h : MemoryCanonical s) (e : storeSome s c bs = .ok t) :
    MemoryCanonical t := by
  induction bs generalizing s with
  | nil => cases e; exact h
  | cons b bs ih =>
    unfold storeSome at e
    split at e
    · cases e
    · exact ih (storeByte_wf h ‹_›) e

theorem storeUnit_wf {o : Op} {n i : Nat} {u : Dword × Nat} (h : MemoryCanonical s) (e : storeUnit s o n i u = .ok t) :
    MemoryCanonical t := by
  unfold storeUnit at e
  dsimp only at e
  split at e
  · cases e
  · split at e
    · cases e
    · cases e
      exact State.onMemory_wf (foldl_wf (fun _ _ h => touchLine_wf h) _ (storeSome_wf (snoop_wf (canWrite_wf h ‹_›)) ‹_›))

theorem spadUnit_wf {o : Op} {i : Nat} {u : Dword × Nat} {x : Nat} (h : MemoryCanonical s) (e : spadUnit s o i u = (t, x)) :
    MemoryCanonical t := by
  unfold spadUnit at e
  split at e
  · cases e; exact h
  · dsimp only at e
    split at e
    · cases e; exact h
    · cases e; exact examine_wf (foldl_wf (fun _ _ h => spadWrite_wf h) _ h)

theorem performUnit_wf {o : Op} {i : Nat} {u : Dword × Nat} {x : Nat} (h : MemoryCanonical s) (e : performUnit s o i u = .ok (t, x)) :
    MemoryCanonical t := by
  unfold performUnit at e
  dsimp only at e
  split at e
  · injection e with e
    exact spadUnit_wf h e
  · split at e
    · cases e
    · split at e
      · exact readAt_wf h e
      · exact readAt_wf h e
      · split at e
        · cases e
        · cases e; exact storeUnit_wf h ‹_›
      · exact atomicAt_wf h e
      · split at e
        · cases e; exact h
        · cases e
          split
          · exact l1Load_wf (loadByte_wf h ‹_›)
          · exact ladleRead_wf (loadByte_wf h ‹_›)
      · split at e
        · cases e
        · cases e; exact homeTouched_wf (signalLower_wf h ‹_›)
      · cases e; exact h

theorem addVeils_wf {o : Op} {space a n : Nat} (h : MemoryCanonical s) : MemoryCanonical (addVeils s o space a n) := by
  unfold addVeils
  split
  · exact h
  · dsimp only
    exact State.onExec_wf h

theorem addTaints_wf {o : Op} {u : Dword × Nat} (h : MemoryCanonical s) : MemoryCanonical (addTaints s o u) := by
  unfold addTaints
  split
  · exact h
  · dsimp only
    split
    · exact h
    · exact updGroup_wf h

theorem unitDone_wf {id i k : Nat} {u : Dword × Nat} (h : MemoryCanonical s) : MemoryCanonical (unitDone s id i k u) := by
  unfold unitDone
  split
  · exact h
  · dsimp only
    split
    · exact updOp_wf h
    · split
      · exact updOp_wf (refusedWalk_wf h)
      · refine updOp_wf (performUnit_wf ?_ ‹_›)
        split
        · exact h
        · exact addVeils_wf (addTaints_wf h)

theorem unitsTogether_wf {o : Op} {us : List (Nat × Nat × Dword × Nat)} (h : MemoryCanonical s) (e : unitsTogether s o us = some t) :
    MemoryCanonical t := by
  unfold unitsTogether at e
  split at e
  · cases e; exact foldl_wf (fun _ _ h => unitDone_wf h) _ h
  · cases e

theorem raiseReturned_wf {gid entry : Nat} {c : Cause} (h : MemoryCanonical s) : MemoryCanonical (raiseReturned s gid entry c) := by
  unfold raiseReturned
  split
  · exact h
  · split
    · exact h
    · dsimp only
      split
      · exact updGroup_wf h
      · exact atBoundary_wf (updGroup_wf h)

theorem tellGroup_wf {o : Op} (h : MemoryCanonical s) : MemoryCanonical (tellGroup s o) := by
  unfold tellGroup
  dsimp only
  split
  · exact raiseReturned_wf (updOp_wf h)
  · split
    · exact discardEnded_wf h
    · split
      · exact updOp_wf h
      · split
        · exact updOp_wf h
        · exact discardEnded_wf h

theorem poisonEntry_wf {pair q id k : Nat} {o : Op} (h : MemoryCanonical s) : MemoryCanonical (poisonEntry s pair q id k o) := by
  unfold poisonEntry
  split
  dsimp only
  exact finishOp_wf (writeRecord_wf (updPair_wf (updEntry_wf (State.onExec_wf (fresh_wf h ‹_›)))))

theorem entryComplete_wf {pair q id opId : Nat} (h : MemoryCanonical s) : MemoryCanonical (entryComplete s pair q id opId) := by
  unfold entryComplete
  split
  · dsimp only
    split
    · split
      · exact finishOp_wf (updOp_wf h)
      · exact h
    · split
      · exact h
      · split
        · exact finishOp_wf (updOp_wf (updEntry_wf h))
        · split
          · exact poisonEntry_wf h
          · split
            · split
              · exact tellGroup_wf (updEntry_wf h)
              · exact discardFaulted_wf (updEntry_wf h)
            · split
              · exact tellGroup_wf (updEntry_wf h)
              · exact discardFaulted_wf (updEntry_wf h)
  · exact h

theorem faultsIn_wf {o : Op} (h : MemoryCanonical s) : MemoryCanonical (faultsIn s o) := by
  unfold faultsIn
  split
  · exact tellGroup_wf h
  · split
    · exact h
    · dsimp only
      exact entryComplete_wf (updEntry_wf h)
  · exact tellGroup_wf h

theorem rejectTail_wf {o : Op} (h : MemoryCanonical s) : MemoryCanonical (rejectTail s o) := by
  unfold rejectTail
  dsimp only
  split
  · exact h
  · exact foldl_wf (fun _ _ h => dropOp_wf (sendOut_wf (linkSend_wf h))) _ h

theorem answerRemote_wf {id : Nat} (h : MemoryCanonical s) : MemoryCanonical (answerRemote s id) := by
  unfold answerRemote
  split
  · exact h
  · split
    · exact h
    · dsimp only
      split
      · refine dropOp_wf ?_
        split
        · exact sendOut_wf (linkSend_wf h)
        · exact h
      · split
        · refine dropOp_wf (sendOut_wf (linkSend_wf ?_))
          split
          · exact sendOut_wf (linkSend_wf h)
          · exact h
        · refine rejectTail_wf (updOp_wf (sendOut_wf (linkSend_wf ?_)))
          split
          · exact sendOut_wf (linkSend_wf h)
          · exact h

theorem releaseEntries_wf (h : MemoryCanonical s) : MemoryCanonical (releaseEntries s) := by
  unfold releaseEntries
  dsimp only
  exact State.onExec_wf h

theorem joinHolder_wf {o h0 : Op} {i : Nat} (h : MemoryCanonical s) (e : joinHolder s o h0 i = some t) : MemoryCanonical t := by
  unfold joinHolder at e
  dsimp only at e
  split at e
  · cases e
  · split at e
    · split at e
      · cases e; exact joinReplay_wf h
      · cases e
    · cases e; exact answerRemote_wf (updOp_wf h)

theorem homeAccess_wf {o : Op} {i k : Nat} (h : MemoryCanonical s) (e : homeAccess s o i k = some t) : MemoryCanonical t := by
  unfold homeAccess at e
  split at e
  · cases e
  · split at e
    · cases e
    · split at e
      · exact joinHolder_wf h e
      · obtain ⟨u, e, e'⟩ := Option.map_eq_some_iff.mp e
        cases e'
        exact releaseEntries_wf (answerRemote_wf (finishOp_wf (unitsTogether_wf h ‹_›)))

theorem beforeReturn_wf {o : Op} {data : Lanes} {x : Bool} (h : MemoryCanonical s) (e : beforeReturn s o data = some (t, x)) :
    MemoryCanonical t := by
  unfold beforeReturn at e
  dsimp only at e
  split at e
  · cases e; exact h
  · split at e
    · obtain ⟨u, e, e'⟩ := Option.map_eq_some_iff.mp e
      cases e'
      exact releaseEntries_wf (unitsTogether_wf h ‹_›)
    · split at e
      · split at e
        · cases e
        · cases e; exact updOp_wf h
      · cases e; exact h

theorem landRegister_wf {o : Op} (h : MemoryCanonical s) : MemoryCanonical (landRegister s o) := by
  unfold landRegister
  dsimp only
  exact finishOp_wf (updOp_wf (updGroup_wf h))

theorem landWindow_wf {w : WindowAccess} (h : MemoryCanonical s) : MemoryCanonical (landWindow s w) := by
  unfold landWindow
  dsimp only
  exact entryComplete_wf (updEntry_wf (State.onExec_wf h))

theorem completeHere_wf {o : Op} (h : MemoryCanonical s) (e : completeHere s o = some t) : MemoryCanonical t := by
  unfold completeHere at e
  split at e
  · dsimp only at e
    split at e
    · cases e; exact circleArrive_wf h
    · split at e
      · cases e; exact circleArrive_wf (addVeils_wf h)
      · cases e
  · exact unitsTogether_wf h e

/-! #### The operations of Machine/Slices -/

theorem recallCopy_wf {core tag line : Nat} (h : MemoryCanonical s) : MemoryCanonical (recallCopy s core tag line) := by
  unfold recallCopy
  split
  · exact h
  · dsimp only
    refine State.onMemory_wf ?_
    split
    · exact updCore_wf h
    · exact h

theorem evictRange_wf {tag o n : Nat} (h : MemoryCanonical s) : MemoryCanonical (evictRange s tag o n) := by
  unfold evictRange
  dsimp only
  exact foldl_wf (fun _ _ h => l2Evict_wf _ _ h) _ h

theorem evictContext_wf {c o n : Nat} (h : MemoryCanonical s) : MemoryCanonical (evictContext s c o n) := evictRange_wf (evictRange_wf h)
theorem setContrib_wf {op k : Nat} {st : CruxState} (h : MemoryCanonical s) : MemoryCanonical (setContrib s op k st) := h
theorem cruxSettle_wf {op : Nat} (h : MemoryCanonical s) : MemoryCanonical (cruxSettle s op) := answerRemote_wf (finishOp_wf h)

theorem cruxRefuse_wf {op k : Nat} {m : Miss} (h : MemoryCanonical s) : MemoryCanonical (cruxRefuse s op k m) := by
  unfold cruxRefuse
  dsimp only
  exact cruxSettle_wf (setContrib_wf (updOp_wf h))

theorem cruxFinal_wf {op k : Nat} {m : Miss} (h : MemoryCanonical s) : MemoryCanonical (cruxFinal s op k m) := by
  unfold cruxFinal
  split
  · exact h
  · dsimp only
    split
    · split
      · exact cruxSettle_wf (raiseReturned_wf (updOp_wf (setContrib_wf h)))
      · exact dropOp_wf (sendOut_wf (linkSend_wf (updOp_wf (setContrib_wf h))))
    · split
      · exact cruxSettle_wf (raiseReturned_wf (setContrib_wf h))
      · exact dropOp_wf (sendOut_wf (linkSend_wf (setContrib_wf h)))

theorem markEntry_wf {a : Nat} {on : Bool} (h : MemoryCanonical s) : MemoryCanonical (markEntry s a on) := by
  unfold markEntry
  dsimp only
  exact physWrite_wf _ _ h

theorem registerRegion_wf {c k : Nat} {r : Region} (h : MemoryCanonical s) (e : registerRegion s c k r = some t) : MemoryCanonical t := by
  unfold registerRegion at e
  dsimp only at e
  split at e
  · cases e
  · cases e
    refine markEntry_wf (updCtx_wf ?_)
    split
    · exact evictContext_wf (evictContext_wf h)
    · split
      · exact storeBytes_wf (evictContext_wf (evictContext_wf h)) ‹_›
      · exact evictContext_wf (evictContext_wf h)

theorem writeOrder_wf {e0 : OrderEntry} (h : MemoryCanonical s) : MemoryCanonical (writeOrder s e0) := by
  unfold writeOrder
  split
  · exact h
  · split
    · exact homeStore_wf h ‹_›
    · exact faultRecord_wf h

theorem dropOrder_wf {c i g : Nat} (h : MemoryCanonical s) : MemoryCanonical (dropOrder s c i g) := h

theorem cruxReturn_wf {o : Op} {lanes : Mask} {code marks : Nat} (h : MemoryCanonical s) (e : cruxReturn s o lanes code marks = some t) :
    MemoryCanonical t := by
  unfold cruxReturn at e
  split at e
  · dsimp only at e
    split at e
    · cases e
    · split at e
      · cases e; exact foldl_wf (fun _ _ h => cruxFinal_wf h) _ h
      · cases e; exact faultsIn_wf (updOp_wf h)
  · cases e

theorem copyReturn_wf {o : Op} {d : CopyDesc} {n : Nat} {code marks : Nat} (h : MemoryCanonical s)
    (e : copyReturn s o d n code marks = some t) :
    MemoryCanonical t := by
  unfold copyReturn at e
  split at e
  · cases e
  · dsimp only at e
    split at e
    · split at e
      · cases e
      · cases e; exact updOp_wf h
    · split at e
      · cases e
      · cases e; exact updOp_wf h

theorem halvesReturn_wf {o : Op} {w q : Nat} {back : List (Nat × Nat)} {lanes : Mask} (h : MemoryCanonical s)
    (e : halvesReturn s o w q back lanes = some t) :
    MemoryCanonical t := by
  unfold halvesReturn at e
  dsimp only at e
  split at e
  · cases e
  · cases e; exact updOp_wf h

/-! #### The operations of Machine/Crucible -/

theorem cruxCheck_wf {c fmt : Nat} {k : Contrib} {x : Nat × Region} (h : MemoryCanonical s) (e : cruxCheck s c fmt k = .ok (t, x)) :
    MemoryCanonical t := by
  unfold cruxCheck at e
  split at e
  · cases e
  · split at e
    · cases e
    · split at e
      · cases e
      · split at e
        · cases e
        · split at e
          · cases e; exact l2Ensure_wf h ‹_›
          · split at e
            · cases e
            · cases e; exact l2Ensure_wf (l2Ensure_wf h ‹_›) ‹_›

theorem readBlock_wf {c : Nat} {r : Region} {k : Contrib} {x : List Byte × Nat} (h : MemoryCanonical s) (e : readBlock s c r k = .ok (t, x))
    :
    MemoryCanonical t := by
  unfold readBlock at e
  split at e
  · cases e
  · split at e
    · cases e
    · cases e; exact lineBytes_wf (lineBytes_wf h ‹_›) ‹_›

theorem writeBlock_wf {c : Nat} {r : Region} {k : Contrib} {slot : List Byte} {scale party : Nat} (h : MemoryCanonical s)
    (e : writeBlock s c r k slot scale party = .ok t) :
    MemoryCanonical t := by
  unfold writeBlock at e
  dsimp only at e
  split at e
  · cases e
  · split at e
    · cases e
    · exact homeStore_wf (homeStore_wf (canWrite_wf h ‹_›) ‹_›) e

/-- A fold that stops at a refusal keeps the canonical form. -/
theorem foldl_ok_wf {α ε : Type} {f : Except ε State → α → Except ε State}
    (hf : ∀ acc x t, (∀ s, acc = .ok s → MemoryCanonical s) → f acc x = .ok t → MemoryCanonical t) (l : List α) {acc : Except ε State} {t :
      State}
    (h : ∀ s, acc = .ok s → MemoryCanonical s) (e : l.foldl f acc = .ok t) : MemoryCanonical t := by
  induction l generalizing acc with
  | nil => exact h t e
  | cons x l ih => exact ih (fun s hs => hf acc x s h hs) e

/-- A fold that carries more than the state keeps the canonical form of the state. -/
theorem foldl_fst_wf {α β : Type} {f : State × β → α → State × β} (hf : ∀ acc x, MemoryCanonical acc.1 → MemoryCanonical (f acc x).1)
    (l : List α) {acc : State × β} (h : MemoryCanonical acc.1) : MemoryCanonical (l.foldl f acc).1 := by
  induction l generalizing acc with
  | nil => exact h
  | cons x l ih => exact ih (hf acc x h)

theorem addLanes_wf {c party : Nat} {m : Mask} {vals : Lanes} {base : Dword} (h : MemoryCanonical s)
    (e : addLanes s c party m vals base = .ok t) : MemoryCanonical t := by
  refine foldl_ok_wf (fun acc i u hacc hu => ?_) _ (fun s' hs => by cases hs; exact h) e
  split at hu
  · cases hu
  · rename_i v
    have hv := hacc v rfl
    split at hu
    · cases hu; exact hv
    · dsimp only at hu
      split at hu
      · cases hu
      · exact homeStore_wf (lineBytes_wf hv ‹_›) hu

theorem cruxEffect_wf {o : Op} {r : Region} {k : Contrib} (h : MemoryCanonical s) (e : cruxEffect s o r k = .ok t) : MemoryCanonical t := by
  unfold cruxEffect at e
  dsimp only at e
  split at e
  · split at e
    · cases e
    · cases e; exact updOp_wf (foldl_wf (fun _ _ h => homeRead_wf _ _ _ h) _ (readBlock_wf h ‹_›))
  · exact writeBlock_wf h e
  · split at e
    · cases e
    · cases e
      split
      · exact assayAdd_wf _ _ _ (addLanes_wf h ‹_›)
      · exact addLanes_wf h ‹_›
  · split at e
    · cases e
    · split at e
      · cases e
      · cases e
        split
        · exact assayAdd_wf _ _ _ (assayAdd_wf _ _ _ (writeBlock_wf (readBlock_wf h ‹_›) ‹_›))
        · exact assayAdd_wf _ _ _ (writeBlock_wf (readBlock_wf h ‹_›) ‹_›)

theorem cruxApply_wf {op k : Nat} {r : Region} {x : Bool} (h : MemoryCanonical s) (e : cruxApply s op k r = (t, x)) :
    MemoryCanonical t := by
  unfold cruxApply at e
  split at e
  · cases e; exact h
  · split at e
    · cases e; exact cruxRefuse_wf h
    · cases e; exact cruxSettle_wf (setContrib_wf (cruxEffect_wf h ‹_›))

theorem updOrder_wf {c i g : Nat} {f : OrderEntry → OrderEntry} (h : MemoryCanonical s) : MemoryCanonical (updOrder s c i g f) := h
theorem orderStep_wf {c i g : Nat} (h : MemoryCanonical s) : MemoryCanonical (orderStep s c i g) := h

theorem parkDrain_wf {n c i g : Nat} {r : Region} (h : MemoryCanonical s) : MemoryCanonical (parkDrain n s c i r g) := by
  induction n generalizing s with
  | zero => exact h
  | succ n ih =>
    unfold parkDrain
    split
    · exact h
    · split
      · exact ih (orderStep_wf (cruxApply_wf h ‹_›))
      · exact cruxApply_wf h ‹_›

theorem orderWaits_wf {c i : Nat} {r : Region} {g : Nat} (h : MemoryCanonical s) : MemoryCanonical (orderWaits s c i r g) := by
  unfold orderWaits
  dsimp only
  split
  · exact updOrder_wf h
  · exact h

theorem examineOrdered_wf {op k c i : Nat} {r : Region} (h : MemoryCanonical s) : MemoryCanonical (examineOrdered s op k c i r) := by
  unfold examineOrdered
  split
  · exact h
  · dsimp only
    split
    · exact parkDrain_wf h
    · split
      · exact cruxFinal_wf (parkDrain_wf h)
      · split
        · split
          · exact orderStep_wf (cruxApply_wf (parkDrain_wf h) ‹_›)
          · exact cruxApply_wf (parkDrain_wf h) ‹_›
        · split
          · exact cruxFinal_wf (parkDrain_wf h)
          · split
            · exact setContrib_wf (orderWaits_wf (parkDrain_wf h))
            · split
              · exact parkDrain_wf h
              · exact setContrib_wf (orderWaits_wf (parkDrain_wf h))

theorem evictOrder_wf {e0 : OrderEntry} (h : MemoryCanonical s) : MemoryCanonical (evictOrder s e0) := by
  unfold evictOrder
  dsimp only
  refine dropOrder_wf (writeOrder_wf ?_)
  split
  · exact h
  · exact State.onMemory_wf h

theorem stallBack_wf {c i g next : Nat} (h : MemoryCanonical s) : MemoryCanonical (stallBack s c i g next) := by
  unfold stallBack
  dsimp only
  split
  · split
    · exact updOrder_wf (State.onMemory_wf h)
    · exact State.onMemory_wf h
  · exact State.onMemory_wf h

theorem orderRoom_wf {slice : Nat} (h : MemoryCanonical s) : MemoryCanonical (orderRoom s slice) := by
  unfold orderRoom
  dsimp only
  split
  · exact h
  · split
    · exact evictOrder_wf h
    · exact h

theorem arriveAt_wf {op k c i : Nat} {r : Region} {x0 : Contrib} (h : MemoryCanonical s) : MemoryCanonical (arriveAt s op k c i r x0) := by
  unfold arriveAt
  dsimp only
  split
  · split
    · exact setContrib_wf h
    · exact examineOrdered_wf h
  · split
    · exact setContrib_wf h
    · exact setContrib_wf (State.onMemory_wf (orderRoom_wf h))

theorem examineRound_wf (h : MemoryCanonical s) : MemoryCanonical (examineRound s) := by
  unfold examineRound
  refine foldl_wf (fun _ _ h => ?_) _ h
  split
  · split
    · split
      · exact arriveAt_wf h
      · exact h
    · exact h
  · exact h

theorem examineHeld_wf {n : Nat} (h : MemoryCanonical s) : MemoryCanonical (examineHeld n s) := by
  induction n generalizing s with
  | zero => exact h
  | succ n ih =>
    unfold examineHeld
    dsimp only
    split
    · exact ih (examineRound_wf h)
    · exact examineRound_wf h

theorem settleHeld_wf (h : MemoryCanonical s) : MemoryCanonical (settleHeld s) := examineHeld_wf h

theorem parkNext_wf {op k : Nat} {o : Op} {x0 : Contrib} (h : MemoryCanonical s) (e : parkNext s op k o x0 = some t) :
    MemoryCanonical t := by
  unfold parkNext at e
  split at e
  · cases e
  · dsimp only at e
    split at e
    · cases e
    · split at e
      · cases e
      · split at e
        · cases e; exact settleHeld_wf (orderStep_wf (cruxApply_wf h ‹_›))
        · cases e; exact cruxApply_wf h ‹_›

theorem joinCrux_wf {o h0 : Op} {k : Nat} (h : MemoryCanonical s) (e : joinCrux s o h0 k = some t) : MemoryCanonical t := by
  unfold joinCrux at e
  split at e
  · cases e
  · split at e
    · split at e
      · cases e; exact updOp_wf (setContrib_wf h)
      · cases e
    · cases e; exact answerRemote_wf (updOp_wf (setContrib_wf h))

theorem removeRegion_wf {c i : Nat} (h : MemoryCanonical s) : MemoryCanonical (removeRegion s c i) := by
  unfold removeRegion
  split
  · exact h
  · dsimp only
    refine markEntry_wf (updCtx_wf (evictContext_wf (evictContext_wf (settleHeld_wf (foldl_wf (fun _ _ h => cruxFinal_wf h) _
      (State.onMemory_wf (foldl_wf (fun _ _ h => dropOrder_wf ?_) _ (foldl_wf (fun _ _ h => parkDrain_wf h) _ h))))))))
    split
    · exact h
    · exact writeOrder_wf h

/-! #### The operations of Machine/Copies -/

theorem copyReadByte_wf {g : Group} {own : PlaceSrc} {o : Op} {d : CopyDesc} {i : Nat} {x : Byte} (h : MemoryCanonical s)
    (e : copyReadByte s g own o d i = .ok (t, x)) :
    MemoryCanonical t := by
  unfold copyReadByte at e
  split at e
  · dsimp only at e
    split at e
    · cases e
    · split at e
      · cases e; exact homeRead_wf _ _ _ (loadByte_wf h ‹_›)
      · cases e
  · split at e <;> (cases e; exact h)

theorem copyWriteByte_wf {g : Group} {own : PlaceSrc} {o : Op} {d : CopyDesc} {i : Nat} {b : Byte} (h : MemoryCanonical s)
    (e : copyWriteByte s g own o d i b = .ok t) :
    MemoryCanonical t := by
  unfold copyWriteByte at e
  split at e
  · dsimp only at e
    split at e
    · cases e
    · split at e
      · cases e
      · split at e
        · cases e; exact touchLine_wf (storeByte_wf (snoop_wf (canWrite_wf h ‹_›)) ‹_›)
        · cases e
  · split at e
    · cases e; exact spadPut_wf h
    · cases e; exact h

theorem copyRead_wf {g : Group} {own : PlaceSrc} {o : Op} {d : CopyDesc} {ix : List Nat}
    {x : List (Nat × Byte) × List Nat × Option Miss} (h : MemoryCanonical s) (e : copyRead s g own o d ix = (t, x)) : MemoryCanonical t :=
      by
  obtain rfl : _ = t := congrArg Prod.fst e
  refine foldl_fst_wf (fun acc i ha => ?_) ix h
  split
  · exact ha
  · split
    · exact copyReadByte_wf ha ‹_›
    · exact refusedWalk_wf ha

theorem copyWrite_wf {g : Group} {own : PlaceSrc} {o : Op} {d : CopyDesc} {bs : List (Nat × Byte)}
    {x : List Nat × Option Miss} (h : MemoryCanonical s) (e : copyWrite s g own o d bs = (t, x)) : MemoryCanonical t := by
  obtain rfl : _ = t := congrArg Prod.fst e
  refine foldl_fst_wf (fun acc i ha => ?_) bs h
  split
  · exact copyWriteByte_wf ha ‹_›
  · exact refusedWalk_wf ha

theorem copyAccess_wf {o : Op} {x0 : Nat} (h : MemoryCanonical s) (e : copyAccess s o x0 = some t) : MemoryCanonical t := by
  unfold copyAccess at e
  dsimp only at e
  split at e
  · cases e
  · split at e
    · split at e
      · cases e
      · split at e
        · cases e
        · cases e; exact updOp_wf (copyRead_wf h rfl)
    · split at e
      · cases e
      · split at e
        · cases e
        · cases e; exact examine_wf (updOp_wf (copyWrite_wf h rfl))

theorem copyFlag_wf {g : Group} {own : PlaceSrc} {d : CopyDesc} (h : MemoryCanonical s) : MemoryCanonical (copyFlag s g own d) := by
  unfold copyFlag
  split
  · exact h
  · split
    · exact spadPut_wf h
    · exact h

theorem copyEnd_wf {o : Op} {d : CopyDesc} {g : Group} {own : PlaceSrc} (h : MemoryCanonical s) :
    MemoryCanonical (copyEnd s o d g own) := by
  unfold copyEnd
  split
  · exact finishOp_wf (updOp_wf (scoreLeave_wf (examine_wf (copyFlag_wf h))))
  · exact updOp_wf h

theorem copyRest_wf {o : Op} {d : CopyDesc} {g : Group} {own : PlaceSrc} {e0 : ScoreEntry} (h : MemoryCanonical s)
    (e : copyRest s o d g own e0 = some t) :
    MemoryCanonical t := by
  unfold copyRest at e
  dsimp only at e
  split at e
  · cases e
  · cases e
    split
    · split
      · exact joinReplay_wf (updOp_wf (updOp_wf (examine_wf (copyWrite_wf (copyRead_wf h rfl) rfl))))
      · exact copyEnd_wf (updOp_wf (updOp_wf (examine_wf (copyWrite_wf (copyRead_wf h rfl) rfl))))
    · exact copyEnd_wf (updOp_wf (updOp_wf (examine_wf (copyWrite_wf (copyRead_wf h rfl) rfl))))

/-! #### The operations of Machine/FabricEvents -/

theorem refuseUnknown_wf {o : Op} (h : MemoryCanonical s) : MemoryCanonical (refuseUnknown s o) := by
  unfold refuseUnknown
  split
  · exact answerRemote_wf (updOp_wf h)
  · exact h

theorem deviceDecs_wf {r : RemoteReq} {n source : Nat} {info : Dword} (h : MemoryCanonical s) :
    MemoryCanonical (deviceDecs s r n source info) := by
  unfold deviceDecs
  split
  exact State.onExec_wf (fresh_wf h ‹_›)

theorem agentRead_wf {party c a : Nat} {x : Nat} (h : MemoryCanonical s) (e : agentRead s party c a = .ok (t, x)) : MemoryCanonical t := by
  unfold agentRead at e
  dsimp only at e
  split at e
  · cases e
  · split at e
    · cases e
    · cases e; exact foldl_wf (fun _ _ h => homeRead_wf _ _ _ h) _ (loadBytes_wf h ‹_›)

theorem agentWrite_wf {party c a x0 : Nat} (h : MemoryCanonical s) (e : agentWrite s party c a x0 = .ok t) : MemoryCanonical t := by
  unfold agentWrite at e
  dsimp only at e
  split at e
  · cases e
  · split at e
    · cases e
    · split at e
      · cases e
      · cases e
        exact foldl_wf (fun _ _ h => touchLine_wf h) _ (storeBytes_wf (snoop_wf (canWrite_wf h ‹_›)) ‹_›)

theorem agentReads_wf {party c a n : Nat} {x : List Nat} (h : MemoryCanonical s) (e : agentReads s party c a n = .ok (t, x)) :
    MemoryCanonical t := by
  induction n generalizing s t a x with
  | zero => cases e; exact h
  | succ n ih =>
    unfold agentReads at e
    split at e
    · cases e
    · split at e
      · cases e
      · cases e; exact ih (agentRead_wf h ‹_›) ‹_›

theorem agentWrites_wf {party c : Nat} {ws : List (Nat × Nat)} (h : MemoryCanonical s)
    (e : agentWrites s party c ws = .ok t) : MemoryCanonical t := by
  induction ws generalizing s with
  | nil => cases e; exact h
  | cons w ws ih =>
    unfold agentWrites at e
    split at e
    · cases e
    · exact ih (agentWrite_wf h ‹_›) e

theorem agentCas_wf {party c a n : Nat} {v : Lanes} {x : List Nat} (h : MemoryCanonical s) (e : agentCas s party c a n v = .ok (t, x)) :
    MemoryCanonical t := by
  unfold agentCas at e
  split at e
  · cases e
  · dsimp only at e
    split at e
    · cases e
    · cases e; exact agentWrites_wf (agentReads_wf h ‹_›) ‹_›

theorem agentEnq_wf {party c h0 n : Nat} {x : List Nat} (h : MemoryCanonical s) (e : agentEnq s party c h0 n = .ok (t, x)) :
    MemoryCanonical t := by
  unfold agentEnq at e
  split at e
  · cases e
  · have hu := agentWrite_wf h ‹_›
    split at e
    · cases e
    · have hv := agentRead_wf hu ‹_›
      split at e
      · cases e
      · injection e with e
        exact (Prod.mk.inj e).1 ▸ agentWrites_wf hv ‹_›

theorem agentDeq_wf {party c h0 : Nat} {x : List Nat} (h : MemoryCanonical s) (e : agentDeq s party c h0 = .ok (t, x)) :
    MemoryCanonical t := by
  unfold agentDeq at e
  split at e
  · cases e
  · have hu := agentRead_wf h ‹_›
    split at e
    · cases e; exact hu
    · split at e
      · cases e
      · have hv := agentRead_wf hu ‹_›
        split at e
        · cases e
        · injection e with e
          exact (Prod.mk.inj e).1 ▸ agentWrites_wf hv ‹_›

theorem agentRun_wf {o : Op} {op : Nat} {x : List Nat} (h : MemoryCanonical s) (e : agentRun s o op = .ok (t, x)) : MemoryCanonical t := by
  unfold agentRun at e
  dsimp only at e
  split at e
  · exact agentCas_wf h e
  · exact agentCas_wf h e
  · exact agentEnq_wf h e
  · exact agentDeq_wf h e
  · cases e; exact h

theorem agentStep_wf {o : Op} {op : Nat} (h : MemoryCanonical s) : MemoryCanonical (agentStep s o op) := by
  unfold agentStep
  dsimp only
  split
  · split
    · exact updOp_wf (refusedWalk_wf h)
    · exact updOp_wf (agentRead_wf h ‹_›)
  · split
    · exact updOp_wf (refusedWalk_wf h)
    · exact updOp_wf (agentRun_wf h ‹_›)

theorem updSet_wf {peer : Nat} {out : Bool} {set : Nat} {f : LaneSet → LaneSet} (h : MemoryCanonical s) :
    MemoryCanonical (updSet s peer out set f) := h

theorem dropSet_wf {peer : Nat} {out : Bool} {set : Nat} (h : MemoryCanonical s) : MemoryCanonical (dropSet s peer out set) := by
  unfold dropSet
  dsimp only
  exact State.onFabric_wf h

theorem fenceTransmit_wf {peer set : Nat} (h : MemoryCanonical s) : MemoryCanonical (fenceTransmit s peer set) := by
  unfold fenceTransmit
  split
  · exact h
  · dsimp only
    refine dropSet_wf (updLink_wf ?_)
    split
    · exact updLink_wf h
    · split
      · exact updLease_wf h
      · exact h

theorem fenceReceive_wf {peer set : Nat} (h : MemoryCanonical s) : MemoryCanonical (fenceReceive s peer set) := by
  unfold fenceReceive
  split
  · exact h
  · dsimp only
    refine dropSet_wf ?_
    split
    · exact updLink_wf h
    · exact State.onFabric_wf h

theorem fenceSet_wf {peer set : Nat} {receive : Bool} (h : MemoryCanonical s) : MemoryCanonical (fenceSet s peer set receive) := by
  unfold fenceSet
  dsimp only
  refine State.onMysko_wf ?_
  split
  · exact fenceReceive_wf h
  · exact fenceTransmit_wf h

theorem flitTaken_wf {peer set gen ctx : Nat} (h : MemoryCanonical s) : MemoryCanonical (flitTaken s peer set gen ctx) := by
  unfold flitTaken
  dsimp only
  split
  · exact assayAdd_wf _ _ _ (updSet_wf h)
  · exact updSet_wf h

theorem flitsAcked_wf {peer set n : Nat} (h : MemoryCanonical s) : MemoryCanonical (flitsAcked s peer set n) := by
  unfold flitsAcked
  split
  · exact h
  · dsimp only
    exact updLink_wf (updSet_wf h)

theorem replayFlits_wf {peer set : Nat} (h : MemoryCanonical s) : MemoryCanonical (replayFlits s peer set) := by
  unfold replayFlits
  split
  · exact h
  · exact foldl_wf (fun _ _ h => sendOut_wf h) _ h

theorem flitBad_wf {peer : Nat} {l : LaneSet} (h : MemoryCanonical s) : MemoryCanonical (flitBad s peer l) := by
  unfold flitBad
  split
  · exact fenceSet_wf (errorRecord_wf h)
  · exact sendOut_wf (updSet_wf h)

theorem flitGood_wf {peer gen ctx : Nat} {l : LaneSet} (h : MemoryCanonical s) : MemoryCanonical (flitGood s peer gen ctx l) := by
  unfold flitGood
  dsimp only
  refine flitTaken_wf (updSet_wf ?_)
  split
  · exact errorRecord_wf h
  · exact h

theorem announceKey_wf {peer set gen : Nat} (h : MemoryCanonical s) : MemoryCanonical (announceKey s peer set gen) := by
  unfold announceKey
  dsimp only
  exact sendOut_wf (updSet_wf h)

theorem putStaging_wf {x0 : Staging} (h : MemoryCanonical s) : MemoryCanonical (putStaging s x0) := h

theorem mrRefused_wf {c w gen member chunk : Nat} (h : MemoryCanonical s) :
    MemoryCanonical (mrRefused s c w gen member chunk) := faultRecord_wf h

theorem sendDec_wf {c : Nat} {a : Dword} {source : Nat} {info : Nat} (h : MemoryCanonical s) :
    MemoryCanonical (sendDec s c a source info) := by
  unfold sendDec
  split
  exact State.onExec_wf (fresh_wf h ‹_›)

theorem mrStore_wf {c w : Nat} {x0 : Window} {chunk : Nat} {data : List Byte} (h : MemoryCanonical s)
    (e : mrStore s c w x0 chunk data = some t) :
    MemoryCanonical t := by
  unfold mrStore at e
  dsimp only at e
  split at e
  · cases e
  · cases e
    refine sendDec_wf ?_
    split
    · exact touchLine_wf (storeBytes_wf (snoop_wf (canWrite_wf h ‹_›)) ‹_›)
    · exact canWrite_wf h ‹_›

theorem mrDeliver_wf {c w : Nat} {x0 : Window} {gen chunk : Nat} {data : List Byte} (h : MemoryCanonical s) :
    MemoryCanonical (mrDeliver s c w x0 gen chunk data) := by
  unfold mrDeliver
  refine foldl_wf (fun _ _ h => ?_) _ h
  split
  · split
    · exact mrStore_wf h ‹_›
    · exact mrRefused_wf h
  · exact sendOut_wf (linkSend_wf h)

theorem mrAccept_wf {c w : Nat} {x0 : Window} {m chunk : Nat} {data : List Byte} (h : MemoryCanonical s)
    (e : mrAccept s c w x0 m chunk data = some t) :
    MemoryCanonical t := by
  unfold mrAccept at e
  dsimp only at e
  split at e
  · cases e
  · split at e
    · cases e; exact putStaging_wf h
    · cases e; exact mrDeliver_wf (assayAdd_wf _ _ _ (putStaging_wf h))

theorem mrOwn_wf {o : Op} {w : Nat} {x0 : Window} {m q j : Nat} (h : MemoryCanonical s) : MemoryCanonical (mrOwn s o w x0 m q j) := by
  unfold mrOwn
  dsimp only
  split
  · exact updOp_wf h
  · exact finishOp_wf (updOp_wf (mrAccept_wf h ‹_›))

theorem rgetRead_wf {c : Nat} {a : Dword} {n : Nat} {x : List Byte} (h : MemoryCanonical s) (e : rgetRead s c a n = .ok (t, x)) :
    MemoryCanonical t := by
  unfold rgetRead at e
  split at e
  · cases e
  · split at e
    · cases e
    · cases e; exact foldl_wf (fun _ _ h => homeRead_wf _ _ _ h) _ (loadBytes_wf h ‹_›)

theorem rgetAnswer_wf {requester : BitVec 192} {words : List Nat} (h : MemoryCanonical s) :
    MemoryCanonical (rgetAnswer s requester words) := by
  unfold rgetAnswer
  dsimp only
  exact sendOut_wf h

theorem mapEntries_wf {a p frame size : Nat} (h : MemoryCanonical s) : MemoryCanonical (mapEntries s a p frame size) := by
  unfold mapEntries
  dsimp only
  exact foldl_wf (fun _ _ h => physWrite_wf _ _ h) _ h

theorem mapRun_wf {c off : Nat} {x : Nat} (h : MemoryCanonical s) (e : mapRun s c off = (t, x)) : MemoryCanonical t := by
  unfold mapRun at e
  extract_lets ctx at e
  split at e
  extract_lets kind at e
  split at e
  · exact (Prod.mk.inj e).1 ▸ h
  · split at e
    · exact (Prod.mk.inj e).1 ▸ h
    · split at e
      · exact (Prod.mk.inj e).1 ▸ h
      · split at e
        · rw [← (Prod.mk.inj e).1]
          exact physWrite_wf _ _ h
        · rw [← (Prod.mk.inj e).1]
          exact mapEntries_wf (physWrite_wf _ _ (physWrite_wf _ _ h))

/-! #### The operations of Machine/Control -/

theorem freeEntry_wf {gid e0 : Nat} (h : MemoryCanonical s) : MemoryCanonical (freeEntry s gid e0) := by
  unfold freeEntry
  dsimp only
  refine updGroup_wf ?_
  split
  · exact updGroup_wf (updPress_wf h)
  · exact h

theorem dropFaulted_wf {gid e0 : Nat} (h : MemoryCanonical s) : MemoryCanonical (dropFaulted s gid e0) := discardFaulted_wf h

theorem renameEntry_wf {gid a b : Nat} (h : MemoryCanonical s) : MemoryCanonical (renameEntry s gid a b) := by
  unfold renameEntry
  dsimp only
  exact State.onExec_wf (updGroup_wf h)

theorem movePath_wf {gid a b : Nat} (h : MemoryCanonical s) : MemoryCanonical (movePath s gid a b) := by
  unfold movePath
  dsimp only
  exact renameEntry_wf (updGroup_wf h)

theorem diverge_wf {gid e0 : Nat} {k : Option Nat} {rpc : Dword} {minor major : Mask} {minorPc : Dword} (h : MemoryCanonical s) :
    MemoryCanonical (diverge s gid e0 k rpc minor major minorPc) := by
  unfold diverge
  split
  · dsimp only
    exact updPath_wf (updPath_wf h)
  · exact updPath_wf h

theorem reconAct_wf {sl : Slot} (h : MemoryCanonical s) : ActWf (reconAct s sl) := by
  unfold reconAct
  dsimp only
  split
  · exact .done h
  · split
    · exact .done h
    · split
      · split
        · exact .jump (updPath_wf h)
        · exact .done (updPath_wf h)
      · split
        · split
          · exact .done (movePath_wf (updPath_wf h))
          · exact .done (updPath_wf h)
        · split
          · split
            · exact .done (renameEntry_wf (updGroup_wf (updPath_wf h)))
            · exact .park (updPath_wf h)
          · split
            · exact .done (renameEntry_wf (updGroup_wf (updPath_wf h)))
            · exact .park (updPath_wf h)

/-! #### The operations of Machine/PressIssue -/

theorem PSlot.upd_wf {ps : PSlot} {f : PressCtx → PressCtx} (h : MemoryCanonical s) : MemoryCanonical (PSlot.upd ps s f) := h

theorem pressBreak_wf {co : Cohort} {core : Nat} {pc : Dword} {n : Nat} (h : MemoryCanonical s) :
    MemoryCanonical (pressBreak s co core pc n) := stopRecord_wf h

theorem pressStopAt_wf {core num : Nat} {pc addr : Dword} {code marks : Nat} (h : MemoryCanonical s) :
    MemoryCanonical (pressStopAt s core num pc addr code marks) := by
  unfold pressStopAt
  dsimp only
  refine updPress_wf ?_
  split
  · exact pressBreak_wf (freeUnit_wf h)
  · exact freeUnit_wf h

theorem pressStop_wf {core num : Nat} {pc : Dword} {code marks : Nat} (h : MemoryCanonical s) :
    MemoryCanonical (pressStop s core num pc code marks) := pressStopAt_wf h

theorem pressFinish_wf {ps : PSlot} {next : Dword} (h : MemoryCanonical s) : MemoryCanonical (pressFinish s ps next) := by
  unfold pressFinish
  dsimp only
  split
  · exact pressBreak_wf (PSlot.upd_wf (PSlot.upd_wf (freeUnit_wf h)))
  · exact PSlot.upd_wf (freeUnit_wf h)

theorem pressAdvance_wf {ps : PSlot} (h : MemoryCanonical s) : MemoryCanonical (pressAdvance s ps) := by
  unfold pressAdvance
  split
  · exact pressFinish_wf h
  · dsimp only
    exact mk_wf (updRun_wf h)

theorem pressNoted_wf {ps : PSlot} (h : MemoryCanonical s) : MemoryCanonical (pressNoted s ps) := h

theorem pressCount_wf {ps : PSlot} {i : Instr} (h : MemoryCanonical s) : MemoryCanonical (pressCount s ps i) := by
  unfold pressCount
  dsimp only
  split
  · exact assayAdd_wf _ _ _ (assayAdd_wf _ _ _ h)
  · exact assayAdd_wf _ _ _ (assayAdd_wf _ _ _ h)
  · exact assayAdd_wf _ _ _ h

theorem pressSettle_wf {ps : PSlot} {i : Instr} {a : PAct} (h : MemoryCanonical s) (ha : PActWf a) :
    MemoryCanonical (pressSettle s ps i a) := by
  cases ha with
  | done ha => exact pressAdvance_wf (pressNoted_wf (pressCount_wf ha))
  | stall ha => exact mk_wf ha
  | wait => exact PSlot.upd_wf (freeUnit_wf h)
  | cause => exact pressStop_wf h
  | goto ha =>
    unfold pressSettle
    dsimp only
    split
    · exact pressStop_wf h
    · exact pressFinish_wf (pressNoted_wf (pressCount_wf ha))
  | ended ha => exact PSlot.upd_wf (freeUnit_wf (pressNoted_wf (pressCount_wf ha)))

theorem startPressRun_wf {core num : Nat} (h : MemoryCanonical s) : MemoryCanonical (startPressRun s core num) := by
  unfold startPressRun
  split
  · exact h
  · split
    · exact h
    · dsimp only
      split
      · split
        · exact pressStop_wf h
        · split
          · exact pressStopAt_wf (fetchPressRun_wf (updPress_wf h) ‹_›)
          · exact mk_wf (updPress_wf (State.onExec_wf (fetchPressRun_wf (updPress_wf h) ‹_›)))
      · split
        · exact pressStop_wf h
        · split
          · exact pressStopAt_wf (fetchPressRun_wf (updPress_wf h) ‹_›)
          · exact mk_wf (updPress_wf (State.onExec_wf (fetchPressRun_wf (updPress_wf h) ‹_›)))

theorem pushCmd_wf {ps : PSlot} {id : Nat} {i : Instr} {base : Nat} {value : Dword} (h : MemoryCanonical s) :
    MemoryCanonical (pushCmd s ps id i base value) := h

theorem pressPlain_wf {i : Instr} {base : Nat} {value : Dword} {ps : PSlot} (h : MemoryCanonical s) :
    PActWf (pressPlain i base value s ps) := by
  unfold pressPlain
  split
  · exact .stall h
  · split
    exact .done (pushCmd_wf (fresh_wf h ‹_›))

theorem scoreTurn_wf {granules : List Nat} {writes : Bool} {ps : PSlot} {x : Nat} (h : MemoryCanonical s)
    (e : scoreTurn granules writes s ps = (x, t)) :
    MemoryCanonical t := by
  unfold scoreTurn at e
  split at e
  · cases e; exact h
  · cases e; exact scoreEnter_wf (fresh_wf h rfl)

theorem pressScored_wf {i : Instr} {base : Nat} {value : Dword} {granules : List Nat} {writes : Bool} {ps : PSlot} (h : MemoryCanonical s) :
    PActWf (pressScored i base value granules writes s ps) := by
  unfold pressScored
  split
  · exact .stall h
  · dsimp only
    split
    · exact .done (pushCmd_wf (scoreTurn_wf h rfl))
    · exact .stall (PSlot.upd_wf (scoreTurn_wf h rfl))

theorem pressRegion_wf {i : Instr} {f : FmtXR} {writes : Bool} {ps : PSlot} (h : MemoryCanonical s) :
    PActWf (pressRegion i f writes s ps) := by
  unfold pressRegion
  dsimp only
  split
  · split
    · exact .cause
    · exact pressScored_wf h
  · split
    · exact .cause
    · exact pressScored_wf h

/-! #### The operations of Machine/Press -/

theorem hoopArrive_wf {cohort h0 unit : Nat} {x : Nat} (h : MemoryCanonical s) (e : hoopArrive s cohort h0 unit = (x, t)) :
    MemoryCanonical t := by
  unfold hoopArrive at e
  split at e
  · cases e; exact h
  · dsimp only at e
    cases e
    split <;> exact updCohort_wf (updCohort_wf h)

theorem noteBreak_wf {c core unit n : Nat} {pc : Dword} (h : MemoryCanonical s) : MemoryCanonical (noteBreak s c core unit n pc) := by
  unfold noteBreak
  split
  · exact updRun_wf h
  · exact h

theorem pressPerform_wf {p : PressCtx} {co : Cohort} {c : PressCmd} (h : MemoryCanonical s) : MemoryCanonical (pressPerform s p co c) := by
  unfold pressPerform
  dsimp only
  split
  · exact updPress_wf h
  · exact updPress_wf h
  · exact updPress_wf h
  · exact examine_wf (foldl_wf (fun _ _ h => spadWrite_wf h) _ h)
  · exact updPress_wf h
  · exact updPress_wf h
  · exact updPress_wf h
  · exact hoopArrive_wf h rfl
  · exact examine_wf (spadWrite_wf h)
  · exact h

theorem pressCycle_wf (h : MemoryCanonical s) : MemoryCanonical (pressCycle s) := h

/-! #### The operations of Machine/Schedule -/

theorem fetchChosen_wf {core unit : Nat} (h : MemoryCanonical s) (e : fetchChosen s core unit = some t) : MemoryCanonical t := by
  unfold fetchChosen at e
  split at e
  · cases e
  · split at e
    · cases e
    · dsimp only at e
      split at e
      · cases e
        split
        · exact startRun_wf (updSched_wf (mk_wf h))
        · exact updSched_wf (mk_wf h)
      · split at e
        · cases e
        · split at e
          · split at e
            · cases e; exact startPressRun_wf (updSched_wf (mk_wf h))
            · cases e
          · cases e

theorem stealBank_wf {w : WindowAccess} (h : MemoryCanonical s) : MemoryCanonical (stealBank s w) := by
  unfold stealBank
  dsimp only
  exact mk_wf (landWindow_wf (updSched_wf h))

theorem windowCycle_wf (h : MemoryCanonical s) : MemoryCanonical (windowCycle s) := by
  unfold windowCycle
  dsimp only
  refine State.onExec_wf (foldl_wf (fun _ _ h => ?_) _ h)
  split
  · exact landWindow_wf h
  · split
    · exact stealBank_wf h
    · exact h

theorem idleCycle_wf (h : MemoryCanonical s) : MemoryCanonical (idleCycle s) := by
  unfold idleCycle
  dsimp only
  exact State.onExec_wf h

/-! #### The operations of Machine/Saves -/

theorem placeAlloc_wf {core : Nat} {o : PlaceSrc} {size : Nat} (h : MemoryCanonical s) (e : placeAlloc s core o size = some t) :
    MemoryCanonical t := by
  unfold placeAlloc at e
  split at e
  · cases e; exact h
  · obtain ⟨u, e, e'⟩ := Option.map_eq_some_iff.mp e
    cases e'
    split
    exact State.onExec_wf (fresh_wf h ‹_›)

theorem placePair_wf {l : Launch} {index core part : Nat} {cohort : Option Nat} {member : Nat} {x : Nat} (h : MemoryCanonical s)
    (e : placePair s l index core part cohort member = (t, x)) :
    MemoryCanonical t := by
  unfold placePair at e
  dsimp only at e
  cases e; exact State.onExec_wf (fresh_wf (fresh_wf (fresh_wf h rfl) rfl) rfl)

theorem zeroRange_wf {a n : Nat} (h : MemoryCanonical s) : MemoryCanonical (zeroRange s a n) := physWrite_wf _ _ h

theorem writePairArea_wf {p : Pair} {base : Nat} (h : MemoryCanonical s) : MemoryCanonical (writePairArea s p base) := by
  unfold writePairArea
  dsimp only
  refine writeChunks_wf (writeChunks_wf ?_)
  split
  · refine writeChunks_wf ?_
    split
    · exact writeChunks_wf (zeroRange_wf h)
    · exact zeroRange_wf h
  · split
    · exact writeChunks_wf (zeroRange_wf h)
    · exact zeroRange_wf h

theorem writeUnit_wf {co : Cohort} {n core base : Nat} (h : MemoryCanonical s) : MemoryCanonical (writeUnit s co n core base) := by
  unfold writeUnit
  dsimp only
  refine writeChunks_wf ?_
  split
  · exact writeChunks_wf (zeroRange_wf h)
  · exact zeroRange_wf h

theorem saveArea_wf {p : Pair} (h : MemoryCanonical s) (e : saveArea s p = some t) : MemoryCanonical t := by
  unfold saveArea at e
  dsimp only at e
  obtain ⟨u, e, e'⟩ := Option.map_eq_some_iff.mp e
  cases e'
  exact updPair_wf (State.onExec_wf (updCtx_wf (writePairArea_wf h)))

theorem sendAway_wf {o : PlaceSrc} {images : List (Nat × Nat)} (h : MemoryCanonical s) : MemoryCanonical (sendAway s o images) := h

theorem savePair_wf {p : Pair} (h : MemoryCanonical s) (e : savePair s p = some t) : MemoryCanonical t := by
  unfold savePair at e
  obtain ⟨u, e, e'⟩ := Option.map_eq_some_iff.mp e
  cases e'
  exact assayAdd_wf _ _ _ (sendAway_wf (saveArea_wf h ‹_›))

theorem parkStream_wf {p : PressCtx} (h : MemoryCanonical s) : MemoryCanonical (parkStream s p) := by
  unfold parkStream
  dsimp only
  refine updPress_wf ?_
  split
  · refine scoreLeave_wf ?_
    split
    · exact pressBreak_wf (updPress_wf (freeUnit_wf h))
    · exact freeUnit_wf h
  · split
    · exact pressBreak_wf (updPress_wf (freeUnit_wf h))
    · exact freeUnit_wf h

theorem saveMembers_wf {is : List Nat} (h : MemoryCanonical s) (e : saveMembers s is = some t) : MemoryCanonical t := by
  induction is generalizing s with
  | nil => cases e; exact h
  | cons i is ih =>
    unfold saveMembers at e
    split at e
    · cases e
    · split at e
      · cases e
      · exact ih (saveArea_wf h ‹_›) e

theorem saveUnits_wf {co : Cohort} {n : Nat} {cores : List Nat} (h : MemoryCanonical s)
    (e : saveUnits s co n cores = some t) : MemoryCanonical t := by
  induction cores generalizing s n with
  | nil => cases e; exact h
  | cons k ks ih =>
    unfold saveUnits at e
    dsimp only at e
    split at e
    · cases e
    · exact ih (updCohort_wf (updCtx_wf (writeUnit_wf h))) e

theorem saveCohort_wf {co : Cohort} (h : MemoryCanonical s) (e : saveCohort s co = some t) : MemoryCanonical t := by
  unfold saveCohort at e
  dsimp only at e
  split at e
  · cases e
  · split at e
    · cases e
    · cases e
      exact assayAdd_wf _ _ _ (updCohort_wf (sendAway_wf (State.onExec_wf (saveUnits_wf (saveMembers_wf (foldl_wf (fun _ _ h =>
        parkStream_wf h) _ h) ‹_›) ‹_›))))

theorem saveTarget_wf {t0 : PlaceSrc} (h : MemoryCanonical s) (e : saveTarget s t0 = some t) : MemoryCanonical t := by
  unfold saveTarget at e
  split at e
  · split at e
    · split at e
      · exact savePair_wf h e
      · cases e
    · cases e
  · split at e
    · split at e
      · exact saveCohort_wf h e
      · cases e
    · cases e
  · cases e

theorem readPoison_wf {p : Pair} {base : Nat} (h : MemoryCanonical s) : MemoryCanonical (readPoison s p base) := by
  unfold readPoison
  refine foldl_wf (fun _ _ h => ?_) _ h
  split
  · exact h
  · dsimp only
    exact updPair_wf (updOp_wf h)

theorem restoreCopies_wf {pair : Nat} (h : MemoryCanonical s) : MemoryCanonical (restoreCopies s pair) := by
  unfold restoreCopies
  split
  · exact h
  · dsimp only
    refine foldl_wf (fun _ _ h => ?_) _ h
    split
    · exact scoreEnter_wf (scoreLeave_wf h)
    · exact scoreLeave_wf h

theorem restorePair_wf {p : Pair} {k core part : Nat} (h : MemoryCanonical s) : MemoryCanonical (restorePair s p k core part) := by
  unfold restorePair
  dsimp only
  exact foldl_wf (fun _ _ h => growGroup_wf h) _ (updCtx_wf (updPair_wf (State.onExec_wf (readPoison_wf h))))

theorem refusalRecord_wf {c k off : Nat} (h : MemoryCanonical s) : MemoryCanonical (refusalRecord s c k off) := faultRecord_wf h

theorem returnSpad_wf {p : Pair} {core : Nat} (h : MemoryCanonical s) (e : returnSpad s p core = some t) : MemoryCanonical t := by
  unfold returnSpad at e
  split at e
  · cases e; exact h
  · obtain ⟨u, e, e'⟩ := Option.map_eq_some_iff.mp e
    cases e'
    dsimp only
    exact restoreCopies_wf (State.onExec_wf h)

/-! #### The operations of Machine/Placement -/

theorem placeMembers_wf {l : Launch} {j core part cohort : Nat} {ms x : List Nat} (h : MemoryCanonical s)
    (e : placeMembers s l j core part cohort ms = some (t, x)) : MemoryCanonical t := by
  induction ms generalizing s x with
  | nil => cases e; exact h
  | cons m ms ih =>
    unfold placeMembers at e
    dsimp only at e
    split at e
    · cases e
    · obtain ⟨u, hu, e'⟩ := Option.map_eq_some_iff.mp e
      cases e'
      exact ih (placePair_wf h rfl) hu

theorem placeParts_wf {l : Launch} {cohort : Nat} {ks : List Nat} (h : MemoryCanonical s)
    (e : placeParts s l cohort ks = some t) : MemoryCanonical t := by
  induction ks generalizing s with
  | nil => cases e; exact h
  | cons k ks ih =>
    unfold placeParts at e
    split at e
    · cases e
    · have hu := placeAlloc_wf h ‹_›
      split at e
      · exact ih hu e
      · split at e
        · cases e
        · exact ih (State.onExec_wf hu) e

theorem placeCohort_wf {l : Launch} {j core part : Nat} (h : MemoryCanonical s) (e : placeCohort s l j core part = some t) :
    MemoryCanonical t := by
  unfold placeCohort at e
  dsimp only at e
  split at e
  · cases e
  · split at e
    · cases e
    · obtain ⟨u, e, e'⟩ := Option.map_eq_some_iff.mp e
      cases e'
      exact State.onExec_wf (placeParts_wf (placeMembers_wf (fresh_wf h rfl) ‹_›) ‹_›)

theorem placeUnit_wf {l : Launch} {core part : Nat} (h : MemoryCanonical s) (e : placeUnit s l core part = some t) : MemoryCanonical t := by
  unfold placeUnit at e
  split at e
  · exact placeCohort_wf h e
  · split at e
    · cases e
    · split at e
      · cases e
      · split at e
        exact placeAlloc_wf (placePair_wf h ‹_›) e

theorem placeHead_wf {q core part : Nat} (h : MemoryCanonical s) (e : placeHead s q core part = some t) : MemoryCanonical t := by
  unfold placeHead at e
  split at e
  · cases e
  · split at e
    · cases e
    · obtain ⟨u, e, e'⟩ := Option.map_eq_some_iff.mp e
      cases e'
      dsimp only
      split
      · exact State.onHost_wf (State.onHost_wf (updLaunch_wf (placeUnit_wf h ‹_›)))
      · exact State.onHost_wf (updLaunch_wf (placeUnit_wf h ‹_›))

theorem placeSavedPair_wf {p : Pair} {core part : Nat} (h : MemoryCanonical s) (e : placeSavedPair s p core part = some t) :
    MemoryCanonical t := by
  unfold placeSavedPair at e
  split at e
  · cases e
  · split at e
    · cases e
    · split at e
      · cases e; exact updPair_wf (refusalRecord_wf h)
      · split at e
        · cases e
        · exact returnSpad_wf (restorePair_wf h) e

theorem restoreMembers_wf {co : Cohort} {core part : Nat} {is : List Nat} (h : MemoryCanonical s)
    (e : restoreMembers s co core part is = some t) : MemoryCanonical t := by
  induction is generalizing s with
  | nil => cases e; exact h
  | cons i is ih =>
    unfold restoreMembers at e
    split at e
    · cases e
    · dsimp only at e
      split at e
      · exact ih (restorePair_wf h) e
      · cases e

theorem restoreParts_wf {co : Cohort} {scratch : Nat} {rs : List (Nat × Nat × Nat)} (h : MemoryCanonical s)
    (e : restoreParts s co scratch rs = some t) : MemoryCanonical t := by
  induction rs generalizing s with
  | nil => cases e; exact h
  | cons r rs ih =>
    unfold restoreParts at e
    dsimp only at e
    split at e
    · cases e
    · have hu := placeAlloc_wf h ‹_›
      split at e
      · exact ih (State.onExec_wf hu) e
      · split at e
        · cases e
        · exact ih (State.onExec_wf (State.onExec_wf hu)) e

theorem placeSavedCohort_wf {co : Cohort} {core part : Nat} (h : MemoryCanonical s) (e : placeSavedCohort s co core part = some t) :
    MemoryCanonical t := by
  unfold placeSavedCohort at e
  dsimp only at e
  split at e
  · cases e
  · split at e
    · cases e; exact updCohort_wf (refusalRecord_wf h)
    · split at e
      · cases e
      · obtain ⟨u, e, e'⟩ := Option.map_eq_some_iff.mp e
        cases e'
        exact updCtx_wf (updCohort_wf (foldl_wf (fun _ _ h => restoreCopies_wf h) _ (restoreParts_wf (State.onExec_wf (restoreMembers_wf h
          ‹_›)) ‹_›)))

theorem setMail_wf {slot : Nat} {ws : List (Nat × Dword)} (h : MemoryCanonical s) : MemoryCanonical (setMail s slot ws) := by
  unfold setMail
  dsimp only
  exact State.onMysko_wf h

theorem mailTake_wf {slot : Nat} (h : MemoryCanonical s) : MemoryCanonical (mailTake s slot) := State.onMysko_wf (setMail_wf h)

theorem mailDone_wf {slot status : Nat} (h : MemoryCanonical s) : MemoryCanonical (mailDone s slot status) := by
  unfold mailDone
  dsimp only
  exact setEvent_wf (setMail_wf (mailTake_wf h))

theorem mailReply_wf {slot : Nat} {ws : List (Nat × Dword)} (h : MemoryCanonical s) :
    MemoryCanonical (mailReply s slot ws) := mailDone_wf (setMail_wf h)

theorem finishWaiting_wf {c status : Nat} (h : MemoryCanonical s) : MemoryCanonical (finishWaiting s c status) := by
  unfold finishWaiting
  dsimp only
  exact updCtx_wf (foldl_wf (fun _ _ h => mailDone_wf h) _ h)

theorem removePair_wf {pair : Nat} (h : MemoryCanonical s) : MemoryCanonical (removePair s pair) := by
  unfold removePair
  dsimp only
  refine State.onExec_wf ?_
  split
  · exact updCtx_wf h
  · exact h

theorem removeRegions_wf {l : Launch} (h : MemoryCanonical s) : MemoryCanonical (removeRegions s l) := by
  unfold removeRegions
  refine foldl_wf (fun _ _ h => ?_) _ h
  split
  · split
    · exact removeRegion_wf h
    · exact h
  · exact h

theorem launchesOver_wf (h : MemoryCanonical s) : MemoryCanonical (launchesOver s) := by
  unfold launchesOver
  refine foldl_wf (fun _ _ h => ?_) _ h
  split
  · exact h
  · exact State.onExec_wf (removeRegions_wf h)

theorem unitRetired_wf {launch : Nat} (h : MemoryCanonical s) : MemoryCanonical (unitRetired s launch) := by
  unfold unitRetired
  split
  · exact h
  · dsimp only
    refine launchesOver_wf (updLaunch_wf ?_)
    split
    · exact h
    · exact sendDec_wf h

theorem cohortStep_wf {co : Cohort} (h : MemoryCanonical s) (e : cohortStep s co = some t) : MemoryCanonical t := by
  unfold cohortStep at e
  dsimp only at e
  split at e
  · split at e
    · cases e
    · split at e <;> (cases e; exact updCohort_wf h)
  · split at e
    · cases e; exact updCohort_wf h
    · split at e
      · cases e; exact updCohort_wf (foldl_wf (fun _ _ h => pressOrphan_wf (parkStream_wf h)) _ h)
      · cases e
  · split at e
    · cases e
    · cases e; exact unitRetired_wf (State.onExec_wf (foldl_wf (fun _ _ h => removePair_wf h) _ h))
  · cases e

/-! #### The operations of Machine/HostIf -/

theorem updHwQueue_wf {q : Nat} {f : HwQueue → HwQueue} (h : MemoryCanonical s) : MemoryCanonical (updHwQueue s q f) := h
theorem setQerr_wf {q bit : Nat} (h : MemoryCanonical s) : MemoryCanonical (setQerr s q bit) := h

theorem writeQbase_wf {q : Nat} {v : Dword} (h : MemoryCanonical s) : MemoryCanonical (writeQbase s q v) := by
  unfold writeQbase
  split
  · exact setQerr_wf h
  · exact updHwQueue_wf h

theorem writeQctl_wf {q w : Nat} (h : MemoryCanonical s) : MemoryCanonical (writeQctl s q w) := by
  unfold writeQctl
  dsimp only
  split
  · exact setQerr_wf h
  · split
    · exact setQerr_wf h
    · split
      · exact updHwQueue_wf h
      · exact setQerr_wf (updHwQueue_wf h)

theorem writeQerr_wf {q : Nat} {v : Dword} (h : MemoryCanonical s) : MemoryCanonical (writeQerr s q v) := h

theorem writeDoorbell_wf {q : Nat} {w : Word} (h : MemoryCanonical s) : MemoryCanonical (writeDoorbell s q w) := by
  unfold writeDoorbell
  dsimp only
  split
  · exact setQerr_wf h
  · split
    · exact setQerr_wf h
    · exact updHwQueue_wf h

theorem writeMsix_wf {k : Nat} {v : Dword} (h : MemoryCanonical s) : MemoryCanonical (writeMsix s k v) := by
  unfold writeMsix
  dsimp only
  split
  · exact State.onHost_wf (State.onHost_wf h)
  · exact State.onHost_wf h

theorem writeRegister_wf {off : Nat} {v : Dword} (h : MemoryCanonical s) : MemoryCanonical (writeRegister s off v) := by
  unfold writeRegister
  split
  · dsimp only
    exact State.onHost_wf h
  · split
    · exact writeMsix_wf h
    · exact h

theorem bar0Write_wf {off : Nat} {bs : List Byte} (h : MemoryCanonical s) : MemoryCanonical (bar0Write s off bs) := by
  unfold bar0Write
  dsimp only
  split
  · exact h
  · split
    · exact h
    · split
      · split
        · exact writeQbase_wf h
        · exact writeQctl_wf h
        · exact h
        · exact writeQerr_wf h
      · split
        · exact writeDoorbell_wf h
        · split <;> exact writeRegister_wf h

theorem clearEvents_wf {v : Dword} (h : MemoryCanonical s) : MemoryCanonical (clearEvents s v) := State.onMysko_wf h

theorem slotWrite_wf {slot off : Nat} {bs : List Byte} (h : MemoryCanonical s) : MemoryCanonical (slotWrite s slot off bs) := by
  unfold slotWrite
  dsimp only
  split
  · split
    · exact clearEvents_wf h
    · exact h
  · split
    · exact h
    · split
      · exact State.onMysko_wf (setMail_wf h)
      · exact setMail_wf h

theorem mailWrite_wf {off : Nat} {bs : List Byte} (h : MemoryCanonical s) : MemoryCanonical (mailWrite s off bs) := by
  unfold mailWrite
  refine foldl_wf (fun _ _ h => ?_) _ h
  dsimp only
  split
  · exact slotWrite_wf h
  · exact h

theorem replyHost_wf {r : HostReply} (h : MemoryCanonical s) : MemoryCanonical (replyHost s r) := h

theorem readLocal_wf {c : Nat} {a : Dword} {n : Nat} {x : List Byte} (h : MemoryCanonical s) (e : readLocal s c a n = some (t, x)) :
    MemoryCanonical t := by
  unfold readLocal at e
  split at e
  · cases e; exact h
  · split at e
    · cases e
    · split at e
      · cases e
      · dsimp only at e
        cases e; exact foldl_wf (fun _ _ h => homeRead_wf _ _ _ h) _ (loadBytes_wf h ‹_›)

theorem registerAll_wf {c : Nat} {rs : List Region} (h : MemoryCanonical s) (e : registerAll s c rs = some t) :
    MemoryCanonical t := by
  induction rs generalizing s with
  | nil => cases e; exact h
  | cons r rs ih =>
    unfold registerAll at e
    split at e
    · cases e
    · obtain ⟨u, hu, e⟩ := Option.bind_eq_some_iff.mp e
      exact ih (registerRegion_wf h hu) e

theorem acceptPacket_wf {q c : Nat} {index : Nat} {p : List Byte} {x : Launch} (h : MemoryCanonical s)
    (e : acceptPacket s q c index p = .ok (t, x)) :
    MemoryCanonical t := by
  unfold acceptPacket at e
  dsimp only at e
  split at e
  · cases e
  · split at e
    · cases e
    · split at e
      · cases e
      · split at e
        · cases e
        · split at e
          · split at e
            · cases e
            · split at e
              · cases e
              · split at e
                · cases e
                · split at e
                  · cases e
                  · split at e
                    · cases e
                    · split at e
                      · cases e
                      · cases e; exact registerAll_wf (fresh_wf (readLocal_wf h ‹_›) rfl) ‹_›
          · split at e
            · cases e
            · split at e
              · cases e
              · split at e
                · cases e
                · split at e
                  · cases e
                  · split at e
                    · cases e
                    · split at e
                      · cases e
                      · cases e; exact registerAll_wf (fresh_wf (readLocal_wf h ‹_›) rfl) ‹_›

theorem writeStatus_wf {c : Nat} {a : Dword} {status : Nat} (h : MemoryCanonical s) : MemoryCanonical (writeStatus s c a status) := by
  unfold writeStatus
  split
  · exact homeStore_wf h ‹_›
  · exact h

theorem depReads_wf {l : Launch} (h : MemoryCanonical s) : MemoryCanonical (depReads s l) := foldl_wf (fun _ _ h => homeRead_wf _ _ _ h) _ h

/-! #### The operations of Machine/Contexts -/

theorem formMembers_wf {c : Nat} (h : MemoryCanonical s) : MemoryCanonical (formMembers s c) := by
  unfold formMembers
  dsimp only
  exact updCtx_wf h

theorem dropContextLines_wf {c : Nat} (h : MemoryCanonical s) : MemoryCanonical (dropContextLines s c) := by
  unfold dropContextLines
  dsimp only
  exact State.onMemory_wf (foldl_wf (fun _ _ h => l2Leave_wf _ h) _ h)

theorem giveCores_wf {cores : List Nat} {c : Nat} (h : MemoryCanonical s) :
    MemoryCanonical (giveCores s cores c) := foldl_wf (fun _ _ h => updCore_wf h) _ h

theorem drainRecord_wf {core : Nat} (h : MemoryCanonical s) (e : drainRecord s core = some t) : MemoryCanonical t := by
  unfold drainRecord at e
  extract_lets k at e
  split at e
  · cases e
  · split at e
    · cases e
    · extract_lets bytes u v at e
      have hu : MemoryCanonical u := physWrite_wf _ _ h
      have hv : MemoryCanonical v := physWrite_wf _ _ hu
      exact Option.some.inj e ▸ updCore_wf hv

theorem drainOne_wf {core : Nat} (h : MemoryCanonical s) (e : drainOne s core = some t) : MemoryCanonical t := by
  unfold drainOne at e
  dsimp only at e
  split at e
  · cases e
  · exact drainRecord_wf h e

theorem drainAll_wf {n core : Nat} (h : MemoryCanonical s) : MemoryCanonical (drainAll n s core) := by
  induction n generalizing s with
  | zero => exact h
  | succ n ih =>
    unfold drainAll
    split
    · exact ih (drainRecord_wf h ‹_›)
    · exact h

theorem leaveCore_wf {core : Nat} (h : MemoryCanonical s) : MemoryCanonical (leaveCore s core) := h

theorem endIdleGroups_wf {c : Nat} (h : MemoryCanonical s) : MemoryCanonical (endIdleGroups s c) := by
  unfold endIdleGroups
  refine foldl_wf (fun _ _ h => discardEnded_wf ?_) _ h
  split
  · exact h
  · exact groupEnd_wf h

theorem discardSaved_wf {c : Nat} (h : MemoryCanonical s) : MemoryCanonical (discardSaved s c) := by
  unfold discardSaved
  dsimp only
  exact updCtx_wf (State.onExec_wf (foldl_wf (fun _ _ h => removePair_wf h) _ h))

theorem dropHoldings_wf {c : Nat} (h : MemoryCanonical s) : MemoryCanonical (dropHoldings s c) := by
  unfold dropHoldings
  dsimp only
  refine updCtx_wf (foldl_wf (fun _ _ h => ?_) _ (State.onFabric_wf (foldl_wf (fun _ _ h => removeRegion_wf h) _ (foldl_wf (fun _ _ h =>
    resolveCtl_wf (endLease_wf ?_)) _ h))))
  · split
    · exact markEntry_wf h
    · exact h
  · split
    · exact h
    · exact leaseOut_wf h

theorem dropLaunches_wf {c : Nat} (h : MemoryCanonical s) : MemoryCanonical (dropLaunches s c) := by
  unfold dropLaunches
  dsimp only
  exact State.onHost_wf (foldl_wf (fun _ _ h => updPress_wf (parkStream_wf h)) _ h)

theorem endContext_wf {c : Nat} (h : MemoryCanonical s) : MemoryCanonical (endContext s c) := by
  unfold endContext
  dsimp only
  exact dropHoldings_wf (discardSaved_wf (dropLaunches_wf (endIdleGroups_wf (updCtx_wf h))))

theorem invalidate_wf {c o n : Nat} {glob : Bool} (h : MemoryCanonical s) : MemoryCanonical (invalidate s c o n glob) := by
  unfold invalidate
  dsimp only
  split
  · exact evictRange_wf (evictRange_wf (State.onMemory_wf h))
  · exact evictRange_wf (State.onMemory_wf h)

theorem runInval_wf {slot c o n : Nat} {glob : Bool} (h : MemoryCanonical s) : MemoryCanonical (runInval s slot c o n glob) := by
  unfold runInval
  dsimp only
  split
  · exact mailDone_wf (invalidate_wf h)
  · exact mailTake_wf (updCtx_wf (invalidate_wf h))

theorem windowDone_wf {slot c k : Nat} (h : MemoryCanonical s) : MemoryCanonical (windowDone s slot c k) := mailDone_wf (updCtx_wf h)

/-! #### The operations of Machine/Bringup -/

theorem enterPhase_wf {p : Phase} (h : MemoryCanonical s) : MemoryCanonical (enterPhase s p) := sendMsix_wf (State.onMysko_wf h)
theorem resetMasks_wf {index : Nat} (h : MemoryCanonical s) : MemoryCanonical (resetMasks s index) := h
theorem clearOffset_wf (h : MemoryCanonical s) : MemoryCanonical (clearOffset s) := State.onMysko_wf h

theorem endDomain_wf (h : MemoryCanonical s) : MemoryCanonical (endDomain s) := by
  unfold endDomain
  dsimp only
  exact State.onFabric_wf (clearOffset_wf (resetMasks_wf (foldl_wf (fun _ _ h => dropPeerLeases_wf h) _ h)))

theorem installDomain_wf {index count : Nat} {lanes : List (BitVec 16)} {ps : List (Nat × Nat × Nat)} (h : MemoryCanonical s) :
    MemoryCanonical (installDomain s index count lanes ps) := by
  unfold installDomain
  dsimp only
  exact State.onFabric_wf (resetMasks_wf (endDomain_wf h))

theorem sendProbes_wf {ps : List (Nat × Nat × Nat)} (h : MemoryCanonical s) :
    MemoryCanonical (sendProbes s ps) := foldl_wf (fun _ _ h => foldl_wf (fun _ _ h => sendOut_wf h) _ h) _ h

theorem endAllContexts_wf (h : MemoryCanonical s) : MemoryCanonical (endAllContexts s) := by
  unfold endAllContexts
  refine foldl_wf (fun _ _ h => ?_) _ h
  split
  · exact endContext_wf h
  · exact h

theorem timeStep_wf (h : MemoryCanonical s) : MemoryCanonical (timeStep s) := by
  unfold timeStep
  dsimp only
  split <;> exact State.onMysko_wf (mk_wf h)

/-! #### The operations of Machine/Records -/

theorem nextSequence_wf {x : Nat} (h : MemoryCanonical s) (e : nextSequence s = (x, t)) : MemoryCanonical t := by
  unfold nextSequence at e
  dsimp only at e
  cases e; exact State.onMysko_wf h

theorem sealGroup_wf {o : Op} {signal : Dword} (h : MemoryCanonical s) : MemoryCanonical (sealGroup s o signal) := by
  unfold sealGroup
  rcases hn : nextSequence s with ⟨n, u⟩
  have hu : MemoryCanonical u := nextSequence_wf h hn
  dsimp only
  split
  · exact updOp_wf hu
  · rename_i t ht
    have hw : MemoryCanonical t := by
      split at ht
      · cases ht
      · rename_i v hv
        have hv : MemoryCanonical v := by
          split at hv
          · exact storeBytes_wf hu hv
          · cases hv
        cases hs : signalLower v o.ctx signal 1 with
        | error m => rw [hs] at ht; cases ht
        | ok w => rw [hs] at ht; cases ht; exact hv
    exact finishOp_wf (updOp_wf (sendDec_wf (updCtx_wf (foldl_wf (fun s l h => touchLine_wf (snoop_wf h)) _ hw))))

theorem endFenced_wf {core : Nat} {g : Group} (h : MemoryCanonical s) : MemoryCanonical (endFenced s core g) := by
  unfold endFenced
  dsimp only
  exact groupEnd_wf (faultRecord_wf (foldl_wf (fun _ _ h => freeUnit_wf h) _ h))

theorem endStreams_wf {ps : List PressCtx} (h : MemoryCanonical s) : MemoryCanonical (endStreams s ps) := by
  unfold endStreams
  refine foldl_wf (fun _ _ h => ?_) _ h
  dsimp only
  exact updPress_wf (foldl_wf (fun _ _ h => scoreLeave_wf h) _ (parkStream_wf h))

theorem fenceCore_wf {core : Nat} {passed : List Nat} (h : MemoryCanonical s) : MemoryCanonical (fenceCore s core passed) := by
  unfold fenceCore
  dsimp only
  split
  · exact endStreams_wf (foldl_wf (fun _ _ h => endFenced_wf h) _ (updCore_wf h))
  · exact updCtx_wf (leaveCore_wf (drainAll_wf (endStreams_wf (foldl_wf (fun _ _ h => endFenced_wf h) _ (updCore_wf h)))))

theorem fence_wf {r : ErrReport} (h : MemoryCanonical s) : MemoryCanonical (fence s r) := by
  unfold fence
  split
  · exact fenceCore_wf h
  · split
    · exact State.onMysko_wf h
    · exact State.onMysko_wf (endAllContexts_wf h)
  · exact State.onMysko_wf (foldl_wf (fun s l h => l2Leave_wf l h) _ h)
  · exact fenceSet_wf h
  · exact State.onMysko_wf (State.onFabric_wf h)
  · exact h

theorem sampleUnit_wf {core unit : Nat} (h : MemoryCanonical s) : MemoryCanonical (sampleUnit s core unit) := by
  unfold sampleUnit
  split
  · exact traceEnter_wf h
  · dsimp only
    exact traceEnter_wf (updSched_wf h)

theorem pressRelease_wf {p : PressCtx} (h : MemoryCanonical s) : MemoryCanonical (pressRelease s p) := by
  unfold pressRelease
  dsimp only
  split
  · exact updPress_wf h
  · exact updCohort_wf h

/-! #### The operations of Machine/Clock -/

theorem issuerFetch_wf (h : MemoryCanonical s) : MemoryCanonical (issuerFetch s) := by
  unfold issuerFetch
  split
  · exact h
  · rename_i c u _
    cases hf : fetchChosen s c u with
    | none => exact mk_wf h
    | some t => exact fetchChosen_wf h hf

theorem cycleStep_wf (h : MemoryCanonical s) : MemoryCanonical (cycleStep s) := by
  unfold cycleStep
  dsimp only
  exact State.onExec_wf (pressCycle_wf (idleCycle_wf (windowCycle_wf (foldl_wf (fun _ _ h => assayAdd_wf _ _ _ (updPair_wf h)) _ h))))

theorem ownedTick_wf (h : MemoryCanonical s) : MemoryCanonical (ownedTick s) := foldl_wf (fun _ _ h => assayAdd_wf _ _ _ h) _ h

theorem passTick_wf (h : MemoryCanonical s) : MemoryCanonical (passTick s) := by
  unfold passTick
  dsimp only
  refine mk_wf (timeStep_wf (ownedTick_wf ?_))
  split
  · exact cycleStep_wf h
  · exact h

/-! #### Outcomes -/

theorem issueWord_keeps {i : Instr} {act : State → Slot → Act} (ha : ∀ s sl, MemoryCanonical s → ActWf (act s sl)) :
    Keeps s (issueWord s i act) := by
  unfold issueWord
  split
  · exact .refused _
  · split
    · exact .next fun h => headGate_wf h ‹_›
    · exact .next fun h => settle_wf h (ha _ _ (noteIssued_wf h))

theorem issuePress_keeps {i : Instr} {act : State → PSlot → PAct} (ha : ∀ s ps, MemoryCanonical s → PActWf (act s ps)) :
    Keeps s (issuePress s i act) := by
  unfold issuePress
  split
  · exact .refused _
  · exact .next fun h => pressSettle_wf h (ha _ _ h)

theorem event_keeps {o : Option State} (ho : ∀ t, MemoryCanonical s → o = some t → MemoryCanonical t) : Keeps s (event o) := by
  cases o with
  | none => exact .refused _
  | some t => exact .next fun h => ho t h rfl

theorem eventIf_keeps {c : Bool} (h : MemoryCanonical s → MemoryCanonical t) : Keeps s (eventIf c t) := by
  cases c with
  | true => exact .next h
  | false => exact .refused _

theorem command_keeps {slot status : Nat} {phases : List Phase} (h : MemoryCanonical s → MemoryCanonical t) :
    Keeps s (command s slot phases status t) := by
  unfold command
  split
  · exact .refused _
  · split
    · exact .next id
    · split
      · exact .refused _
      · split
        · exact .next fun h => mailDone_wf h
        · split
          · exact .next fun h => mailDone_wf h
          · exact .next h

theorem hostWrite_keeps {q : Nat} (h : MemoryCanonical s → MemoryCanonical t) : Keeps s (hostWrite s q t) := by
  unfold hostWrite
  split
  · exact .refused _
  · split
    · exact .next h
    · exact .next id

/-- An outcome of a state that a canonical one leaves canonical. -/
theorem Keeps.trans {o : Host.Outcome State Fault Refusal} (h : MemoryCanonical s → MemoryCanonical t) (k : Keeps t o) :
    Keeps s o := by
  cases k with
  | next k => exact .next fun hs => k (h hs)
  | refused r => exact .refused r

/-! #### The words and events of Machine/VecInt -/

theorem issueVec_keeps {i : Instr} {h0 : Head} {v : Slot → Lanes} : Keeps s (issueVec i h0 v s) := by
  unfold issueVec
  refine issueWord_keeps fun _ _ h => ?_
  exact .done (popPorts_wf (writeVec_wf h))

theorem issuePred_keeps {i : Instr} {h0 : Head} {v : Slot → Mask} : Keeps s (issuePred i h0 v s) := by
  unfold issuePred
  refine issueWord_keeps fun _ _ h => ?_
  exact .done (popPorts_wf (writePredLanes_wf h))

theorem intA_keeps {i : Instr} {f : FmtA} {op : Nat → Nat → Nat → Nat → Nat} : Keeps s (intA i f op s) := issueVec_keeps
theorem intI_keeps {i : Instr} {f : FmtI} {op : Nat → Nat → Nat → Nat → Nat} : Keeps s (intI i f op s) := issueVec_keeps

theorem issueCarry_keeps {i : Instr} {h0 : Head} {pc : Nat} {op : Nat → Nat → Nat → Nat → Nat × Bool} {ab : Slot → Lanes × Lanes} :
    Keeps s (issueCarry i h0 pc op ab s) := by
  unfold issueCarry
  refine issueWord_keeps fun _ _ h => ?_
  dsimp only
  exact .done (popPorts_wf (updGroup_wf (writeVec_wf h)))

/-! #### The words and events of Machine/VecFloat -/

theorem fltOpA_keeps {i : Instr} {f : FmtA} {op : Nat → Nat → Nat → Nat} : Keeps s (fltOpA i f op s) := issueVec_keeps
theorem fltOpI_keeps {i : Instr} {f : FmtI} {op : Nat → Nat → Nat → Nat} : Keeps s (fltOpI i f op s) := issueVec_keeps

/-! #### The words and events of Machine/Convert -/

theorem execCvtef_keeps {f : FmtA} : Keeps s (execCvtef f s) := by
  unfold execCvtef
  refine issueWord_keeps fun _ _ h => ?_
  dsimp only
  exact .done (popPorts_wf (updGroup_wf (writeVec_wf h)))

/-! #### The words and events of Machine/GlobalMem -/

theorem execLdv_keeps {f : FmtM} : Keeps s (execLdv f s) := by
  unfold execLdv
  refine issueWord_keeps fun _ _ h => ?_
  dsimp only
  exact loadAct_wf h

theorem execLdp_keeps {f : FmtM} : Keeps s (execLdp f s) := by
  unfold execLdp
  refine issueWord_keeps fun _ _ h => ?_
  dsimp only
  exact loadAct_wf h

theorem execGrld_keeps {f : FmtM} : Keeps s (execGrld f s) := by
  unfold execGrld
  refine issueWord_keeps fun _ _ h => ?_
  dsimp only
  exact loadAct_wf h

theorem execPfetch_keeps {f : FmtM} : Keeps s (execPfetch f s) := by
  unfold execPfetch
  refine issueWord_keeps fun _ _ h => ?_
  dsimp only
  split
  · exact .done (sendRequests_wf h)
  · exact .done (sendOp_wf (sendRequests_wf h))

theorem execSt_keeps {f : FmtM} : Keeps s (execSt f s) := by
  unfold execSt
  refine issueWord_keeps fun _ _ h => ?_
  dsimp only
  split
  · exact .cause h
  · split
    · split
      · exact .stall
      · split
        · exact .done (popPorts_wf h)
        · exact .done (pendStore_wf (sendOp_wf (popPorts_wf h)))
    · split
      · exact .stall
      · split
        · exact .done (popPorts_wf h)
        · exact .done (pendStore_wf (sendOp_wf (popPorts_wf h)))

theorem execStq_keeps {f : FmtM} : Keeps s (execStq f s) := by
  unfold execStq
  refine issueWord_keeps fun _ _ h => ?_
  dsimp only
  split
  · split
    · exact .stall
    · exact .done (updQueue_wf (sendOp_wf (capture_wf h)))
  · split
    · exact .stall
    · exact .done (updQueue_wf (sendOp_wf (capture_wf h)))

/-! #### The words and events of Machine/Atomics -/

theorem execAadd_keeps {f : FmtM} : Keeps s (execAadd f s) := by
  unfold execAadd
  refine issueWord_keeps fun _ _ h => ?_
  exact atomicAct_wf h

theorem execAsub_keeps {f : FmtM} : Keeps s (execAsub f s) := by
  unfold execAsub
  refine issueWord_keeps fun _ _ h => ?_
  exact atomicAct_wf h

theorem execAand_keeps {f : FmtM} : Keeps s (execAand f s) := by
  unfold execAand
  refine issueWord_keeps fun _ _ h => ?_
  exact atomicAct_wf h

theorem execAor_keeps {f : FmtM} : Keeps s (execAor f s) := by
  unfold execAor
  refine issueWord_keeps fun _ _ h => ?_
  exact atomicAct_wf h

theorem execAxor_keeps {f : FmtM} : Keeps s (execAxor f s) := by
  unfold execAxor
  refine issueWord_keeps fun _ _ h => ?_
  exact atomicAct_wf h

theorem execAmin_keeps {f : FmtM} : Keeps s (execAmin f s) := by
  unfold execAmin
  refine issueWord_keeps fun _ _ h => ?_
  exact atomicAct_wf h

theorem execAmax_keeps {f : FmtM} : Keeps s (execAmax f s) := by
  unfold execAmax
  refine issueWord_keeps fun _ _ h => ?_
  exact atomicAct_wf h

theorem execAminu_keeps {f : FmtM} : Keeps s (execAminu f s) := by
  unfold execAminu
  refine issueWord_keeps fun _ _ h => ?_
  exact atomicAct_wf h

theorem execAmaxu_keeps {f : FmtM} : Keeps s (execAmaxu f s) := by
  unfold execAmaxu
  refine issueWord_keeps fun _ _ h => ?_
  exact atomicAct_wf h

theorem execAxchg_keeps {f : FmtM} : Keeps s (execAxchg f s) := by
  unfold execAxchg
  refine issueWord_keeps fun _ _ h => ?_
  exact atomicAct_wf h

theorem execAcas_keeps {f : FmtM} : Keeps s (execAcas f s) := by
  unfold execAcas
  refine issueWord_keeps fun _ _ h => ?_
  exact atomicAct_wf h

theorem execFadd_keeps {f : FmtM} : Keeps s (execFadd f s) := by
  unfold execFadd
  refine issueWord_keeps fun _ _ h => ?_
  exact atomicAct_wf h

theorem execMxacc_keeps {f : FmtM} : Keeps s (execMxacc f s) := by
  unfold execMxacc
  refine issueWord_keeps fun _ _ h => ?_
  dsimp only
  exact cruxAct_wf h

theorem execMxaccOrd_keeps {f : FmtM} : Keeps s (execMxaccOrd f s) := by
  unfold execMxaccOrd
  refine issueWord_keeps fun _ _ h => ?_
  dsimp only
  exact cruxAct_wf h

theorem execMxld_keeps {f : FmtM} : Keeps s (execMxld f s) := by
  unfold execMxld
  refine issueWord_keeps fun _ _ h => ?_
  dsimp only
  exact cruxAct_wf h

theorem execMxst_keeps {f : FmtM} : Keeps s (execMxst f s) := by
  unfold execMxst
  refine issueWord_keeps fun _ _ h => ?_
  dsimp only
  exact cruxAct_wf h

theorem execFaddOrd_keeps {f : FmtM} : Keeps s (execFaddOrd f s) := by
  unfold execFaddOrd
  refine issueWord_keeps fun _ _ h => ?_
  dsimp only
  exact cruxAct_wf h

/-! #### The words and events of Machine/ScratchMem -/

theorem issueSpadLoad_keeps {i : Instr} {f : FmtM} {cl : Bool} : Keeps s (issueSpadLoad i f cl s) := by
  unfold issueSpadLoad
  refine issueWord_keeps fun _ _ h => ?_
  dsimp only
  exact spadLoadAct_wf h

theorem issueSpadStore_keeps {i : Instr} {f : FmtM} {cl : Bool} : Keeps s (issueSpadStore i f cl s) := by
  unfold issueSpadStore
  refine issueWord_keeps fun _ _ h => ?_
  dsimp only
  refine spadEnd_wf ?_
  split
  · exact popPorts_wf h
  · exact sendOp_wf (popPorts_wf h)

theorem execLdsT_keeps {f : FmtM} : Keeps s (execLdsT f s) := by
  unfold execLdsT
  refine issueWord_keeps fun _ _ h => ?_
  dsimp only
  exact spadLoadAct_wf h

theorem execQcount_keeps {f : FmtM} : Keeps s (execQcount f s) := by
  unfold execQcount
  refine issueWord_keeps fun _ _ h => ?_
  dsimp only
  exact .done (writeUni_wf h)

theorem execQskip_keeps {f : FmtM} : Keeps s (execQskip f s) := by
  unfold execQskip
  refine issueWord_keeps fun _ _ h => ?_
  dsimp only
  split
  · split
    · exact .done (writeUni_wf h)
    · exact .done (writeUni_wf (popQueue_wf h))
  · exact .done (writeUni_wf h)

/-! #### The words and events of Machine/Sync -/

theorem execFence_keeps {f : FmtM} : Keeps s (execFence f s) := by
  unfold execFence
  refine issueWord_keeps fun _ _ h => ?_
  dsimp only
  refine .done ?_
  split
  · refine fenceReads_wf ?_
    split
    · refine fenceAccesses_wf ?_
      split
      · exact fenceReleases_wf h
      · exact h
    · split
      · exact fenceReleases_wf h
      · exact h
  · split
    · refine fenceAccesses_wf ?_
      split
      · exact fenceReleases_wf h
      · exact h
    · split
      · exact fenceReleases_wf h
      · exact h

theorem execWaitc_keeps {f : FmtM} : Keeps s (execWaitc f s) := by
  unfold execWaitc
  refine issueWord_keeps fun _ _ h => ?_
  split
  · exact .done h
  · exact .wait h

theorem execWaitw_keeps {f : FmtM} : Keeps s (execWaitw f s) :=
  issueWord_keeps fun _ _ h => watchAct_wf (fun _ _ h => h) h

theorem execHarrive_keeps {f : FmtM} : Keeps s (execHarrive f s) := by
  unfold execHarrive
  refine issueWord_keeps fun _ _ h => ?_
  exact .done (sendOp_wf h)

theorem execHwait_keeps {f : FmtM} : Keeps s (execHwait f s) := by
  unfold execHwait
  refine issueWord_keeps fun _ _ h => ?_
  split
  · exact .done h
  · exact .wait h

theorem execCjoin_keeps {f : FmtM} : Keeps s (execCjoin f s) := by
  unfold execCjoin
  refine issueWord_keeps fun _ _ h => ?_
  dsimp only
  split
  · exact .done h
  · split
    · exact .done (circleLimit_wf h)
    · split
      · split
        · exact .done (circleLimit_wf h)
        · exact .done (updGroup_wf (State.onExec_wf h))
      · split
        · exact .done (circleLimit_wf h)
        · exact .done (updGroup_wf (State.onExec_wf h))

theorem execCleave_keeps {f : FmtM} : Keeps s (execCleave f s) := by
  unfold execCleave
  refine issueWord_keeps fun _ _ h => ?_
  exact .done (circleLeave_wf h)

theorem execCarrive_keeps {f : FmtM} : Keeps s (execCarrive f s) := by
  unfold execCarrive
  refine issueWord_keeps fun _ _ h => ?_
  dsimp only
  split
  · exact .done h
  · split
    · exact .done (circleArrive_wf (updGroup_wf h))
    · exact .done (sendOp_wf (updGroup_wf h))

theorem execCwait_keeps {f : FmtM} : Keeps s (execCwait f s) := by
  unfold execCwait
  refine issueWord_keeps fun _ _ h => ?_
  split
  · exact .done (updPath_wf h)
  · exact .wait (updPath_wf h)

theorem execSigdec_keeps {f : FmtM} : Keeps s (execSigdec f s) := by
  unfold execSigdec
  refine issueWord_keeps fun _ _ h => ?_
  dsimp only
  split
  · exact .cause h
  · split
    · exact .cause h
    · split
      · split
        · exact .stall
        · exact .done (sendOp_wf h)
      · split
        · exact .stall
        · exact .done (sendOp_wf h)

theorem execWaitsig_keeps {f : FmtM} : Keeps s (execWaitsig f s) := by
  unfold execWaitsig
  refine issueWord_keeps fun _ _ h => ?_
  dsimp only
  split
  · exact .cause h
  · split
    · exact .cause h
    · split
      · exact .done (freeWatch_wf h)
      · exact armWatch_wf h

/-! #### The words and events of Machine/Engines -/

theorem execCopy_keeps {f : FmtM} : Keeps s (execCopy f s) := by
  unfold execCopy
  refine issueWord_keeps fun _ _ h => ?_
  exact copyAct_wf h

theorem execCopyo_keeps {f : FmtM} : Keeps s (execCopyo f s) := by
  unfold execCopyo
  refine issueWord_keeps fun _ _ h => ?_
  exact copyAct_wf h

theorem execCopyc_keeps {f : FmtM} : Keeps s (execCopyc f s) := by
  unfold execCopyc
  refine issueWord_keeps fun _ _ h => ?_
  exact copyAct_wf h

theorem execGclaim_keeps {f : FmtM} : Keeps s (execGclaim f s) := by
  unfold execGclaim
  refine issueWord_keeps fun _ _ h => ?_
  dsimp only
  split
  · exact .stall
  · exact .done (writeUni_wf (setRing_wf h))

theorem execGcommit_keeps {f : FmtM} : Keeps s (execGcommit f s) := by
  unfold execGcommit
  refine issueWord_keeps fun _ _ h => ?_
  exact .done (ringPut_wf h)

theorem execGawait_keeps {f : FmtM} : Keeps s (execGawait f s) := by
  unfold execGawait
  refine issueWord_keeps fun _ _ h => ?_
  split
  · exact .done h
  · exact .wait h

theorem execGretire_keeps {f : FmtM} : Keeps s (execGretire f s) := by
  unfold execGretire
  refine issueWord_keeps fun _ _ h => ?_
  dsimp only
  exact .done (foldl_wf (fun _ _ h => ringPut_wf h) _ h)

theorem execSqpub_keeps {f : FmtM} : Keeps s (execSqpub f s) := by
  unfold execSqpub
  refine issueWord_keeps fun _ _ h => ?_
  dsimp only
  split
  · exact .cause h
  · exact .done (sendOp_wf h)

theorem execSqget_keeps {f : FmtM} : Keeps s (execSqget f s) :=
  issueWord_keeps fun _ _ h => watchAct_wf (fun _ _ h => writeUni_wf h) h

/-! #### The words and events of Machine/Leases -/

theorem execLease_keeps {f : FmtM} : Keeps s (execLease f s) := by
  unfold execLease
  refine issueWord_keeps fun _ _ h => ?_
  dsimp only
  split
  · exact .stall
  · split
    · exact .done (writeUni_wf (sendOp_wf (leaseOut_wf (State.onFabric_wf (putLease_wf h)))))
    · exact .done (settleCtl_wf (writeUni_wf (sendOp_wf h)))

theorem execLeaseDrop_keeps {f : FmtM} : Keeps s (execLeaseDrop f s) := by
  unfold execLeaseDrop
  refine issueWord_keeps fun _ _ h => ?_
  dsimp only
  split
  · exact .stall
  · split
    · exact .done (settleCtl_wf (sendOp_wf h))
    · split
      · exact .done (settleCtl_wf (sendOp_wf (endLease_wf (leaseOut_wf h))))
      · exact .done (settleCtl_wf (sendOp_wf (endLease_wf (leaseOut_wf h))))
      · exact .done (settleCtl_wf (sendOp_wf (updLease_wf h)))
      · exact .done (settleCtl_wf (sendOp_wf h))

theorem execLeaseq_keeps {f : FmtM} : Keeps s (execLeaseq f s) := by
  unfold execLeaseq
  refine issueWord_keeps fun _ _ h => ?_
  split
  · exact .stall
  · exact .done (sendOp_wf h)

theorem execLeaseRequestArrival_keeps {peer lanes term : Nat} {revoking : Bool} :
    Keeps s (execLeaseRequestArrival peer lanes term revoking s) := by
  unfold execLeaseRequestArrival
  split
  · split
    · exact .next fun h => endServed_wf h
    · exact .refused _
  · split
    · exact .refused _
    · dsimp only
      exact .next fun h => State.onFabric_wf h

theorem execLeaseDecision_keeps : Keeps s (execLeaseDecision s) := by
  unfold execLeaseDecision
  split
  · exact .refused _
  · dsimp only
    split
    · exact .refused _
    · split
      · exact .next fun h => leaseOut_wf (updLink_wf (renumber_wf (State.onFabric_wf (fresh_wf h rfl))))
      · split
        · exact .next fun h => State.onFabric_wf (foldl_wf (fun _ _ h => leaseOut_wf (State.onFabric_wf (fresh_wf h rfl))) _ h)
        · exact .next fun h => leaseOut_wf (updLink_wf (State.onFabric_wf h))

theorem execLeaseGrant_keeps {c slot : Nat} {granted : Bool} {notice : Nat} : Keeps s (execLeaseGrant c slot granted notice s) := by
  unfold execLeaseGrant
  split
  · refine eventIf_keeps fun h => ?_
    dsimp only
    split
    · exact leaseOut_wf (updLink_wf h)
    · exact updLink_wf h
  · split
    · exact .refused _
    · split
      · exact eventIf_keeps fun h => updLease_wf h
      · split
        · exact .refused _
        · dsimp only
          refine .next fun h => resolveCtl_wf ?_
          split
          · exact State.onFabric_wf (updLease_wf h)
          · split
            · exact updLink_wf (endLease_wf (leaseOut_wf h))
            · exact changeSets_wf (updLease_wf (fresh_wf h rfl))

theorem execNoticeEnd_keeps {c k : Nat} : Keeps s (execNoticeEnd c k s) := by
  unfold execNoticeEnd
  split
  · split
    · exact .refused _
    · split
      · exact .refused _
      · dsimp only
        exact .next fun h => renumber_wf (State.onFabric_wf h)
  · split
    · exact .refused _
    · split
      · exact .refused _
      · split
        · exact .next fun h => endLease_wf h
        · dsimp only
          exact .next fun h => changeSets_wf (updLease_wf (State.onFabric_wf h))

theorem execLeaseTermExpiry_keeps {c slot : Nat} : Keeps s (execLeaseTermExpiry c slot s) := by
  unfold execLeaseTermExpiry
  split
  · split
    · exact eventIf_keeps fun h => endServed_wf h
    · exact .refused _
  · split
    · exact eventIf_keeps fun h => endLease_wf h
    · exact .refused _

theorem execLaneSetChange_keeps {peer : Nat} : Keeps s (execLaneSetChange peer s) := by
  unfold execLaneSetChange
  split
  · exact .refused _
  · split
    · exact .refused _
    · split
      · exact .refused _
      · dsimp only
        exact .next fun h => resolveCtl_wf (foldl_wf (fun _ _ h => flitsOn_wf (assayAdd_wf _ _ _ h)) _ (renumber_wf (updLink_wf h)))

theorem execPeerLeavesDomain_keeps {peer : Nat} : Keeps s (execPeerLeavesDomain peer s) := eventIf_keeps fun h => dropPeerLeases_wf h

/-! #### The words and events of Machine/Fabric -/

theorem execNmop_keeps {f : FmtM} : Keeps s (execNmop f s) := by
  unfold execNmop
  refine issueWord_keeps fun _ _ h => ?_
  dsimp only
  split
  · exact .cause h
  · split
    · exact .cause h
    · split
      · exact .cause h
      · split
        · exact .stall
        · exact .done (sendOp_wf h)

theorem execStMr_keeps {f : FmtM} : Keeps s (execStMr f s) := by
  unfold execStMr
  refine issueWord_keeps fun _ _ h => ?_
  dsimp only
  split
  · exact .cause h
  · split
    · exact .cause h
    · split
      · exact .stall
      · exact .done (sendOp_wf (popPorts_wf h))

theorem execXfence_keeps {f : FmtM} : Keeps s (execXfence f s) := by
  unfold execXfence
  refine issueWord_keeps fun _ _ h => ?_
  split
  · exact .stall
  · dsimp only
    exact .done (settleCtl_wf (sendOp_wf h))

theorem execRgetQueue_keeps {f : FmtM} : Keeps s (execRgetQueue f s) := by
  unfold execRgetQueue
  refine issueWord_keeps fun _ _ h => ?_
  dsimp only
  split
  · exact .cause h
  · split
    · exact .stall
    · split
      · exact .done (openDst_wf h rfl)
      · exact .done (sendRget_wf (sendOp_wf (openDst_wf h rfl)))

theorem execRgetSpad_keeps {f : FmtM} : Keeps s (execRgetSpad f s) := by
  unfold execRgetSpad
  refine issueWord_keeps fun _ _ h => ?_
  dsimp only
  split
  · exact .cause h
  · split
    · exact .cause h
    · split
      · exact .cause h
      · split
        · exact .stall
        · exact .done (sendRget_wf (sendOp_wf h))

/-! #### The words and events of Machine/System -/

theorem execTrap_keeps {f : FmtY} : Keeps s (execTrap f s) := by
  unfold execTrap
  refine issueWord_keeps fun _ _ h => ?_
  exact .cause h

theorem execSysrd_keeps {f : FmtY} : Keeps s (execSysrd f s) := by
  unfold execSysrd
  refine issueWord_keeps fun _ _ h => ?_
  dsimp only
  exact .done (sendOp_wf h)

theorem execSyswr_keeps {f : FmtY} : Keeps s (execSyswr f s) := by
  unfold execSyswr
  refine issueWord_keeps fun _ _ h => ?_
  dsimp only
  exact .done (updGroup_wf h)

theorem execEret_keeps {f : FmtY} : Keeps s (execEret f s) := by
  unfold execEret
  refine issueWord_keeps fun _ _ h => ?_
  split
  · exact .stall
  · split
    · exact .cause h
    · dsimp only
      refine .jump (returnFromTrap_wf ?_)
      split
      · exact reissuePoison_wf h
      · exact h

theorem execMapft_keeps {f : FmtY} : Keeps s (execMapft f s) := by
  unfold execMapft
  refine issueWord_keeps fun _ _ h => ?_
  dsimp only
  exact .done (settleMapft_wf (sendOp_wf h))

theorem execGrow_keeps {f : FmtY} : Keeps s (execGrow f s) := by
  unfold execGrow
  refine issueWord_keeps fun _ _ h => ?_
  dsimp only
  split
  · exact .done (writeUni_wf (growDone_wf h))
  · split
    · exact .done (writeUni_wf (growGroup_wf (growDone_wf h)))
    · exact .wait (updPath_wf h)

theorem execShrink_keeps {f : FmtY} : Keeps s (execShrink f s) := by
  unfold execShrink
  refine issueWord_keeps fun _ _ h => ?_
  dsimp only
  exact .done (writeUni_wf (updGroup_wf h))

theorem execLaunch_keeps {f : FmtY} : Keeps s (execLaunch f s) := by
  unfold execLaunch
  refine issueWord_keeps fun _ _ h => ?_
  dsimp only
  split
  · exact .cause h
  · split
    · exact .cause h
    · exact .done (sendOp_wf h)

theorem execTemit_keeps {f : FmtY} : Keeps s (execTemit f s) := by
  unfold execTemit
  refine issueWord_keeps fun _ _ h => ?_
  dsimp only
  exact .done (traceEnter_wf h)

theorem execTstamp_keeps {f : FmtY} : Keeps s (execTstamp f s) := by
  unfold execTstamp
  refine issueWord_keeps fun _ _ h => ?_
  exact .done (writePair_wf h)

theorem execHmread_keeps {f : FmtY} : Keeps s (execHmread f s) := by
  unfold execHmread
  refine issueWord_keeps fun _ _ h => ?_
  exact .done (sendOp_wf h)

theorem execHmseal_keeps {f : FmtY} : Keeps s (execHmseal f s) := by
  unfold execHmseal
  refine issueWord_keeps fun _ _ h => ?_
  dsimp only
  split
  · exact .cause h
  · split
    · exact .cause h
    · split
      · exact .stall
      · exact .done (State.onMysko_wf (sendOp_wf h))

/-! #### The words and events of Machine/Perform -/

theorem returnData_keeps {o : Op} {data : Lanes} : Keeps s (returnData s o data) := by
  unfold returnData
  split
  · exact .refused _
  · split
    · exact .refused _
    · dsimp only
      split
      · split
        · split
          · exact .refused _
          · exact .next fun h => State.onExec_wf (updOp_wf (assayAdd_wf _ _ _ (updOp_wf h)))
        · split
          · exact .refused _
          · exact .next fun h => State.onExec_wf (updOp_wf (updOp_wf h))
      · refine .next fun h => landRegister_wf ?_
        split
        · exact assayAdd_wf _ _ _ (updOp_wf h)
        · exact updOp_wf h

theorem execLoadDataReturn_keeps {op : Nat} {data : Lanes} : Keeps s (execLoadDataReturn op data s) := by
  unfold execLoadDataReturn
  split
  · exact .refused _
  · split
    · exact .next fun h => settleMapft_wf (updOp_wf h)
    · split
      · exact .refused _
      · split
        · exact .refused _
        · exact .next fun h => beforeReturn_wf h ‹_›
        · split
          · exact .next fun h => beforeReturn_wf h ‹_›
          · exact .trans (fun h => beforeReturn_wf h ‹_›) returnData_keeps

theorem execAcknowledgementReturn_keeps {op : Nat} : Keeps s (execAcknowledgementReturn op s) := by
  unfold execAcknowledgementReturn
  split
  · exact .refused _
  · dsimp only
    split
    · exact .refused _
    · split
      · split
        · split
          · exact .refused _
          · split
            · exact .next fun h => releaseEntries_wf (lateGone_wf (finishOp_wf (updOp_wf (completeHere_wf h ‹_›))))
            · exact .refused _
        · exact eventIf_keeps fun h => releaseEntries_wf (lateGone_wf (finishOp_wf (updOp_wf h)))
      · split
        · split
          · exact .refused _
          · split
            · exact .next fun h => releaseEntries_wf (lateGone_wf (finishOp_wf (updOp_wf (completeHere_wf h ‹_›))))
            · exact .refused _
        · exact eventIf_keeps fun h => releaseEntries_wf (lateGone_wf (finishOp_wf (updOp_wf h)))

/-! #### The words and events of Machine/Slices -/

theorem execL1Recall_keeps {core tag line : Nat} : Keeps s (execL1Recall core tag line s) := eventIf_keeps fun h => recallCopy_wf h

theorem execDirectoryEviction_keeps {tag line : Nat} :
    Keeps s (execDirectoryEviction tag line s) := eventIf_keeps fun h => l1Recall_wf _ _ _ h

theorem execL2Eviction_keeps {tag line : Nat} : Keeps s (execL2Eviction tag line s) := by
  unfold execL2Eviction
  split
  · exact .next fun h => l2Evict_wf _ _ h
  · refine event_keeps fun _ h e => ?_
    obtain ⟨u, e, e'⟩ := Option.map_eq_some_iff.mp e
    cases e'
    exact l2Leave_wf _ h

theorem execPageWalk_keeps {ctx off : Nat} : Keeps s (execPageWalk ctx off s) := by
  unfold execPageWalk
  split
  · exact .refused _
  · split
    · exact .next fun h => translate_wf h ‹_›
    · exact .next fun h => walkLines_wf _ _ h

theorem execL2Scrub_keeps : Keeps s (execL2Scrub s) := eventIf_keeps fun h => h
theorem execHbmScrub_keeps : Keeps s (execHbmScrub s) := eventIf_keeps fun h => h

theorem execFaultReturn_keeps {op : Nat} {lanes : Mask} {code marks : Nat} : Keeps s (execFaultReturn op lanes code marks s) := by
  unfold execFaultReturn
  split
  · exact .refused _
  · split
    · exact .refused _
    · split
      · split
        · exact .refused _
        · exact eventIf_keeps fun h => faultsIn_wf h
      · split
        · split
          · split
            · exact .refused _
            · split
              · split
                · refine event_keeps fun _ h e => ?_
                  exact cruxReturn_wf h e
                · exact .refused _
              · split
                · refine event_keeps fun _ h e => ?_
                  exact copyReturn_wf h e
                · exact .refused _
              · split
                · exact .refused _
                · split
                  · split
                    · refine event_keeps fun _ h e => ?_
                      exact halvesReturn_wf h e
                    · refine event_keeps fun _ h e => ?_
                      obtain ⟨u, e, e'⟩ := Option.map_eq_some_iff.mp e
                      cases e'
                      exact joinReplay_wf h
                  · split
                    · dsimp only
                      refine .next fun h => ?_
                      split
                      · exact faultsIn_wf (updOp_wf h)
                      · exact updOp_wf h
                    · exact .refused _
          · split
            · exact .refused _
            · split
              · split
                · refine event_keeps fun _ h e => ?_
                  exact cruxReturn_wf h e
                · exact .refused _
              · split
                · refine event_keeps fun _ h e => ?_
                  exact copyReturn_wf h e
                · exact .refused _
              · split
                · exact .refused _
                · split
                  · split
                    · refine event_keeps fun _ h e => ?_
                      exact halvesReturn_wf h e
                    · refine event_keeps fun _ h e => ?_
                      obtain ⟨u, e, e'⟩ := Option.map_eq_some_iff.mp e
                      cases e'
                      exact joinReplay_wf h
                  · split
                    · dsimp only
                      refine .next fun h => ?_
                      split
                      · exact faultsIn_wf (updOp_wf h)
                      · exact updOp_wf h
                    · exact .refused _
        · split
          · split
            · exact .refused _
            · split
              · split
                · refine event_keeps fun _ h e => ?_
                  exact cruxReturn_wf h e
                · exact .refused _
              · split
                · refine event_keeps fun _ h e => ?_
                  exact copyReturn_wf h e
                · exact .refused _
              · split
                · exact .refused _
                · split
                  · split
                    · refine event_keeps fun _ h e => ?_
                      exact halvesReturn_wf h e
                    · refine event_keeps fun _ h e => ?_
                      obtain ⟨u, e, e'⟩ := Option.map_eq_some_iff.mp e
                      cases e'
                      exact joinReplay_wf h
                  · split
                    · dsimp only
                      refine .next fun h => ?_
                      split
                      · exact faultsIn_wf (updOp_wf h)
                      · exact updOp_wf h
                    · exact .refused _
          · split
            · exact .refused _
            · split
              · split
                · refine event_keeps fun _ h e => ?_
                  exact cruxReturn_wf h e
                · exact .refused _
              · split
                · refine event_keeps fun _ h e => ?_
                  exact copyReturn_wf h e
                · exact .refused _
              · split
                · exact .refused _
                · split
                  · split
                    · refine event_keeps fun _ h e => ?_
                      exact halvesReturn_wf h e
                    · refine event_keeps fun _ h e => ?_
                      obtain ⟨u, e, e'⟩ := Option.map_eq_some_iff.mp e
                      cases e'
                      exact joinReplay_wf h
                  · split
                    · dsimp only
                      refine .next fun h => ?_
                      split
                      · exact faultsIn_wf (updOp_wf h)
                      · exact updOp_wf h
                    · exact .refused _

/-! #### The words and events of Machine/Crucible -/

theorem execCrucibleArrival_keeps {op k : Nat} : Keeps s (execCrucibleArrival op k s) := by
  unfold execCrucibleArrival
  split
  · exact .refused _
  · dsimp only
    split
    · refine event_keeps fun _ h e => ?_
      exact parkNext_wf h e
    · split
      · refine event_keeps fun _ h e => ?_
        obtain ⟨u, hu, e⟩ := Option.bind_eq_some_iff.mp e
        exact joinCrux_wf h e
      · split
        · exact .refused _
        · split
          · exact .next fun h => cruxRefuse_wf h
          · split
            · exact .next fun h => cruxFinal_wf (cruxCheck_wf h ‹_›)
            · split
              · exact .next fun h => cruxApply_wf (cruxCheck_wf h ‹_›) rfl
              · split
                · exact .next fun h => cruxFinal_wf (cruxCheck_wf h ‹_›)
                · exact .next fun h => settleHeld_wf (arriveAt_wf (cruxCheck_wf h ‹_›))

theorem execOrderEntryLoad_keeps {c i g : Nat} : Keeps s (execOrderEntryLoad c i g s) := by
  unfold execOrderEntryLoad
  split
  · split
    · exact .refused _
    · dsimp only
      split
      · exact .next fun h => settleHeld_wf (foldl_wf (fun _ _ h => examineOrdered_wf h) _ (stallBack_wf (updOrder_wf (homeRead_wf _ _ _
          (loadBytes_wf h ‹_›)))))
      · exact .next fun h => settleHeld_wf (foldl_wf (fun _ _ h => cruxFinal_wf h) _ (dropOrder_wf h))
  · exact .refused _

theorem execOrderEntryEvict_keeps {c i g : Nat} : Keeps s (execOrderEntryEvict c i g s) := by
  unfold execOrderEntryEvict
  split
  · exact eventIf_keeps fun h => evictOrder_wf h
  · exact .refused _

theorem execOrderStall_keeps {c i g : Nat} : Keeps s (execOrderStall c i g s) := by
  unfold execOrderStall
  split
  · dsimp only
    exact eventIf_keeps fun h => faultRecord_wf (updOrder_wf h)
  · exact .refused _

/-! #### The words and events of Machine/Copies -/

theorem execHomeSliceAccess_keeps {op x0 : Nat} : Keeps s (execHomeSliceAccess op x0 s) := by
  unfold execHomeSliceAccess
  split
  · exact .refused _
  · split
    · refine event_keeps fun _ h e => ?_
      exact copyAccess_wf h e
    · refine event_keeps fun _ h e => ?_
      exact homeAccess_wf h e

theorem execCopyComplete_keeps {op : Nat} {data : List Byte} : Keeps s (execCopyComplete op data s) := by
  unfold execCopyComplete
  split
  · exact .refused _
  · dsimp only
    split
    · exact eventIf_keeps fun h => updOp_wf h
    · split
      · split
        · exact eventIf_keeps fun h => copyEnd_wf (updOp_wf h)
        · split
          · exact .refused _
          · exact .next fun h => sendOut_wf (updOp_wf (copyRead_wf h rfl))
      · refine event_keeps fun _ h e => ?_
        exact copyRest_wf h e

/-! #### The words and events of Machine/FabricEvents -/

theorem execRemoteRequest_keeps {peer : Nat} {r : RemoteReq} : Keeps s (execRemoteRequest peer r s) := by
  unfold execRemoteRequest
  dsimp only
  split
  · split
    · exact .refused _
    · split
      · exact eventIf_keeps fun h => deviceDecs_wf h
      · split
        · exact .next fun h => refuseUnknown_wf (updOp_wf h)
        · split
          · exact .next fun h => sendOut_wf (linkSend_wf h)
          · exact .next fun h => refuseUnknown_wf (addOp_wf (fresh_wf h rfl))
  · split
    · exact .refused _
    · split
      · exact eventIf_keeps fun h => deviceDecs_wf h
      · split
        · exact .next fun h => refuseUnknown_wf (updOp_wf h)
        · split
          · exact .next fun h => sendOut_wf (linkSend_wf h)
          · exact .next fun h => refuseUnknown_wf (addOp_wf (fresh_wf h rfl))

theorem execHomeAgentOp_keeps {op : Nat} : Keeps s (execHomeAgentOp op s) := by
  unfold execHomeAgentOp
  split
  · exact .refused _
  · split
    · split
      · split
        · refine event_keeps fun _ h e => ?_
          exact joinHolder_wf (updOp_wf h) e
        · exact .refused _
      · exact eventIf_keeps fun h => answerRemote_wf (finishOp_wf (agentStep_wf h))
    · exact .refused _

theorem execFlitReceive_keeps {peer set seq : Nat} {good : Bool} {ctx : Nat} : Keeps s (execFlitReceive peer set seq good ctx s) := by
  unfold execFlitReceive
  split
  · exact .refused _
  · dsimp only
    split
    · exact .next fun h => flitBad_wf h
    · split
      · exact .next fun h => flitsAcked_wf h
      · split
        · exact .next fun h => sendOut_wf h
        · split
          · exact .next fun h => replayFlits_wf h
          · split
            · exact .next fun h => flitGood_wf h
            · exact .next fun h => h

theorem execKeySwitchAnnounce_keeps {peer set : Nat} : Keeps s (execKeySwitchAnnounce peer set s) := by
  unfold execKeySwitchAnnounce
  split
  · exact .refused _
  · exact eventIf_keeps fun h => announceKey_wf h

theorem execKeySwitch_keeps {peer set : Nat} : Keeps s (execKeySwitch peer set s) := by
  unfold execKeySwitch
  split
  · exact .refused _
  · split
    · exact .refused _
    · exact eventIf_keeps fun h => updSet_wf h

theorem execKeySwitchRetry_keeps {peer set : Nat} : Keeps s (execKeySwitchRetry peer set s) := by
  unfold execKeySwitchRetry
  split
  · exact .refused _
  · split
    · exact .refused _
    · exact eventIf_keeps fun h => announceKey_wf h

theorem execOldGenerationExpiry_keeps {peer set : Nat} : Keeps s (execOldGenerationExpiry peer set s) := by
  unfold execOldGenerationExpiry
  split
  · exact .refused _
  · split
    · exact .refused _
    · exact eventIf_keeps fun h => updSet_wf h

theorem execMrContribution_keeps {c w m chunk : Nat} {data : List Byte} : Keeps s (execMrContribution c w m chunk data s) := by
  unfold execMrContribution
  split
  · exact .refused _
  · split
    · exact .refused _
    · split
      · exact .refused _
      · split
        · split
          · exact eventIf_keeps fun h => mrOwn_wf h
          · exact .refused _
        · split
          · exact .next fun h => mrRefused_wf h
          · split
            · exact .refused _
            · split
              · exact .next fun h => sendOut_wf (linkSend_wf (mrAccept_wf h ‹_›))
              · exact .next fun h => sendOut_wf (linkSend_wf h)

theorem execMrResend_keeps {op : Nat} : Keeps s (execMrResend op s) := by
  unfold execMrResend
  split
  · exact .refused _
  · split
    · split
      · exact .refused _
      · split
        · exact eventIf_keeps fun h => sendRequests_wf (updOp_wf h)
        · split
          · exact .next fun h => mrOwn_wf h
          · exact .refused _
        · exact .refused _
    · exact .refused _

theorem execMrDelivery_keeps {c w gen chunk : Nat} {data : List Byte} : Keeps s (execMrDelivery c w gen chunk data s) := by
  unfold execMrDelivery
  split
  · exact .refused _
  · split
    · exact .refused _
    · split
      · exact .next fun h => mrStore_wf h ‹_›
      · exact .next fun h => sendOut_wf (linkSend_wf h)

theorem execRgetServe_keeps {remote c : Nat} {a : Dword} {n : Nat} {requester : BitVec 192} :
    Keeps s (execRgetServe remote c a n requester s) := by
  unfold execRgetServe
  split
  · exact .refused _
  · split
    · exact .next fun h => rgetAnswer_wf h
    · split
      · exact .next fun h => rgetAnswer_wf h
      · exact .next fun h => rgetAnswer_wf (assayAdd_wf _ _ _ (rgetRead_wf h ‹_›))

theorem execRgetPieceLanding_keeps {op piece : Nat} {data : List Byte} : Keeps s (execRgetPieceLanding op piece data s) := by
  unfold execRgetPieceLanding
  split
  · exact .refused _
  · split
    · split
      · exact .refused _
      · split
        · exact .refused _
        · dsimp only
          exact .next fun h => finishOp_wf (updOp_wf (assayAdd_wf _ _ _ (examine_wf (spadPut_wf h))))
    · exact .refused _

theorem execTransportFailure_keeps {op piece : Nat} : Keeps s (execTransportFailure op piece s) := by
  unfold execTransportFailure
  split
  · exact .refused _
  · dsimp only
    split
    · split
      · exact .refused _
      · exact .next fun h => updOp_wf h
    · split
      · exact .refused _
      · exact .next fun h => updOp_wf h
    · split
      · exact .refused _
      · exact .next fun h => updOp_wf h

theorem execMapftExecute_keeps {op : Nat} : Keeps s (execMapftExecute op s) := by
  unfold execMapftExecute
  split
  · exact .refused _
  · split
    · exact .refused _
    · split
      split
      · exact .next fun h => settleMapft_wf (updOp_wf (mapRun_wf h ‹_›))
      · exact .next fun h => dropOp_wf (sendOut_wf (linkSend_wf (mapRun_wf h ‹_›)))

theorem execXfenceComplete_keeps {op : Nat} : Keeps s (execXfenceComplete op s) := by
  unfold execXfenceComplete
  split
  · exact .refused _
  · split
    · exact eventIf_keeps fun h => settleCtl_wf (updOp_wf h)
    · exact .refused _

/-! #### The words and events of Machine/Control -/

theorem execBra_keeps {f : FmtB} : Keeps s (execBra f s) := by
  unfold execBra
  refine issueWord_keeps fun _ _ h => ?_
  exact .goto h

theorem execBrc_keeps {f : FmtB} : Keeps s (execBrc f s) := by
  unfold execBrc
  refine issueWord_keeps fun _ _ h => ?_
  split
  · exact .goto h
  · exact .done h

theorem execBdiv_keeps {f : FmtB} : Keeps s (execBdiv f s) := by
  unfold execBdiv
  refine issueWord_keeps fun _ _ h => ?_
  dsimp only
  split
  · exact .done h
  · split
    · exact .goto h
    · split
      · exact .cause h
      · split
        · exact .done (diverge_wf h)
        · exact .goto (diverge_wf h)

theorem execBrx_keeps {f : FmtB} : Keeps s (execBrx f s) := by
  unfold execBrx
  refine issueWord_keeps fun _ _ h => ?_
  exact .goto h

theorem execCall_keeps {f : FmtB} : Keeps s (execCall f s) := by
  unfold execCall
  refine issueWord_keeps fun _ _ h => ?_
  exact .goto (writePair_wf h)

theorem execRet_keeps {f : FmtB} : Keeps s (execRet f s) := by
  unfold execRet
  refine issueWord_keeps fun _ _ h => ?_
  exact .goto h

theorem execLoops_keeps {f : FmtB} : Keeps s (execLoops f s) := by
  unfold execLoops
  refine issueWord_keeps fun _ _ h => ?_
  dsimp only
  split
  · split
    · exact .goto (updGroup_wf h)
    · exact .done (updGroup_wf h)
  · split
    · exact .goto (updGroup_wf h)
    · exact .done (updGroup_wf h)

theorem execExit_keeps {f : FmtB} : Keeps s (execExit f s) := by
  unfold execExit
  refine issueWord_keeps fun _ _ h => ?_
  dsimp only
  split
  · exact .done (updPath_wf h)
  · refine .leave ?_
    split
    · refine groupEnd_wf ?_
      split
      · exact dropFaulted_wf h
      · exact h
    · refine freeEntry_wf ?_
      split
      · exact dropFaulted_wf h
      · exact h

theorem execRecon_keeps {f : FmtA} : Keeps s (execRecon f s) := by
  unfold execRecon
  refine issueWord_keeps fun _ _ h => ?_
  exact reconAct_wf h

theorem execExecrd_keeps {f : FmtA} : Keeps s (execExecrd f s) := by
  unfold execExecrd
  refine issueWord_keeps fun _ _ h => ?_
  exact .done (writePred_wf h)

theorem execExecwr_keeps {f : FmtA} : Keeps s (execExecwr f s) := by
  unfold execExecwr
  refine issueWord_keeps fun _ _ h => ?_
  dsimp only
  exact .done (updPath_wf h)

theorem execSwait_keeps {f : FmtA} : Keeps s (execSwait f s) := by
  unfold execSwait
  refine issueWord_keeps fun _ _ h => ?_
  dsimp only
  split
  · split
    · exact .done (updPath_wf h)
    · exact .wait (updPath_wf h)
  · split
    · split
      · exact .done (updPath_wf h)
      · exact .wait (updPath_wf h)
    · split
      · exact .done (updPath_wf h)
      · exact .wait (updPath_wf h)

/-! #### The words and events of Machine/Press -/

theorem execMloop_keeps {f : FmtB} : Keeps s (execMloop f s) := by
  unfold execMloop
  refine issuePress_keeps fun _ _ h => ?_
  dsimp only
  split
  · split
    · split
      · exact .goto (PSlot.upd_wf h)
      · exact .done (PSlot.upd_wf h)
    · split
      · exact .goto (PSlot.upd_wf h)
      · exact .done (PSlot.upd_wf h)
  · split
    · exact .goto (PSlot.upd_wf h)
    · exact .done (PSlot.upd_wf h)

theorem execMbra_keeps {f : FmtB} : Keeps s (execMbra f s) := by
  unfold execMbra
  refine issuePress_keeps fun _ _ h => ?_
  dsimp only
  split
  · exact .goto h
  · exact .done h

theorem execMend_keeps {f : FmtB} : Keeps s (execMend f s) := by
  unfold execMend
  refine issuePress_keeps fun _ _ h => ?_
  exact .ended h

theorem execMload_keeps {f : FmtXR} : Keeps s (execMload f s) := by
  unfold execMload
  refine issuePress_keeps fun _ _ h => ?_
  exact pressRegion_wf h

theorem execMloadT_keeps {f : FmtXR} : Keeps s (execMloadT f s) := by
  unfold execMloadT
  refine issuePress_keeps fun _ _ h => ?_
  exact pressRegion_wf h

theorem execMloadS_keeps {f : FmtXR} : Keeps s (execMloadS f s) := by
  unfold execMloadS
  refine issuePress_keeps fun _ _ h => ?_
  exact pressRegion_wf h

theorem execMstore_keeps {f : FmtXR} : Keeps s (execMstore f s) := by
  unfold execMstore
  refine issuePress_keeps fun _ _ h => ?_
  exact pressRegion_wf h

theorem execMma_keeps {f : FmtXA} : Keeps s (execMma f s) := by
  unfold execMma
  refine issuePress_keeps fun _ _ h => ?_
  dsimp only
  split
  · exact .stall h
  · exact pressPlain_wf (PSlot.upd_wf (updCore_wf h))

theorem execMzero_keeps {f : FmtXA} : Keeps s (execMzero f s) := by
  unfold execMzero
  refine issuePress_keeps fun _ _ h => ?_
  exact pressPlain_wf h

theorem execMcvt_keeps {f : FmtXA} : Keeps s (execMcvt f s) := by
  unfold execMcvt
  refine issuePress_keeps fun _ _ h => ?_
  exact pressPlain_wf h

theorem execMharrive_keeps {f : FmtXA} : Keeps s (execMharrive f s) := by
  unfold execMharrive
  refine issuePress_keeps fun _ _ h => ?_
  exact pressPlain_wf h

theorem execMhwait_keeps {f : FmtXA} : Keeps s (execMhwait f s) := by
  unfold execMhwait
  refine issuePress_keeps fun _ _ h => ?_
  split
  · exact .done (PSlot.upd_wf h)
  · exact .wait

theorem execMpop_keeps {f : FmtXA} : Keeps s (execMpop f s) := by
  unfold execMpop
  refine issuePress_keeps fun _ _ h => ?_
  split
  · exact .wait
  · exact .done (PSlot.upd_wf h)

theorem execMsig_keeps {f : FmtXA} : Keeps s (execMsig f s) := by
  unfold execMsig
  refine issuePress_keeps fun _ _ h => ?_
  dsimp only
  split
  · exact .cause
  · exact pressScored_wf h

theorem execBkpt_keeps {f : FmtY} : Keeps s (execBkpt f s) := by
  unfold execBkpt
  split
  · refine issuePress_keeps fun _ _ h => ?_
    exact .done (noteBreak_wf h)
  · refine issueWord_keeps fun _ _ h => ?_
    exact .done (noteBreak_wf h)

theorem execPressCommandFinish_keeps {id : Nat} : Keeps s (execPressCommandFinish id s) := by
  unfold execPressCommandFinish
  split
  · exact .refused _
  · split
    · dsimp only
      exact eventIf_keeps fun h => scoreLeave_wf (updPress_wf (pressPerform_wf h))
    · exact .refused _

theorem execScoreboardGrant_keeps {core : Nat} : Keeps s (execScoreboardGrant core s) := by
  unfold execScoreboardGrant
  split
  · exact .refused _
  · exact eventIf_keeps fun h => State.onExec_wf h

theorem execBudgetRefill_keeps : Keeps s (execBudgetRefill s) := eventIf_keeps fun h => mk_wf h

theorem execPressArbitration_keeps {core : Nat} : Keeps s (execPressArbitration core s) := by
  unfold execPressArbitration
  dsimp only
  split
  · exact .refused _
  · exact eventIf_keeps fun h => mk_wf (updSched_wf h)

/-! #### The words and events of Machine/Schedule -/

theorem execPathPromotion_keeps {gid entry : Nat} : Keeps s (execPathPromotion gid entry s) := by
  unfold execPathPromotion
  split
  · exact .refused _
  · dsimp only
    exact eventIf_keeps fun h => updSched_wf (updPath_wf h)

theorem execPathArbitration_keeps {core unit : Nat} : Keeps s (execPathArbitration core unit s) := by
  unfold execPathArbitration
  split
  · exact .refused _
  · split
    · exact .next fun h => mk_wf h
    · split
      · exact eventIf_keeps fun h => mk_wf h
      · dsimp only
        split
        · exact .refused _
        · split
          · exact .refused _
          · exact .next fun h => mk_wf (updSched_wf (foldl_wf (fun _ _ h => updPath_wf h) _ h))

theorem execRunFetch_keeps {core unit : Nat} : Keeps s (execRunFetch core unit s) := by
  unfold execRunFetch
  refine event_keeps fun _ h e => ?_
  exact fetchChosen_wf h e

theorem execLadleWindowAccess_keeps {core k : Nat} : Keeps s (execLadleWindowAccess core k s) := by
  unfold execLadleWindowAccess
  split
  · exact .refused _
  · exact eventIf_keeps fun h => landWindow_wf h

theorem execBankTheft_keeps {core k : Nat} : Keeps s (execBankTheft core k s) := by
  unfold execBankTheft
  split
  · exact .refused _
  · exact eventIf_keeps fun h => stealBank_wf h

theorem execQdead_keeps {pair : Nat} : Keeps s (execQdead pair s) := by
  unfold execQdead
  split
  · exact .refused _
  · dsimp only
    split
    · exact .refused _
    · exact .next fun h => foldl_wf (fun _ _ h => foldl_wf (fun _ _ h => raiseAt_wf (updPath_wf h)) _ h) _ h

theorem execStoreUnitStore_keeps {pair q : Nat} : Keeps s (execStoreUnitStore pair q s) := by
  unfold execStoreUnitStore
  split
  · exact .refused _
  · split
    · split
      · exact .refused _
      · dsimp only
        refine .next fun h => ?_
        split
        · refine finishOp_wf ?_
          split
          · exact pendStore_wf (sendRequests_wf (updOp_wf (updQueue_wf h)))
          · exact updOp_wf (updQueue_wf h)
        · refine raiseReturned_wf (finishOp_wf ?_)
          split
          · exact pendStore_wf (sendRequests_wf (updOp_wf (updQueue_wf h)))
          · exact updOp_wf (updQueue_wf h)
    · exact .refused _

theorem execHoopArrivalCount_keeps {op : Nat} : Keeps s (execHoopArrivalCount op s) := by
  unfold execHoopArrivalCount
  split
  · exact .refused _
  · split
    · dsimp only
      split
      · split
        · split
          · exact .refused _
          · exact .next fun h => finishOp_wf (updOp_wf (hoopArrive_wf h rfl))
        · split
          · exact .refused _
          · exact .next fun h => finishOp_wf (updOp_wf (hoopArrive_wf h rfl))
      · split
        · exact .refused _
        · exact .next fun h => finishOp_wf (updOp_wf (hoopArrive_wf h rfl))
    · exact .refused _

theorem releaseIf_keeps {gid entry : Nat} {ok : Path → Bool} : Keeps s (releaseIf s gid entry ok) := by
  unfold releaseIf
  split
  · exact .refused _
  · exact eventIf_keeps fun h => updPath_wf h

theorem execWatchMatch_keeps {gid entry : Nat} : Keeps s (execWatchMatch gid entry s) := by
  unfold execWatchMatch
  exact .trans examine_wf releaseIf_keeps

theorem execSwaitDeadline_keeps {gid entry : Nat} : Keeps s (execSwaitDeadline gid entry s) := by
  unfold execSwaitDeadline
  exact releaseIf_keeps

theorem execWaitsigPoll_keeps {gid entry : Nat} {remote : Dword} {fault : Nat} :
    Keeps s (execWaitsigPoll gid entry remote fault s) := by
  unfold execWaitsigPoll
  split
  · exact .refused _
  · rename_i g _
    extract_lets p
    split
    · rename_i a rel v _ _
      extract_lets here
      split
      · exact .refused _
      · rename_i read _
        have hr (u : State) (x : Dword) (h : MemoryCanonical s) (hu : read = .ok (u, x)) : MemoryCanonical u := by
          dsimp only [read] at hu
          split at hu
          · split at hu
            · cases hu
              exact homeRead_wf _ _ _ (loadBytes_wf h ‹_›)
            · cases hu
          · split at hu
            · cases hu
            · split at hu
              · cases hu; exact h
              · cases hu
        clear_value read
        split
        · exact .next fun h => raiseReturned_wf (updPath_wf h)
        · rename_i u x
          refine .next fun h => ?_
          split
          · exact updPath_wf (hr u x h rfl)
          · exact hr u x h rfl
    · exact .refused _

theorem execPressCauseDelivery_keeps {core k : Nat} : Keeps s (execPressCauseDelivery core k s) := by
  unfold execPressCauseDelivery
  split
  · exact .refused _
  · split
    · split
      · exact .refused _
      · split
        · exact .next fun h => pressOrphan_wf (faultRecord_wf h)
        · dsimp only
          split
          · exact .refused _
          · refine .next fun h => ?_
            split
            · exact updGroup_wf (updPress_wf h)
            · exact atBoundary_wf (updGroup_wf (updPress_wf h))
    · exact .refused _

/-! #### The words and events of Machine/Placement -/

theorem execPlacement_keeps {src : PlaceSrc} {core part : Nat} : Keeps s (execPlacement src core part s) := by
  unfold execPlacement
  split
  · exact .refused _
  · split
    · refine event_keeps fun _ h e => ?_
      exact placeHead_wf h e
    · refine event_keeps fun _ h e => ?_
      obtain ⟨u, hu, e⟩ := Option.bind_eq_some_iff.mp e
      exact placeSavedPair_wf h e
    · refine event_keeps fun _ h e => ?_
      obtain ⟨u, hu, e⟩ := Option.bind_eq_some_iff.mp e
      exact placeSavedCohort_wf h e

theorem execMigration_keeps {pair core part : Nat} : Keeps s (execMigration pair core part s) := by
  unfold execMigration
  split
  · exact .refused _
  · split
    · exact .refused _
    · refine event_keeps fun _ h e => ?_
      obtain ⟨u, hu, e⟩ := Option.bind_eq_some_iff.mp e
      obtain ⟨u, hu, e⟩ := Option.bind_eq_some_iff.mp e
      exact placeSavedPair_wf (savePair_wf h ‹_›) e

theorem execGrowPreemption_keeps {core unit : Nat} : Keeps s (execGrowPreemption core unit s) := by
  unfold execGrowPreemption
  split
  · exact .refused _
  · split
    · exact .refused _
    · dsimp only
      split
      · exact .refused _
      · split
        · exact .refused _
        · refine event_keeps fun _ h e => ?_
          obtain ⟨u, e, e'⟩ := Option.map_eq_some_iff.mp e
          cases e'
          exact faultRecord_wf (saveTarget_wf (updPath_wf h) ‹_›)

theorem execCwaitPreemption_keeps {pair : Nat} : Keeps s (execCwaitPreemption pair s) := by
  unfold execCwaitPreemption
  split
  · exact .refused _
  · dsimp only
    split
    · exact .refused _
    · split
      · exact .refused _
      · exact eventIf_keeps fun h => saveTarget_wf h ‹_›

theorem execPreemption_keeps {t0 : PlaceSrc} : Keeps s (execPreemption t0 s) := by
  unfold execPreemption
  dsimp only
  split
  · exact .refused _
  · split
    · exact .next fun h => saveTarget_wf h ‹_›
    · exact eventIf_keeps fun h => finishWaiting_wf (updCtx_wf h)

theorem execRetirement_keeps {t0 : PlaceSrc} : Keeps s (execRetirement t0 s) := by
  unfold execRetirement
  split
  · split
    · exact .refused _
    · exact eventIf_keeps fun h => unitRetired_wf (removePair_wf h)
  · refine event_keeps fun _ h e => ?_
    obtain ⟨u, hu, e⟩ := Option.bind_eq_some_iff.mp e
    exact cohortStep_wf h e
  · exact .refused _

/-! #### The words and events of Machine/HostIf -/

theorem execSignalDecrement_keeps {k : Nat} : Keeps s (execSignalDecrement k s) := by
  unfold execSignalDecrement
  split
  · exact .refused _
  · dsimp only
    split
    · refine .next fun h => launchesOver_wf ?_
      split
      · exact State.onExec_wf h
      · exact faultRecord_wf (State.onExec_wf h)
    · split
      · exact .next fun h => launchesOver_wf (sendOut_wf (linkSend_wf (State.onExec_wf h)))
      · split
        · exact .next fun h => launchesOver_wf (touchLine_wf (signalLower_wf (State.onExec_wf h) ‹_›))
        · refine .next fun h => launchesOver_wf ?_
          split
          · exact State.onExec_wf h
          · exact faultRecord_wf (State.onExec_wf h)

theorem execQbase_keeps {q : Nat} {v : Dword} : Keeps s (execQbase q v s) := hostWrite_keeps fun h => writeQbase_wf h
theorem execQueueEnable_keeps {q : Nat} : Keeps s (execQueueEnable q s) := hostWrite_keeps fun h => writeQctl_wf h
theorem execQueueDisable_keeps {q : Nat} : Keeps s (execQueueDisable q s) := hostWrite_keeps fun h => writeQctl_wf h
theorem execQctlConfig_keeps {q : Nat} {v : Dword} : Keeps s (execQctlConfig q v s) := hostWrite_keeps fun h => writeQctl_wf h
theorem execQerr_keeps {q : Nat} {v : Dword} : Keeps s (execQerr q v s) := hostWrite_keeps fun h => writeQerr_wf h
theorem execDoorbell_keeps {q : Nat} {w : Word} : Keeps s (execDoorbell q w s) := hostWrite_keeps fun h => writeDoorbell_wf h

theorem execRegisterWrite_keeps {off : Nat} {v : Dword} : Keeps s (execRegisterWrite off v s) := by
  unfold execRegisterWrite
  refine .next fun h => ?_
  split
  · exact writeRegister_wf h
  · exact h

theorem execHostWindowRead_keeps {x0 width : Nat} : Keeps s (execHostWindowRead x0 width s) := by
  unfold execHostWindowRead
  split
  · exact .refused _
  · split
    · exact .next fun h => replyHost_wf h
    · split
      · exact .next fun h => replyHost_wf h
      · split
        · exact .next fun h => replyHost_wf h
        · split
          · exact .next fun h => replyHost_wf h
          · split
            · exact .refused _
            · split
              · exact .next fun h => replyHost_wf h
              · exact .next fun h => replyHost_wf (foldl_wf (fun _ _ h => homeRead_wf _ _ _ h) _ (loadBytes_wf h ‹_›))

theorem execHostWindowWrite_keeps {x0 width v : Nat} : Keeps s (execHostWindowWrite x0 width v s) := by
  unfold execHostWindowWrite
  dsimp only
  split
  · exact .refused _
  · split
    · exact .next fun h => h
    · split
      · exact .next fun h => bar0Write_wf h
      · split
        · exact .next fun h => mailWrite_wf h
        · split
          · exact .next fun h => h
          · split
            · exact .next fun h => h
            · exact .next fun h => foldl_wf (fun _ _ h => touchLine_wf h) _ (storeBytes_wf (snoop_wf h) ‹_›)

theorem execPacketRead_keeps {q : Nat} : Keeps s (execPacketRead q s) := by
  unfold execPacketRead
  dsimp only
  split
  · exact .refused _
  · split
    · exact .next fun h => faultRecord_wf (updHwQueue_wf (setQerr_wf h))
    · split
      · exact .next fun h => updHwQueue_wf (faultRecord_wf (writeStatus_wf (readLocal_wf h ‹_›)))
      · exact .next fun h => updHwQueue_wf (writeStatus_wf (State.onMemory_wf (State.onExec_wf (acceptPacket_wf (readLocal_wf h ‹_›) ‹_›))))

theorem execLaunchPacketRead_keeps {op : Nat} : Keeps s (execLaunchPacketRead op s) := by
  unfold execLaunchPacketRead
  split
  · exact .refused _
  · split
    · split
      · exact .refused _
      · dsimp only
        split
        · exact .next fun h => finishOp_wf (updOp_wf (faultRecord_wf h))
        · split
          · exact .next fun h => finishOp_wf (updOp_wf (faultRecord_wf h))
          · split
            · exact .next fun h => finishOp_wf (updOp_wf (faultRecord_wf h))
            · split
              · exact .next fun h => finishOp_wf (updOp_wf (faultRecord_wf h))
              · exact .next fun h => finishOp_wf (updOp_wf (updHwQueue_wf (homeStore_wf (readLocal_wf h ‹_›) ‹_›)))
    · exact .refused _

theorem execDependenceMet_keeps {launch : Nat} : Keeps s (execDependenceMet launch s) := by
  unfold execDependenceMet
  split
  · exact .refused _
  · split
    · exact .refused _
    · dsimp only
      split
      · refine .next fun h => updHwQueue_wf (State.onExec_wf ?_)
        split
        · exact depReads_wf h
        · exact sendDec_wf (depReads_wf h)
      · exact .next fun h => updLaunch_wf (depReads_wf h)

theorem execPriorityStarvation_keeps {q : Nat} : Keeps s (execPriorityStarvation q s) := by
  unfold execPriorityStarvation
  split
  · exact .refused _
  · exact eventIf_keeps fun h => updLaunch_wf h

theorem execEventWordClear_keeps {v : Dword} : Keeps s (execEventWordClear v s) := by
  unfold execEventWordClear
  refine .next fun h => ?_
  split
  · exact h
  · exact clearEvents_wf h

/-! #### The words and events of Machine/Contexts -/

theorem execCtxCreate_keeps {slot c : Nat} {block : Dword} {cores : BitVec 160} : Keeps s (execCtxCreate slot c block cores s) := by
  unfold execCtxCreate
  dsimp only
  split
  · exact .refused _
  · exact command_keeps fun h => mailDone_wf (formMembers_wf (giveCores_wf (updCtx_wf (dropContextLines_wf h))))

theorem execCtxCores_keeps {slot c : Nat} {add rem : BitVec 160} : Keeps s (execCtxCores slot c add rem s) := by
  unfold execCtxCores
  dsimp only
  split
  · exact .refused _
  · exact command_keeps fun h => mailDone_wf (updCtx_wf (giveCores_wf (foldl_wf (fun _ _ h => leaveCore_wf h) _ (foldl_wf (fun _ _ h =>
      drainAll_wf h) _ h))))

theorem execCtxStop_keeps {slot c : Nat} : Keeps s (execCtxStop slot c s) := command_keeps fun h => mailTake_wf (updCtx_wf h)
theorem execContextStopped_keeps {c : Nat} : Keeps s (execContextStopped c s) := eventIf_keeps fun h => finishWaiting_wf (updCtx_wf h)
theorem execCtxResume_keeps {slot c : Nat} : Keeps s (execCtxResume slot c s) := command_keeps fun h => mailDone_wf (updCtx_wf h)
theorem execCtxEnd_keeps {slot c : Nat} : Keeps s (execCtxEnd slot c s) := command_keeps fun h => mailTake_wf (endContext_wf (updCtx_wf h))

theorem execContextDrained_keeps {c : Nat} : Keeps s (execContextDrained c s) := by
  unfold execContextDrained
  dsimp only
  split
  · exact .refused _
  · exact .next fun h => finishWaiting_wf (updCtx_wf (foldl_wf (fun _ _ h => leaveCore_wf (drainAll_wf h)) _ (State.onExec_wf (foldl_wf
      (fun _ _ h => removePair_wf h) _ (endIdleGroups_wf h)))))

theorem invalDone_keeps {slot c : Nat} {left : List (Nat × Nat)} :
    Keeps s (invalDone s slot c left) := eventIf_keeps fun h => mailDone_wf (updCtx_wf h)

theorem execInval_keeps {slot c : Nat} {off len : Dword} {glob : Bool} : Keeps s (execInval slot c off len glob s) := by
  unfold execInval
  dsimp only
  split
  · exact invalDone_keeps
  · exact command_keeps fun h => runInval_wf h

theorem execRangeSet_keeps {slot k : Nat} {e0 : BitVec 256} : Keeps s (execRangeSet slot k e0 s) := by
  unfold execRangeSet
  dsimp only
  exact command_keeps fun h => mailDone_wf (State.onMemory_wf h)

theorem execRangeClear_keeps {slot k : Nat} : Keeps s (execRangeClear slot k s) := by
  unfold execRangeClear
  dsimp only
  split
  · exact invalDone_keeps
  · refine command_keeps fun h => ?_
    split
    · exact runInval_wf (State.onMemory_wf h)
    · exact mailDone_wf (State.onMemory_wf h)

theorem execRegionEnable_keeps {slot c k : Nat} : Keeps s (execRegionEnable slot c k s) := by
  unfold execRegionEnable
  dsimp only
  split
  · rename_i t ht
    obtain ⟨r, -, hr⟩ := Option.bind_eq_some_iff.mp ht
    exact command_keeps fun h => mailDone_wf (registerRegion_wf h hr)
  · exact command_keeps id

theorem execRegionDisable_keeps {slot c k : Nat} : Keeps s (execRegionDisable slot c k s) := by
  unfold execRegionDisable
  dsimp only
  exact command_keeps fun h => mailDone_wf (removeRegion_wf h)

theorem execWindowEnable_keeps {slot c k : Nat} : Keeps s (execWindowEnable slot c k s) := by
  unfold execWindowEnable
  dsimp only
  split
  · exact .next fun h => windowDone_wf h
  · split
    · exact command_keeps fun h => mailTake_wf (markEntry_wf (updCtx_wf h))
    · exact command_keeps fun h => h

theorem execWindowDisable_keeps {slot c k : Nat} : Keeps s (execWindowDisable slot c k s) := by
  unfold execWindowDisable
  dsimp only
  split
  · exact .next fun h => windowDone_wf h
  · exact command_keeps fun h => mailTake_wf (markEntry_wf (State.onFabric_wf (updCtx_wf h)))

theorem execCtxMembers_keeps {slot c : Nat} {mask : BitVec 1024} : Keeps s (execCtxMembers slot c mask s) := by
  unfold execCtxMembers
  dsimp only
  split
  · exact .refused _
  · exact command_keeps fun h => mailDone_wf (formMembers_wf (updCtx_wf h))

theorem execPeerTable_keeps {slot c : Nat} {base : Dword} {n : Nat} : Keeps s (execPeerTable slot c base n s) := by
  unfold execPeerTable
  dsimp only
  exact command_keeps fun h => mailDone_wf (updCtx_wf h)

/-! #### The words and events of Machine/Bringup -/

theorem execFwStage_keeps {slot : Nat} {addr : Dword} {len : Nat} {pieces : List Byte} : Keeps s (execFwStage slot addr len pieces s) := by
  unfold execFwStage
  dsimp only
  exact command_keeps fun h => mailDone_wf (State.onMysko_wf h)

/-- A state without a listed byte is canonical. -/
theorem canonical_of_nil (h : s.mem = []) : MemoryCanonical s := by
  unfold MemoryCanonical
  rw [h]
  exact ⟨rfl, by simp⟩

theorem execPowerOnReset_keeps : Keeps s (execPowerOnReset s) := by
  unfold execPowerOnReset
  dsimp only
  split
  · split
    · exact .next fun _ => enterPhase_wf (canonical_of_nil rfl)
    · exact .next fun _ => canonical_of_nil rfl
  · exact .next fun _ => enterPhase_wf (canonical_of_nil rfl)

theorem execStack0Trained_keeps : Keeps s (execStack0Trained s) := eventIf_keeps fun h => enterPhase_wf (State.onMysko_wf h)

theorem execServiceFull_keeps {slot : Nat} : Keeps s (execServiceFull slot s) := by
  unfold execServiceFull
  exact command_keeps fun _ => mailDone_wf (canonical_of_nil rfl)

theorem execDomainForm_keeps {slot index count : Nat} {laneMap floors : Dword} {mismatch : Option Nat} :
    Keeps s (execDomainForm slot index count laneMap floors mismatch s) := by
  unfold execDomainForm
  extract_lets lanes ps bad st
  split
  · exact command_keeps fun h => mailDone_wf (installDomain_wf (sendProbes_wf h))
  · split
    · exact .refused _
    · exact command_keeps fun h => mailDone_wf (sendProbes_wf h)

theorem execDomainLeave_keeps {slot : Nat} : Keeps s (execDomainLeave slot s) := command_keeps fun h => mailDone_wf (endDomain_wf h)

theorem execUePort_keeps {slot port : Nat} {entry : BitVec 512} : Keeps s (execUePort slot port entry s) := by
  unfold execUePort
  dsimp only
  exact command_keeps fun h => mailDone_wf (State.onFabric_wf h)

theorem execPowerSet_keeps {slot limit q : Nat} : Keeps s (execPowerSet slot limit q s) := by
  unfold execPowerSet
  dsimp only
  exact command_keeps fun h => mailDone_wf (State.onMysko_wf h)

theorem clockStep_epoch (m : Mysko) : (clockStep m).serviceEpoch = m.serviceEpoch := by
  unfold clockStep
  extract_lets n sum below
  split
  · rfl
  · split
    · rfl
    · split <;> rfl

theorem execPowerSample_keeps {watts junction inlet : Nat} : Keeps s (execPowerSample watts junction inlet s) := by
  unfold execPowerSample
  exact eventIf_keeps fun h => State.onMysko_wf h fun m => clockStep_epoch _

theorem execThermalTrip_keeps : Keeps s (execThermalTrip s) := by
  unfold execThermalTrip
  dsimp only
  refine eventIf_keeps fun h => ?_
  split
  · exact State.onMysko_wf (errorRecord_wf (State.onMysko_wf (endAllContexts_wf h)))
  · exact State.onMysko_wf (endAllContexts_wf h)

theorem execTimeExchange_keeps {offset : Int} : Keeps s (execTimeExchange offset s) := by
  unfold execTimeExchange
  dsimp only
  exact eventIf_keeps fun h => State.onMysko_wf h

theorem execTimeOffsetAlert_keeps :
    Keeps s (execTimeOffsetAlert s) := eventIf_keeps fun h => errorRecord_wf (setEvent_wf (State.onMysko_wf h))

/-! #### The words and events of Machine/Records -/

theorem execSealPerform_keeps : Keeps s (execSealPerform s) := by
  unfold execSealPerform
  split
  · exact .refused _
  · dsimp only
    split
    · split
      · exact .next fun h => State.onMysko_wf h
      · split
        · split
          · exact .next fun h => sealGroup_wf (State.onMysko_wf h)
          · exact .refused _
        · exact .next fun h => State.onMysko_wf h
    · exact .next fun h => mailDone_wf (updCtx_wf (physWrite_wf _ _ (nextSequence_wf (State.onMysko_wf h) rfl)))
    · exact .next fun h => mailDone_wf (physWrite_wf _ _ (nextSequence_wf (State.onMysko_wf h) rfl))

theorem execJobSet_keeps {slot c : Nat} {job : BitVec 256} : Keeps s (execJobSet slot c job s) := by
  unfold execJobSet
  dsimp only
  split
  · exact .refused _
  · exact command_keeps fun h => mailDone_wf (formMembers_wf (updCtx_wf h))

theorem execHmRead_keeps {slot c : Nat} : Keeps s (execHmRead slot c s) := by
  unfold execHmRead
  dsimp only
  exact command_keeps fun h => mailReply_wf h

theorem queueSeal_keeps {slot status : Nat} {q : SealReq} : Keeps s (queueSeal s slot status q) := by
  unfold queueSeal
  split
  · exact .refused _
  · exact command_keeps fun h => mailTake_wf (State.onMysko_wf h)

theorem execHmSeal_keeps {slot c : Nat} {dst : Dword} : Keeps s (execHmSeal slot c dst s) := by
  unfold execHmSeal
  dsimp only
  exact queueSeal_keeps

theorem execDomAttest_keeps {slot c : Nat} {dst : Dword} : Keeps s (execDomAttest slot c dst s) := by
  unfold execDomAttest
  dsimp only
  exact queueSeal_keeps

theorem execIdRead_keeps {slot : Nat} {dst : Dword} : Keeps s (execIdRead slot dst s) := by
  unfold execIdRead
  dsimp only
  exact command_keeps fun h => mailDone_wf (physWrite_wf _ _ h)

theorem execErrRead_keeps {slot : Nat} {dst : Dword} {n : Nat} : Keeps s (execErrRead slot dst n s) := by
  unfold execErrRead
  dsimp only
  exact command_keeps fun h => mailDone_wf (State.onMysko_wf (physWrite_wf _ _ h))

theorem execBringupComplete_keeps {hbm : BitVec 12} {found : SelfTests} : Keeps s (execBringupComplete hbm found s) := by
  unfold execBringupComplete
  dsimp only
  refine eventIf_keeps fun h => ?_
  split
  · exact foldl_wf (fun _ _ h => fenceCore_wf h) _ (State.onMysko_wf h)
  · exact State.onMysko_wf (endAllContexts_wf (foldl_wf (fun _ _ h => fenceCore_wf h) _ (State.onMysko_wf h)))

theorem execErrorReport_keeps {r : ErrReport} : Keeps s (execErrorReport r s) := by
  unfold execErrorReport
  dsimp only
  split
  · exact .refused _
  · split
    · refine .next fun h => ?_
      split
      · exact errorRecord_wf (State.onMysko_wf h)
      · exact State.onMysko_wf h
    · split
      · exact .next fun h => errorRecord_wf h
      · exact .next fun h => fence_wf (errorRecord_wf h)

theorem execTraceSet_keeps {slot core : Nat} {base : Dword} {cap shift : Nat} : Keeps s (execTraceSet slot core base cap shift s) := by
  unfold execTraceSet
  dsimp only
  exact command_keeps fun h => mailDone_wf (updCore_wf (physWrite_wf _ _ h))

theorem execTraceDrain_keeps {core : Nat} : Keeps s (execTraceDrain core s) := by
  unfold execTraceDrain
  refine event_keeps fun _ h e => ?_
  exact drainOne_wf h e

theorem execTraceSample_keeps {core : Nat} : Keeps s (execTraceSample core s) := by
  unfold execTraceSample
  dsimp only
  exact eventIf_keeps fun h => updCore_wf (foldl_wf (fun _ _ h => sampleUnit_wf h) _ (mk_wf h))

theorem execDebugSet_keeps {slot c : Nat} {on : Bool} {base : Dword} : Keeps s (execDebugSet slot c on base s) := by
  unfold execDebugSet
  dsimp only
  exact command_keeps fun h => mailDone_wf (updCtx_wf h)

theorem execDebugStop_keeps {slot c group : Nat} {stream : Stream} {entry : Nat} : Keeps s (execDebugStop slot c group stream entry s) := by
  unfold execDebugStop
  dsimp only
  refine command_keeps fun h => mailDone_wf ?_
  split
  · exact h
  · split
    · exact h
    · split
      · exact updPath_wf h
      · split
        · exact debugStop_wf h
        · exact physWrite_wf _ _ (debugStop_wf h)

theorem execDebugRelease_keeps {slot c group : Nat} {stream : Stream} {entry : Nat} :
    Keeps s (execDebugRelease slot c group stream entry s) := by
  unfold execDebugRelease
  split
  · split
    · exact command_keeps fun h => h
    · exact command_keeps fun h => mailDone_wf (pressRelease_wf h)
  · dsimp only
    refine command_keeps fun h => mailDone_wf ?_
    split
    · exact h
    · split
      · exact updPath_wf h
      · exact physWrite_wf _ _ (updPath_wf h)

theorem execDebugDump_keeps {slot c group : Nat} {stream : Stream} {entry : Nat} {dst : Dword} :
    Keeps s (execDebugDump slot c group stream entry dst s) := by
  unfold execDebugDump
  split
  · exact command_keeps fun h => h
  · dsimp only
    refine command_keeps fun h => mailDone_wf ?_
    split
    · exact physWrite_wf _ _ h
    · exact writeChunks_wf (zeroRange_wf h)

/-! #### The words and events of Machine/CrossLane -/

theorem issueRank_keeps {i : Instr} {f : FmtA} {v : Slot → Mask → Lanes → Nat → Nat → Dword} : Keeps s (issueRank i f v s) := by
  unfold issueRank
  refine issueWord_keeps fun _ _ h => ?_
  dsimp only
  exact .done (popPorts_wf (writeVec_wf h))

theorem execTopk_keeps {f : FmtA} : Keeps s (execTopk f s) := by
  unfold execTopk
  exact issueRank_keeps

theorem execTopkM_keeps {f : FmtA} : Keeps s (execTopkM f s) := by
  unfold execTopkM
  exact issueRank_keeps

/-! #### The words and events of Machine/Uniform -/

theorem issueUni_keeps {i : Instr} {h0 : Head} {dd : Bool} {v : Slot → Nat → Nat} : Keeps s (issueUni i h0 dd v s) := by
  unfold issueUni
  refine issueWord_keeps fun _ _ h => ?_
  refine .done ?_
  split
  · exact writePair_wf h
  · exact writeUni_wf h

theorem uniA_keeps {i : Instr} {f : FmtA} {op : Nat → Nat → Nat → Nat → Nat} : Keeps s (uniA i f op s) := issueUni_keeps
theorem uniI_keeps {i : Instr} {f : FmtI} {op : Nat → Nat → Nat → Nat → Nat} : Keeps s (uniI i f op s) := issueUni_keeps

theorem execSand_keeps {f : FmtA} : Keeps s (execSand f s) := by
  unfold execSand
  exact uniA_keeps

theorem execSor_keeps {f : FmtA} : Keeps s (execSor f s) := by
  unfold execSor
  exact uniA_keeps

theorem execSxor_keeps {f : FmtA} : Keeps s (execSxor f s) := by
  unfold execSxor
  exact uniA_keeps

theorem execSmov_keeps {f : FmtA} : Keeps s (execSmov f s) := by
  unfold execSmov
  exact uniA_keeps

theorem execSsel_keeps {f : FmtA} : Keeps s (execSsel f s) := by
  unfold execSsel
  exact uniA_keeps

theorem execSandI_keeps {f : FmtI} : Keeps s (execSandI f s) := by
  unfold execSandI
  exact uniI_keeps

theorem execSorI_keeps {f : FmtI} : Keeps s (execSorI f s) := by
  unfold execSorI
  exact uniI_keeps

theorem execSxorI_keeps {f : FmtI} : Keeps s (execSxorI f s) := by
  unfold execSxorI
  exact uniI_keeps

theorem execSmovI_keeps {f : FmtI} : Keeps s (execSmovI f s) := by
  unfold execSmovI
  exact uniI_keeps

theorem execSrdsys_keeps {f : FmtA} : Keeps s (execSrdsys f s) := by
  unfold execSrdsys
  refine issueWord_keeps fun _ _ h => ?_
  dsimp only
  refine .done ?_
  split
  · exact writePair_wf h
  · exact writeUni_wf h

theorem execSldc_keeps {f : FmtA} : Keeps s (execSldc f s) := by
  unfold execSldc
  refine issueWord_keeps fun _ _ h => ?_
  dsimp only
  exact .done (writeUni_wf h)

theorem issuePredOp_keeps {i : Instr} {h0 : Head} {v : Slot → Mask} : Keeps s (issuePredOp i h0 v s) := by
  unfold issuePredOp
  refine issueWord_keeps fun _ _ h => ?_
  exact .done (writePred_wf h)

theorem execPcnt_keeps {f : FmtA} : Keeps s (execPcnt f s) := by
  unfold execPcnt
  refine issueWord_keeps fun _ _ h => ?_
  exact .done (writeUni_wf h)

theorem execPfirst_keeps {f : FmtA} : Keeps s (execPfirst f s) := by
  unfold execPfirst
  refine issueWord_keeps fun _ _ h => ?_
  exact .done (writeUni_wf h)

/-! #### Every instruction and event -/

theorem exec_keeps (i : Instr) (s : State) : Keeps s (exec i s) := by
  cases i with
  | trap => exact execTrap_keeps
  | bkpt => exact execBkpt_keeps
  | sysrd => exact execSysrd_keeps
  | syswr => exact execSyswr_keeps
  | eret => exact execEret_keeps
  | mapft => exact execMapft_keeps
  | grow => exact execGrow_keeps
  | shrink => exact execShrink_keeps
  | launch => exact execLaunch_keeps
  | temit => exact execTemit_keeps
  | tstamp => exact execTstamp_keeps
  | hmread => exact execHmread_keeps
  | hmseal => exact execHmseal_keeps
  | vadd | vsub | vmul | vmulh | vmad | vmin | vmax | vabs | vneg | vand | vor | vxor | vnot | vshl | vshr | vsar | vrot | vbfx | vbfi
  | vpopc | vclz | vctz | vbrev | vpermb | vmov => exact intA_keeps
  | vaddc | vsubb | vaddcI | vsubbI => exact issueCarry_keeps
  | vsel | cvt | cvtn | cvtw | mxq | mxdq | vshfl | vbcast | vredadd | vredmax | vscan | vmovI => exact issueVec_keeps
  | vcmp | vtest | vfcmp | vfclass | selk | vcmpI | vtestI | vfcmpI => exact issuePred_keeps
  | vfadd | vfsub | vfmul | vfma | vfms | vfnma | vfmin | vfmax | vfabs | vfneg | vfcpys | vrcp | vrsqrt | vsqrt | vexp2 | vlog2 | vsin
  | vcos | vtanh => exact fltOpA_keeps
  | cvtef => exact execCvtef_keeps
  | topk => exact execTopk_keeps
  | topkM => exact execTopkM_keeps
  | sadd | ssub | smul | sshl | sshr | ssar | smin | smax => exact uniA_keeps
  | sand => exact execSand_keeps
  | sor => exact execSor_keeps
  | sxor => exact execSxor_keeps
  | smov => exact execSmov_keeps
  | ssel => exact execSsel_keeps
  | srdsys => exact execSrdsys_keeps
  | sldc => exact execSldc_keeps
  | pset | pclr | pand | por | pxor | pandn | pmov => exact issuePredOp_keeps
  | pcnt => exact execPcnt_keeps
  | pfirst => exact execPfirst_keeps
  | execrd => exact execExecrd_keeps
  | execwr => exact execExecwr_keeps
  | recon => exact execRecon_keeps
  | swait => exact execSwait_keeps
  | vaddI | vsubI | vmulI | vmulhI | vminI | vmaxI | vandI | vorI | vxorI | vshlI | vshrI | vsarI | vrotI => exact intI_keeps
  | vfaddI | vfsubI | vfmulI | vfminI | vfmaxI | vfcpysI => exact fltOpI_keeps
  | saddI | ssubI | smulI | sshlI | sshrI | ssarI | sminI | smaxI => exact uniI_keeps
  | sandI => exact execSandI_keeps
  | sorI => exact execSorI_keeps
  | sxorI => exact execSxorI_keeps
  | smovI => exact execSmovI_keeps
  | ldv => exact execLdv_keeps
  | ldp => exact execLdp_keeps
  | grld => exact execGrld_keeps
  | pfetch => exact execPfetch_keeps
  | st => exact execSt_keeps
  | stq => exact execStq_keeps
  | lds | ldcl => exact issueSpadLoad_keeps
  | sts | stcl => exact issueSpadStore_keeps
  | ldsT => exact execLdsT_keeps
  | qcount => exact execQcount_keeps
  | qskip => exact execQskip_keeps
  | aadd => exact execAadd_keeps
  | asub => exact execAsub_keeps
  | aand => exact execAand_keeps
  | aor => exact execAor_keeps
  | axor => exact execAxor_keeps
  | amin => exact execAmin_keeps
  | amax => exact execAmax_keeps
  | aminu => exact execAminu_keeps
  | amaxu => exact execAmaxu_keeps
  | axchg => exact execAxchg_keeps
  | acas => exact execAcas_keeps
  | fadd => exact execFadd_keeps
  | faddOrd => exact execFaddOrd_keeps
  | mxacc => exact execMxacc_keeps
  | mxaccOrd => exact execMxaccOrd_keeps
  | mxld => exact execMxld_keeps
  | mxst => exact execMxst_keeps
  | fence => exact execFence_keeps
  | waitc => exact execWaitc_keeps
  | waitw => exact execWaitw_keeps
  | harrive => exact execHarrive_keeps
  | hwait => exact execHwait_keeps
  | cjoin => exact execCjoin_keeps
  | cleave => exact execCleave_keeps
  | carrive => exact execCarrive_keeps
  | cwait => exact execCwait_keeps
  | sigdec => exact execSigdec_keeps
  | waitsig => exact execWaitsig_keeps
  | copy => exact execCopy_keeps
  | copyo => exact execCopyo_keeps
  | copyc => exact execCopyc_keeps
  | gclaim => exact execGclaim_keeps
  | gcommit => exact execGcommit_keeps
  | gawait => exact execGawait_keeps
  | gretire => exact execGretire_keeps
  | sqpub => exact execSqpub_keeps
  | sqget => exact execSqget_keeps
  | lease => exact execLease_keeps
  | leaseDrop => exact execLeaseDrop_keeps
  | leaseq => exact execLeaseq_keeps
  | nmop => exact execNmop_keeps
  | stMr => exact execStMr_keeps
  | xfence => exact execXfence_keeps
  | rgetQueue => exact execRgetQueue_keeps
  | rgetSpad => exact execRgetSpad_keeps
  | bra => exact execBra_keeps
  | brc => exact execBrc_keeps
  | bdiv => exact execBdiv_keeps
  | brx => exact execBrx_keeps
  | call => exact execCall_keeps
  | ret => exact execRet_keeps
  | exit => exact execExit_keeps
  | loops => exact execLoops_keeps
  | mloop => exact execMloop_keeps
  | mbra => exact execMbra_keeps
  | mend => exact execMend_keeps
  | mload => exact execMload_keeps
  | mloadT => exact execMloadT_keeps
  | mloadS => exact execMloadS_keeps
  | mstore => exact execMstore_keeps
  | mma => exact execMma_keeps
  | mzero => exact execMzero_keeps
  | mcvt => exact execMcvt_keeps
  | mharrive => exact execMharrive_keeps
  | mhwait => exact execMhwait_keeps
  | mpop => exact execMpop_keeps
  | msig => exact execMsig_keeps
  | runFetch => exact execRunFetch_keeps
  | pathArbitration => exact execPathArbitration_keeps
  | pathPromotion => exact execPathPromotion_keeps
  | pressArbitration => exact execPressArbitration_keeps
  | bankTheft => exact execBankTheft_keeps
  | ladleWindowAccess => exact execLadleWindowAccess_keeps
  | qdead => exact execQdead_keeps
  | loadDataReturn => exact execLoadDataReturn_keeps
  | faultReturn => exact execFaultReturn_keeps
  | storeUnitStore => exact execStoreUnitStore_keeps
  | placement => exact execPlacement_keeps
  | migration => exact execMigration_keeps
  | growPreemption => exact execGrowPreemption_keeps
  | cwaitPreemption => exact execCwaitPreemption_keeps
  | preemption => exact execPreemption_keeps
  | retirement => exact execRetirement_keeps
  | pressCauseDelivery => exact execPressCauseDelivery_keeps
  | hoopArrivalCount => exact execHoopArrivalCount_keeps
  | pressCommandFinish => exact execPressCommandFinish_keeps
  | copyComplete => exact execCopyComplete_keeps
  | scoreboardGrant => exact execScoreboardGrant_keeps
  | watchMatch => exact execWatchMatch_keeps
  | swaitDeadline => exact execSwaitDeadline_keeps
  | homeSliceAccess => exact execHomeSliceAccess_keeps
  | l1Recall => exact execL1Recall_keeps
  | directoryEviction => exact execDirectoryEviction_keeps
  | l2Eviction => exact execL2Eviction_keeps
  | pageWalk => exact execPageWalk_keeps
  | remoteRequest => exact execRemoteRequest_keeps
  | homeAgentOp => exact execHomeAgentOp_keeps
  | crucibleArrival => exact execCrucibleArrival_keeps
  | orderEntryLoad => exact execOrderEntryLoad_keeps
  | orderEntryEvict => exact execOrderEntryEvict_keeps
  | orderStall => exact execOrderStall_keeps
  | flitReceive => exact execFlitReceive_keeps
  | laneSetChange => exact execLaneSetChange_keeps
  | leaseRequestArrival => exact execLeaseRequestArrival_keeps
  | leaseDecision => exact execLeaseDecision_keeps
  | leaseGrant => exact execLeaseGrant_keeps
  | noticeEnd => exact execNoticeEnd_keeps
  | leaseTermExpiry => exact execLeaseTermExpiry_keeps
  | mrContribution => exact execMrContribution_keeps
  | mrResend => exact execMrResend_keeps
  | mrDelivery => exact execMrDelivery_keeps
  | rgetServe => exact execRgetServe_keeps
  | mapftExecute => exact execMapftExecute_keeps
  | xfenceComplete => exact execXfenceComplete_keeps
  | signalDecrement => exact execSignalDecrement_keeps
  | waitsigPoll => exact execWaitsigPoll_keeps
  | sealPerform => exact execSealPerform_keeps
  | qbase => exact execQbase_keeps
  | queueEnable => exact execQueueEnable_keeps
  | queueDisable => exact execQueueDisable_keeps
  | qctlConfig => exact execQctlConfig_keeps
  | qerr => exact execQerr_keeps
  | doorbell => exact execDoorbell_keeps
  | registerWrite => exact execRegisterWrite_keeps
  | hostWindowRead => exact execHostWindowRead_keeps
  | hostWindowWrite => exact execHostWindowWrite_keeps
  | packetRead => exact execPacketRead_keeps
  | launchPacketRead => exact execLaunchPacketRead_keeps
  | dependenceMet => exact execDependenceMet_keeps
  | priorityStarvation => exact execPriorityStarvation_keeps
  | eventWordClear => exact execEventWordClear_keeps
  | ctxCreate => exact execCtxCreate_keeps
  | ctxCores => exact execCtxCores_keeps
  | ctxStop => exact execCtxStop_keeps
  | contextStopped => exact execContextStopped_keeps
  | ctxResume => exact execCtxResume_keeps
  | ctxEnd => exact execCtxEnd_keeps
  | contextDrained => exact execContextDrained_keeps
  | inval => exact execInval_keeps
  | rangeSet => exact execRangeSet_keeps
  | rangeClear => exact execRangeClear_keeps
  | regionEnable slot c k => exact execRegionEnable_keeps (s := s) (slot := slot) (c := c) (k := k)
  | regionDisable => exact execRegionDisable_keeps
  | windowEnable => exact execWindowEnable_keeps
  | windowDisable => exact execWindowDisable_keeps
  | fwStage => exact execFwStage_keeps
  | serviceFull => exact execServiceFull_keeps
  | domainForm => exact execDomainForm_keeps
  | domainLeave => exact execDomainLeave_keeps
  | ctxMembers => exact execCtxMembers_keeps
  | uePort => exact execUePort_keeps
  | peerTable => exact execPeerTable_keeps
  | powerSet => exact execPowerSet_keeps
  | jobSet => exact execJobSet_keeps
  | hmRead => exact execHmRead_keeps
  | hmSeal => exact execHmSeal_keeps
  | domAttest => exact execDomAttest_keeps
  | idRead => exact execIdRead_keeps
  | errRead => exact execErrRead_keeps
  | traceSet => exact execTraceSet_keeps
  | debugSet => exact execDebugSet_keeps
  | debugStop => exact execDebugStop_keeps
  | debugRelease => exact execDebugRelease_keeps
  | debugDump => exact execDebugDump_keeps
  | powerOnReset => exact execPowerOnReset_keeps
  | stack0Trained => exact execStack0Trained_keeps
  | bringupComplete => exact execBringupComplete_keeps
  | powerSample => exact execPowerSample_keeps
  | thermalTrip => exact execThermalTrip_keeps
  | budgetRefill => exact execBudgetRefill_keeps
  | keySwitchAnnounce => exact execKeySwitchAnnounce_keeps
  | keySwitch => exact execKeySwitch_keeps
  | keySwitchRetry => exact execKeySwitchRetry_keeps
  | oldGenerationExpiry => exact execOldGenerationExpiry_keeps
  | timeExchange => exact execTimeExchange_keeps
  | timeOffsetAlert => exact execTimeOffsetAlert_keeps
  | l2Scrub => exact execL2Scrub_keeps
  | hbmScrub => exact execHbmScrub_keeps
  | errorReport => exact execErrorReport_keeps
  | traceDrain => exact execTraceDrain_keeps
  | traceSample => exact execTraceSample_keeps
  | acknowledgementReturn => exact execAcknowledgementReturn_keeps
  | rgetPieceLanding => exact execRgetPieceLanding_keeps
  | transportFailure => exact execTransportFailure_keeps
  | peerLeavesDomain => exact execPeerLeavesDomain_keeps

theorem Keeps.next_canonical {s t : State} (h : Keeps s (.next t)) (hs : MemoryCanonical s) : MemoryCanonical t := by
  cases h with
  | next h => exact h hs

theorem Keeps.ne_fault {s : State} {o : Host.Outcome State Fault Refusal} (h : Keeps s o) (x : Fault) : o ≠ .fault x := by
  rintro rfl
  cases h

/-! #### The device's own moves -/

/-- Every move of a list keeps the canonical form. -/
def AllKeep (l : List Move) : Prop := ∀ m ∈ l, ∀ s, Keeps s (m s)

theorem AllKeep.nil : AllKeep [] := fun _ h => by cases h

theorem AllKeep.cons {m : Move} {l : List Move} (h : ∀ s, Keeps s (m s)) (k : AllKeep l) : AllKeep (m :: l) :=
  List.forall_mem_cons.mpr ⟨h, k⟩

theorem AllKeep.one {m : Move} (h : ∀ s, Keeps s (m s)) : AllKeep [m] := .cons h .nil

theorem AllKeep.append {l k : List Move} (hl : AllKeep l) (hk : AllKeep k) : AllKeep (l ++ k) :=
  fun m h => (List.mem_append.mp h).elim (hl m) (hk m)

theorem AllKeep.flatMap {α : Type} {l : List α} {f : α → List Move} (h : ∀ x, AllKeep (f x)) : AllKeep (l.flatMap f) := by
  intro m hm
  obtain ⟨x, -, hx⟩ := List.mem_flatMap.mp hm
  exact h x m hx

theorem AllKeep.map {α : Type} {l : List α} {f : α → Move} (h : ∀ x s, Keeps s (f x s)) : AllKeep (l.map f) := by
  intro m hm
  obtain ⟨x, -, rfl⟩ := List.mem_map.mp hm
  exact h x

/-- Moves that are tried under a condition. -/
theorem AllKeep.ite {c : Prop} [Decidable c] {l k : List Move} (hl : AllKeep l) (hk : AllKeep k) : AllKeep (if c then l else k) := by
  split
  · exact hl
  · exact hk

theorem opMoves_keep (s : State) (o : Op) : AllKeep (opMoves s o) := by
  unfold opMoves
  extract_lets own lane back special
  have hl : AllKeep lane := by
    dsimp only [lane]
    split
    · exact .one fun _ => execHomeSliceAccess_keeps
    · exact .nil
  have hb : AllKeep back :=
    ((AllKeep.ite (.one fun _ => execLoadDataReturn_keeps) .nil).append (.ite (.one fun _ => execAcknowledgementReturn_keeps) .nil)).append
      (.one fun _ => execFaultReturn_keeps)
  have hs : AllKeep special := by
    dsimp only [special]
    split
    · exact .ite (.one fun _ => execCopyComplete_keeps) .nil
    · exact .one fun _ => execHoopArrivalCount_keeps
    · exact .ite (.map fun _ _ => execCrucibleArrival_keeps) .nil
    · exact .ite (.one fun _ => execHomeAgentOp_keeps) .nil
    · exact .one fun _ => execLaunchPacketRead_keeps
    · exact .ite (.one fun _ => execMapftExecute_keeps) (.ite (.one fun _ => execLoadDataReturn_keeps) .nil)
    · exact .one fun _ => execXfenceComplete_keeps
    · refine .ite ?_ .nil
      exact .cons (fun _ => execMrContribution_keeps) (.cons (fun _ => execMrContribution_keeps) (.one fun _ => execMrResend_keeps))
    · exact .nil
  exact (hl.append hs).append hb

theorem pathMoves_keep (s : State) (g : Group) : AllKeep (pathMoves s g) := by
  refine .flatMap fun e => ?_
  dsimp only
  refine .ite .nil (.append (.append (.ite (.one fun _ => execPathPromotion_keeps) .nil) ?_) (.ite (.one fun _ => execSwaitDeadline_keeps)
    .nil))
  split
  · exact .cons (fun _ => execWatchMatch_keeps) (.ite (.one fun _ => execWaitsigPoll_keeps) .nil)
  · exact .one fun _ => execWatchMatch_keeps
  · exact .nil

theorem pairMoves_keep (p : Pair) : AllKeep (pairMoves p) := by
  refine .append (.append (.append (.map fun _ _ => execStoreUnitStore_keeps) (.ite (.one fun _ => execQdead_keeps) .nil)) ?_)
    (.one fun _ => execCwaitPreemption_keeps)
  split
  · exact .nil
  · exact .cons (fun _ => execPreemption_keeps) (.one fun _ => execRetirement_keeps)

theorem placeMoves_keep (s : State) : AllKeep (placeMoves s) := by
  refine .append (.append (.flatMap fun q => ?_) (.flatMap fun p => .ite .nil (.map fun _ _ => execPlacement_keeps)))
    (.flatMap fun co => .append (.ite (.map fun _ _ => execPlacement_keeps) .nil)
      (.cons (fun _ => execPreemption_keeps) (.one fun _ => execRetirement_keeps)))
  refine .append (.ite (.one fun _ => execPacketRead_keeps) .nil) ?_
  split
  · exact .append (.append (.ite (.one fun _ => execDependenceMet_keeps) .nil) (.one fun _ => execPriorityStarvation_keeps))
      (.map fun _ _ => execPlacement_keeps)
  · exact .nil

theorem pressMoves_keep (s : State) : AllKeep (pressMoves s) :=
  .append (.append (.flatMap fun _ => .append (.map fun _ _ => execPressCommandFinish_keeps)
    (.ite (.one fun _ => execPressCauseDelivery_keeps) .nil)) (.map fun _ _ => execPressArbitration_keeps))
    (.map fun _ _ => execScoreboardGrant_keeps)

theorem fabricMoves_keep (s : State) : AllKeep (fabricMoves s) := by
  refine .append (.append (.append (.append (.append (.ite .nil (.one fun _ => execLeaseDecision_keeps))
    (.map fun _ _ => execNoticeEnd_keeps)) (.map fun _ _ => execLeaseTermExpiry_keeps))
    (.flatMap fun c => .flatMap fun l => .ite (.cons (fun _ => execNoticeEnd_keeps) (.one fun _ => execLeaseTermExpiry_keeps)) .nil))
    (.flatMap fun l => .ite (.one fun _ => execLaneSetChange_keeps) .nil)) (.flatMap fun x => .ite ?_ (.one fun _ =>
      execOldGenerationExpiry_keeps))
  exact .cons (fun _ => execKeySwitchAnnounce_keeps) (.cons (fun _ => execKeySwitch_keeps) (.one fun _ => execKeySwitchRetry_keeps))

theorem myskoMoves_keep (s : State) : AllKeep (myskoMoves s) := by
  refine .append (.append (.append (.append (.append (.append (.ite .nil (.one fun _ => execSealPerform_keeps)) (.flatMap fun c => ?_))
    (.flatMap fun c => .map fun _ _ => execInval_keeps)) (.ite (.one fun _ => execTimeOffsetAlert_keeps) .nil))
    (.ite (.one fun _ => execThermalTrip_keeps) .nil)) (.ite (.one fun _ => execStack0Trained_keeps) .nil))
    (.ite (.one fun _ => execBringupComplete_keeps) .nil)
  split
  · exact .one fun _ => execContextStopped_keeps
  · exact .one fun _ => execContextDrained_keeps
  · exact .nil

theorem orderMoves_keep (s : State) : AllKeep (orderMoves s) := by
  refine .map fun e t => ?_
  split
  · exact execOrderEntryLoad_keeps
  · exact execOrderStall_keeps

theorem coreMoves_keep (s : State) : AllKeep (coreMoves s) :=
  .append (.append (.map fun _ _ => execTraceDrain_keeps) (.map fun _ _ => execLadleWindowAccess_keeps))
    (.flatMap fun _ => .cons (fun _ => execPathArbitration_keeps) (.one fun _ => execGrowPreemption_keeps))

theorem clockedMoves_keep (s : State) : AllKeep (clockedMoves s) :=
  .append (.append (.append (.append (.append (.append (.append (.append (.ite (.one fun _ => execBudgetRefill_keeps) .nil)
    (.flatMap fun g => pathMoves_keep s g)) (coreMoves_keep s)) (pressMoves_keep s)) (.flatMap fun o => opMoves_keep s o))
    (.flatMap fun p => pairMoves_keep p)) (placeMoves_keep s)) (.map fun _ _ => execSignalDecrement_keeps)) (orderMoves_keep s)

theorem moves_keep (s : State) : AllKeep (moves s) :=
  .append (.append (.append (.ite .nil (clockedMoves_keep s)) (fabricMoves_keep s)) (myskoMoves_keep s))
    (.ite .nil (.map fun _ _ => execTraceSample_keeps))

/-! #### A step -/

theorem nextMove_keeps {s : State} {m : Move} (h : nextMove s = some m) (t : State) : Keeps t (m t) :=
  moves_keep s m (List.mem_of_getElem? h) t

theorem idleStep_keeps : Keeps s (idleStep s) := by
  unfold idleStep
  dsimp only
  split
  · exact .next fun h => passTick_wf h
  · rename_i m hm
    have hk := nextMove_keeps hm { s with turn := s.turn + 1 }
    split
    · exact .next fun h => mk_wf h
    · exact .trans (fun h => mk_wf h) hk

theorem issueStep_keeps : Keeps s (issueStep s) := by
  unfold issueStep
  split
  · exact exec_keeps _ s
  · dsimp only
    split
    · exact .trans issuerFetch_wf (exec_keeps _ _)
    · exact .next issuerFetch_wf

/-- A step keeps the canonical form, and is no fault but where a stopped clock would have to move the agenda's head. -/
theorem step_keeps (h : ∀ i rest, s.agenda = i :: rest → (s.mysko.stopped && needsClock i) = false) : Keeps s (step s) := by
  unfold step
  split
  · rename_i i rest ha
    rw [if_neg (by rw [h i rest ha]; exact Bool.false_ne_true)]
    exact .trans (fun h => mk_wf h) (exec_keeps i _)
  · split
    · exact issueStep_keeps
    · exact idleStep_keeps

theorem step_stopped {i : Instr} {rest : List Instr} (ha : s.agenda = i :: rest) (hc : (s.mysko.stopped && needsClock i) = true) :
    step s = .fault .clockStopped := by
  unfold step
  rw [ha]
  exact if_pos hc

/-- Settles O54: each instruction and event keeps the form, whether it comes from the agenda, from the issuing unit or by the device's own
move, and so does a tick. -/
theorem stepKeepsMemoryCanonical : Obligations.StepKeepsMemoryCanonical := by
  unfold Obligations.StepKeepsMemoryCanonical
  intro s t hs h
  by_cases hc : ∃ i rest, s.agenda = i :: rest ∧ (s.mysko.stopped && needsClock i) = true
  · obtain ⟨i, rest, ha, hn⟩ := hc
    rw [step_stopped ha hn] at h
    cases h
  · exact Keeps.next_canonical (h ▸ step_keeps fun i rest ha => by simpa using fun hn => hc ⟨i, rest, ha, hn⟩) hs

/-- Settles O58: the fault is the agenda's check of the clock, and no instruction, event or move of the device answers one. -/
theorem onlyAStoppedClockFaults : Obligations.OnlyAStoppedClockFaults := by
  unfold Obligations.OnlyAStoppedClockFaults
  refine fun s => ⟨fun i rest hs ha hn => step_stopped ha (by rw [hs, hn]; rfl), fun x hx => ?_⟩
  by_contra hc
  refine Keeps.ne_fault (step_keeps fun i rest ha => ?_) x hx
  by_contra hn
  obtain ⟨h1, h2⟩ := Bool.and_eq_true_iff.mp (Bool.not_eq_false _ ▸ hn)
  exact hc ⟨h1, i, rest, ha, h2⟩

end Sys2Proof.Machine
end

/-! ### The words of Chapter 14 (R278 to R303): completion -/

section

namespace Sys2Proof.Machine

open Sys2Proof.Safety

/-! Loads, prefetch and stores of global memory (R278 to R282). -/

/-- A load none of whose lanes fails its checks: its destination opened and its operation sent (R279, R281). -/
def loadSent (f : FmtM) (k : OpKind) (eff : Mask) (addr : Nat → Dword) (remote : Mask) (s : State) (sl : Slot) : State :=
  let d := openDst s sl f.dst eff
  let o : Op := { baseOp d.1 sl k with
    cls := if remote != 0 then some .fab else none, dst := d.2, todo := eff, remote := remote, faulted := 0, cause := 0,
    addrs := addrLanes addr, res := Lanes.zero, channel := f.channel.toNat, scope := f.scope.toNat, order := f.order.toNat }
  let now := maskOf fun i => eff.getLsbD i && (o.units i).isEmpty
  sendOp d.1 { o with
    todo := eff &&& ~~~now, done := now, res := Lanes.masked now (List.replicate 64 (BitVec.ofNat 64 f32NegZero)) }

theorem loadAct_sends (f : FmtM) (k : OpKind) {eff : Mask} (addr fault : Nat → Dword) {remote : Mask} (s : State) {sl : Slot}
    (he : eff ≠ 0) (hf : ocFull sl.g (if remote != 0 then some .fab else none) = false) :
    loadAct f k eff addr fault 0 remote s sl = .done (loadSent f k eff addr remote s sl) := by
  have h0 : (eff == 0) = false := by simpa using he
  unfold loadAct
  dsimp only
  rw [hf, h0]
  simp only [bne_self_eq_false, Bool.false_and, Bool.false_eq_true, if_false, BitVec.ofNat_eq_ofNat, BitVec.not_zero,
    BitVec.and_allOnes]
  rfl

/-- Settles O10: a load whose lanes all pass sends its operation. -/
theorem globalLoadWordsComplete : Obligations.GlobalLoadWordsComplete := by
  unfold Obligations.GlobalLoadWordsComplete
  intro f s sl
  simp only [List.forall_mem_cons, List.not_mem_nil, IsEmpty.forall_iff, implies_true, and_true]
  refine ⟨⟨?_, ?_⟩, ?_⟩
  · intro hi he hb hf
    show execLdv f s = _
    exact issueWord_done hi (by dsimp only; rw [hb]; exact loadAct_sends f _ _ _ _ he hf)
  · intro hi he hb hf
    show execLdp f s = _
    exact issueWord_done hi (by dsimp only; rw [hb]; exact loadAct_sends f _ _ _ _ he hf)
  · intro hi he hb hf
    show execGrld f s = _
    exact issueWord_done hi (by dsimp only; rw [hb]; exact loadAct_sends f _ _ _ _ he hf)

/-- Settles O60: the lanes that pass are split into those of other devices and the others. -/
theorem prefetchCompletes : Obligations.PrefetchCompletes := by
  unfold Obligations.PrefetchCompletes
  intro f s sl hi
  show execPfetch f s = _
  refine issueWord_done hi ?_
  dsimp only
  simp only [beq_iff_eq]
  split <;> rfl

/-- Settles O11: with no failing lane ST sends its operation; STQ keeps the failing lanes in its address entry. -/
theorem globalStoreWordsComplete : Obligations.GlobalStoreWordsComplete := by
  unfold Obligations.GlobalStoreWordsComplete
  intro f s sl
  refine ⟨fun hi he hb hf => ?_, fun hi hf => ?_⟩
  · show execSt f s = _
    refine issueWord_done hi ?_
    dsimp only
    rw [hb, hf, show (sl.eff f.guard == 0) = false by simpa using he]
    rfl
  · show execStq f s = _
    refine issueWord_done hi ?_
    dsimp only
    rw [hf]
    rfl

/-! Scratchpad and queue words (R283 to R286). -/

/-- A scratchpad load whose lanes all lie in range opens its destination and sends its operation (R284). -/
theorem spadLoadAct_sends (f : FmtM) (k : OpKind) (addr : Nat → Int) (s : State) {sl : Slot} (he : sl.eff f.guard ≠ 0) :
    spadLoadAct f k 0 addr s sl = .done
      (let d := openDst s sl f.dst (sl.eff f.guard)
       sendOp d.1 { baseOp d.1 sl k with
         dst := d.2, todo := sl.eff f.guard, addrs := intLanes addr, res := Lanes.zero, scope := f.scope.toNat,
         order := f.order.toNat }) := by
  unfold spadLoadAct
  dsimp only
  rw [show (sl.eff f.guard == 0) = false by simpa using he]
  simp only [Bool.false_eq_true, if_false, BitVec.ofNat_eq_ofNat, BitVec.not_zero, BitVec.and_allOnes, BitVec.and_zero]
  rfl

theorem issueSpadLoad_sends {i : Instr} {f : FmtM} {cl : Bool} {s : State} {sl : Slot} (hi : Issues s sl i)
    (he : sl.eff f.guard ≠ 0)
    (hb : spadBad (noteIssued s sl) sl cl (2 ^ f.width.toNat) (sl.eff f.guard) (sl.saddr f) = 0) :
    issueSpadLoad i f cl s = .next (after i sl
      (let d := openDst (noteIssued s sl) sl f.dst (sl.eff f.guard)
       sendOp d.1 { baseOp d.1 sl (.spadLoad cl f.swz.toNat (2 ^ f.width.toNat) f.sign (sl.spadOut f)) with
         dst := d.2, todo := sl.eff f.guard, addrs := intLanes (sl.saddr f), res := Lanes.zero, scope := f.scope.toNat,
         order := f.order.toNat })) :=
  issueWord_done hi (by dsimp only; rw [hb]; exact spadLoadAct_sends f _ _ _ he)

theorem issueSpadStore_sends {i : Instr} {f : FmtM} {cl : Bool} {s : State} {sl : Slot} (hi : Issues s sl i)
    (he : sl.eff f.guard ≠ 0)
    (hb : spadBad (noteIssued s sl) sl cl (2 ^ f.width.toNat) (sl.eff f.guard) (sl.saddr f) = 0) :
    issueSpadStore i f cl s = .next (after i sl
      (let u := popPorts (noteIssued s sl) sl (wordPorts i)
       sendOp u { baseOp u sl (.spadStore cl f.swz.toNat (2 ^ f.width.toNat)) with
         todo := sl.eff f.guard, addrs := intLanes (sl.saddr f), data := sl.sdata f.c, scope := f.scope.toNat,
         order := f.order.toNat })) := by
  refine issueWord_done hi ?_
  dsimp only
  rw [hb]
  simp only [BitVec.ofNat_eq_ofNat, BitVec.not_zero, BitVec.and_allOnes]
  rw [show (sl.eff f.guard == 0#64) = false by simpa using he]
  rfl

theorem exec_qskip_empty {f : FmtM} {s : State} {sl : Slot} (hi : Issues s sl (.qskip f))
    (hq : (sl.pair.queue (shortOf f.a).toNat).entries = []) :
    exec (.qskip f) s = .next (after (.qskip f) sl (writeUni (noteIssued s sl) sl f.dst 0)) := by
  show execQskip f s = _
  exact issueWord_done hi (by dsimp only; rw [hq])

/-- QSKIP by the front entry of its queue (R286, R304). -/
theorem exec_qskip_front {f : FmtM} {s : State} {sl : Slot} {e : Entry} {rest : List Entry} (hi : Issues s sl (.qskip f))
    (hq : (sl.pair.queue (shortOf f.a).toNat).entries = e :: rest) :
    exec (.qskip f) s = .next (after (.qskip f) sl
      (if e.st = .filling ∨ e.landed = s.exec.cycle + 1 then writeUni (noteIssued s sl) sl f.dst 0
       else writeUni (popQueue (noteIssued s sl) sl.g.pair (shortOf f.a).toNat) sl f.dst 1)) := by
  show execQskip f s = _
  refine issueWord_done hi ?_
  dsimp only
  rw [hq, show (noteIssued s sl).exec.cycle = s.exec.cycle from rfl]
  dsimp only
  split <;> rfl

/-- Settles O12: each access sends one operation where every effective lane is in range; QSKIP by the front entry. -/
theorem scratchpadAndQueueWordsComplete : Obligations.ScratchpadAndQueueWordsComplete := by
  unfold Obligations.ScratchpadAndQueueWordsComplete
  simp only [List.forall_mem_cons, List.not_mem_nil, IsEmpty.forall_iff, implies_true, and_true]
  refine ⟨fun f s sl => ⟨⟨?_, ?_⟩, ?_, ?_, ?_⟩, fun f s sl => ⟨fun hi => ?_, fun hi => ⟨fun hq => ?_,
    fun e rest hq => ⟨fun hc => ?_, fun hf hl => ?_⟩⟩⟩⟩
  · exact fun hi he hb => issueSpadLoad_sends hi he hb
  · exact fun hi he hb => issueSpadLoad_sends hi he hb
  · intro hi he hb
    show execLdsT f s = _
    exact issueWord_done hi (by dsimp only; rw [hb]; exact spadLoadAct_sends f _ _ _ he)
  · exact fun hi he hb => issueSpadStore_sends hi he hb
  · exact fun hi he hb => issueSpadStore_sends hi he hb
  · exact (issueWord_done hi rfl : execQcount f s = _)
  · exact exec_qskip_empty hi hq
  · exact (exec_qskip_front hi hq).trans (by rw [if_pos hc])
  · exact (exec_qskip_front hi hq).trans (by rw [if_neg (not_or.mpr ⟨hf, hl⟩)])

/-! Atomics and Crucible words (R287 to R292). -/

theorem atomicAct_sends {i : Instr} {major minor : Nat} {f : FmtM} {s : State} {sl : Slot} (he : sl.eff f.guard ≠ 0)
    (hb : badLanes s sl.g.ctx (sl.eff f.guard) (sl.gaddr f) = 0)
    (hm : (maskOf fun k => (sl.eff f.guard).getLsbD k && (sl.gaddr f k).toNat % 2 ^ f.width.toNat != 0) = 0)
    (hf : ocFull sl.g (if !f.dst.nwb then some .atom else
      if remoteLanes s (sl.eff f.guard) (sl.gaddr f) != 0 then some .fab else none) = false) :
    atomicAct i major minor f s sl = .done
      (let remote := remoteLanes s (sl.eff f.guard) (sl.gaddr f)
       let cls : Option OcClass := if !f.dst.nwb then some .atom else if remote != 0 then some .fab else none
       let cas : Bool := major == 0x84 && minor == 0xA
       let raw := sl.sdata f.c
       let u := popPorts s sl (wordPorts i)
       sendOp u { baseOp u sl (.atomic major minor f.width.toNat (!f.dst.nwb)) with
        cls := cls, dst := if !f.dst.nwb then .vreg f.dst.reg.toNat else .none, todo := sl.eff f.guard, remote := remote,
        addrs := addrLanes (sl.gaddr f),
        data := if cas && f.width.toNat == 2 then raw.map (fun (x : Dword) => x &&& 0xFFFFFFFF#64) else raw,
        data2 := if cas then (if f.width.toNat == 2 then raw.map (fun x : Dword => x.ushiftRight 32) else sl.g.vreg (vecNum f.c + 1))
                 else Lanes.zero,
        res := Lanes.zero, channel := f.channel.toNat, scope := f.scope.toNat, order := f.order.toNat }) := by
  unfold atomicAct
  dsimp only
  rw [hb, hm, hf, show (sl.eff f.guard == 0) = false by simpa using he]
  rfl

/-- Settles O13: the twelve words share one act. -/
theorem atomicWordsComplete : Obligations.AtomicWordsComplete := by
  unfold Obligations.AtomicWordsComplete
  simp only [List.forall_mem_cons, List.not_mem_nil, IsEmpty.forall_iff, implies_true, and_true]
  and_intros
  all_goals exact fun f s sl hi he hb hm hf => issueWord_done hi (atomicAct_sends he hb hm hf)

/-- A Crucible word without an effective lane pops its ports, and pushes an entry of zeros to a port destination (R62, R290, R291). -/
theorem cruxAct_none (i : Instr) (f : FmtM) (k : OpKind) (a : Dword) (unit : Nat) (ls : List Dword) (dst : Bool) (touched : Mask)
    (s : State) (sl : Slot) :
    cruxAct i f k a unit ls true dst touched s sl = .done
      (if dst && 240 ≤ f.dst.reg.toNat then (openDst (popPorts s sl (wordPorts i)) sl f.dst 0).1 else popPorts s sl (wordPorts i)) := rfl

/-- A Crucible word whose lines pass their checks sends its contributions as one operation (R289). -/
theorem cruxAct_sends {i : Instr} {f : FmtM} {k : OpKind} {a : Dword} {unit : Nat} {ls : List Dword} {dst : Bool} {touched : Mask}
    {s : State} {sl : Slot} (ha : a.toNat % unit = 0) (hok : ls.find? (fun x => !vaOk s sl.g.ctx x) = none)
    (hf : ocFull sl.g (some .mx) = false) :
    cruxAct i f k a unit ls false dst touched s sl = .done
      (let u := popPorts s sl (wordPorts i)
       let d := if dst then openDst u sl f.dst touched else (u, .none)
       sendOp d.1 { baseOp d.1 sl k with
         cls := some .mx, dst := d.2, todo := 1, remote := if vaLocal d.1 a then 0 else 1, addrs := List.replicate 64 a,
         res := Lanes.zero, data2 := List.replicate 64 touched }) := by
  unfold cruxAct
  dsimp only
  rw [hok, hf]
  simp only [ha, ne_eq, not_true_eq_false, if_false, Option.isSome_none, Bool.false_and, Bool.false_eq_true, Bool.or_false]
  rfl

/-- Settles O14: every Crucible word is the shared act, without effective lanes or with a block that passes. -/
theorem crucibleWordsComplete : Obligations.CrucibleWordsComplete := by
  unfold Obligations.CrucibleWordsComplete
  intro f s sl
  simp only [List.forall_mem_cons, List.not_mem_nil, IsEmpty.forall_iff, implies_true, and_true]
  refine ⟨⟨?_, ?_⟩, ?_, fun hf => ⟨fun ha hok => ?_, fun ha hok hi => ?_⟩⟩
  · intro he hi
    show execMxacc f s = _
    exact issueWord_done hi (by dsimp only; rw [he]; exact cruxAct_none ..)
  · intro he hi
    show execMxst f s = _
    exact issueWord_done hi (by dsimp only; rw [he]; exact cruxAct_none ..)
  · intro he hi
    show execMxld f s = _
    refine issueWord_done hi ?_
    dsimp only
    rw [he]
    refine (cruxAct_none ..).trans ?_
    simp only [Bool.true_and, decide_eq_true_eq]
  · have hl : [sl.block f (mxDisp f)].find? (fun x => !vaOk (noteIssued s sl) sl.g.ctx x) = none := by
      simp only [List.find?_cons, hok, Bool.not_true, List.find?_nil]
    refine ⟨fun hi => ?_, fun he hi => ?_, fun he hi => ?_, fun he hi => ?_⟩
    · show execMxaccOrd f s = _
      exact issueWord_done hi (cruxAct_sends ha hl hf)
    · show execMxacc f s = _
      exact issueWord_done hi (by
        dsimp only; rw [show (sl.eff f.guard == 0) = false by simpa using he]; exact cruxAct_sends ha hl hf)
    · show execMxst f s = _
      exact issueWord_done hi (by
        dsimp only; rw [show (sl.eff f.guard == 0) = false by simpa using he]; exact cruxAct_sends ha hl hf)
    · show execMxld f s = _
      exact issueWord_done hi (by
        dsimp only; rw [show (sl.eff f.guard == 0) = false by simpa using he]; exact cruxAct_sends ha hl hf)
  · have hl := (List.find?_eq_none (p := fun x => !vaOk (noteIssued s sl) sl.g.ctx x)).mpr
      (fun x hx => by simpa using (List.any_eq_false.mp hok) x hx)
    show execFaddOrd f s = _
    exact issueWord_done hi (cruxAct_sends ha hl hf)

/-! Waits on a watched word, and the words of order (R294 to R303). -/

/-- The condition of a wait on eight bytes of the group's allocation that lie in range (R294, R303). -/
theorem watchAct_matched {a : Int} (w : Nat → Watch) (done : State → Dword → State) {s : State} {sl : Slot} {v : Dword}
    (h8 : a % 8 = 0) (hin : spadIn s sl.g.core sl.pair.owner a 8 = true) (hm : sl.p.matched = some v) :
    watchAct a w done s sl = .done (done (freeWatch s sl) v) := by
  unfold watchAct
  simp only [h8, hin, hm, ne_eq, not_true_eq_false, Bool.not_true, Bool.false_eq_true, or_self, if_false]

theorem watchAct_holds {a : Int} (w : Nat → Watch) (done : State → Dword → State) {s : State} {sl : Slot}
    (h8 : a % 8 = 0) (hin : spadIn s sl.g.core sl.pair.owner a 8 = true) (hm : sl.p.matched = none)
    (hh : accessHeld s sl.g sl.p = false) (hw : (w a.toNat).holds (watchedValue s sl.g a.toNat) = true) :
    watchAct a w done s sl = .done (done (freeWatch s sl) (watchedValue s sl.g a.toNat)) := by
  unfold watchAct
  simp only [h8, hin, hm, hh, hw, ne_eq, not_true_eq_false, Bool.not_true, Bool.false_eq_true, or_self, if_false, if_true]

/-- Settles O15: each wait at its condition; the others always go on. -/
theorem orderAndWaitWordsComplete : Obligations.OrderAndWaitWordsComplete := by
  unfold Obligations.OrderAndWaitWordsComplete
  intro f s sl
  refine ⟨fun hi => ?_, fun hi hc => ?_, fun hi hc => ?_, fun hi => ?_, fun hi h8 hin => ⟨fun v hm => ?_, fun hm hh hw => ?_⟩⟩
  · exact (issueWord_done hi rfl : execFence f s = _)
  · exact (issueWord_done hi (if_pos (decide_eq_true hc)) : execWaitc f s = _)
  · exact (issueWord_done hi (if_pos hc) : execHwait f s = _)
  · exact (issueWord_done hi rfl : execHarrive f s = _)
  · exact (issueWord_done hi (watchAct_matched _ _ h8 hin hm) : execWaitw f s = _)
  · exact (issueWord_done hi (watchAct_holds _ _ h8 hin hm hh hw) : execWaitw f s = _)

section

variable {f : FmtM} {s : State} {sl : Slot}

/-- CJOIN of a group that is a member already has no effect (R297). -/
theorem exec_cjoin_member (hi : Issues s sl (.cjoin f)) (hm : (sl.g.circles.any fun k => k.1 == sl.uni32 0 f.a) = true) :
    exec (.cjoin f) s = .next (after (.cjoin f) sl (noteIssued s sl)) := by
  show execCjoin f s = _
  exact issueWord_done hi (if_pos hm)

theorem exec_cjoin_open {x : Circle} (hi : Issues s sl (.cjoin f)) (hm : (sl.g.circles.any fun k => k.1 == sl.uni32 0 f.a) = false)
    (h8 : sl.g.circles.length < 8) (hx : findCircle (noteIssued s sl) sl.g.ctx (sl.uni32 0 f.a) = some x)
    (hp : x.present.length < 20480) :
    exec (.cjoin f) s = .next (after (.cjoin f) sl (updGroup ((noteIssued s sl).onExec fun e =>
      { e with circles := e.circles.map fun y =>
          if y.ctx == sl.g.ctx && y.key == sl.uni32 0 f.a then { y with members := y.members ++ [(sl.g.gid, x.phase + 1, x.phase + 1)] }
          else y }) sl.g.gid fun g => { g with circles := g.circles ++ [(sl.uni32 0 f.a, x.phase + 1)] })) := by
  show execCjoin f s = _
  refine issueWord_done hi ?_
  dsimp only
  simp only [hm, Bool.false_eq_true, if_false, Nat.not_le.mpr h8, hx, Nat.not_le.mpr hp]

theorem exec_cjoin_new (hi : Issues s sl (.cjoin f)) (hm : (sl.g.circles.any fun k => k.1 == sl.uni32 0 f.a) = false)
    (h8 : sl.g.circles.length < 8) (hx : findCircle (noteIssued s sl) sl.g.ctx (sl.uni32 0 f.a) = none)
    (hp : ((noteIssued s sl).exec.circles.filter fun y => y.ctx == sl.g.ctx).length < 65536) :
    exec (.cjoin f) s = .next (after (.cjoin f) sl (updGroup ((noteIssued s sl).onExec fun e =>
      { e with circles := e.circles ++ [⟨sl.g.ctx, sl.uni32 0 f.a, 0, [(sl.g.gid, 1, 1)]⟩] }) sl.g.gid fun g =>
        { g with circles := g.circles ++ [(sl.uni32 0 f.a, 1)] })) := by
  show execCjoin f s = _
  refine issueWord_done hi ?_
  dsimp only
  simp only [hm, Bool.false_eq_true, if_false, Nat.not_le.mpr h8, hx, Nat.not_le.mpr hp]

/-- CARRIVE: a member's arrival, recorded at once or behind the earlier accesses (R121, R297). -/
theorem exec_carrive_of_issues (hi : Issues s sl (.carrive f)) :
    let key := sl.uni32 0 f.a
    let u := updGroup (noteIssued s sl) sl.g.gid fun g =>
      { g with circles := g.circles.map fun k => if k.1 == key then (k.1, k.2 + 1) else k }
    exec (.carrive f) s = .next (after (.carrive f) sl
      (if (sl.g.circles.any fun k => k.1 == key) = false then noteIssued s sl
       else if ((directOps u sl.g.gid).isEmpty && sl.g.taints.all (opPerformed u) && !u.exec.ops.any (·.arrives sl.g.gid key)) = true then
         circleArrive u sl.g.gid sl.g.ctx key
       else sendOp u { baseOp u sl (.carrive key) with todo := 1, scope := f.scope.toNat })) := by
  show execCarrive f s = _
  refine issueWord_done hi ?_
  dsimp only
  simp only [Bool.not_eq_true']
  split
  · rfl
  · split <;> rfl

/-- A word on a signal whose address is aligned and passes the checks (R298). -/
theorem exec_sigdec_sends (hi : Issues s sl (.sigdec f)) (h8 : (sl.signalAddr f).toNat % 8 = 0)
    (hv : vaOk (noteIssued s sl) sl.g.ctx (sl.signalAddr f) = true)
    (hf : ocFull sl.g (if !vaLocal (noteIssued s sl) (sl.signalAddr f) then some .fab else none) = false) :
    let t := noteIssued s sl
    let a := sl.signalAddr f
    exec (.sigdec f) s = .next (after (.sigdec f) sl (sendOp t { baseOp t sl (.sigdec (sl.uni32 0 f.c).toNat) with
        cls := if !vaLocal t a then some .fab else none, todo := 1, remote := if !vaLocal t a then 1 else 0,
        addrs := List.replicate 64 a, channel := f.channel.toNat, scope := f.scope.toNat, order := 2 })) := by
  show execSigdec f s = _
  refine issueWord_done hi ?_
  dsimp only
  rw [if_neg (by simp [h8]), if_neg (by simp [hv]), hf]
  rfl

theorem exec_waitsig_matched {v : Dword} (hi : Issues s sl (.waitsig f)) (h8 : (sl.signalAddr f).toNat % 8 = 0)
    (hv : vaOk (noteIssued s sl) sl.g.ctx (sl.signalAddr f) = true) (hm : sl.p.matched = some v) :
    exec (.waitsig f) s = .next (after (.waitsig f) sl (freeWatch (noteIssued s sl) sl)) := by
  show execWaitsig f s = _
  refine issueWord_done hi ?_
  dsimp only
  rw [if_neg (by simp [h8]), if_neg (by simp [hv]), hm]

end

/-- Settles O16: CJOIN and CARRIVE by membership, the signal words on an address that passes. -/
theorem circleAndSignalWordsComplete : Obligations.CircleAndSignalWordsComplete := by
  unfold Obligations.CircleAndSignalWordsComplete
  refine ⟨fun f s sl => ⟨fun hi => ⟨fun hm => ?_, fun x hm h8 hx hp => ?_, fun hm h8 hx hp => ?_⟩, fun hi => ?_,
    fun hi => ⟨fun hm => ?_, fun hm hn => ?_, fun hm hn => ?_⟩, fun hi hc => ?_⟩,
    fun f s sl h8 hv => ⟨fun hi hf => ?_, fun v hi hm => ?_⟩⟩
  · exact exec_cjoin_member hi hm
  · exact exec_cjoin_open hi hm h8 hx hp
  · exact exec_cjoin_new hi hm h8 hx hp
  · exact (issueWord_done hi rfl : execCleave f s = _)
  · exact (exec_carrive_of_issues hi).trans (by rw [if_pos hm])
  · exact (exec_carrive_of_issues hi).trans (by rw [if_neg (by rw [hm]; decide), if_pos hn])
  · exact (exec_carrive_of_issues hi).trans (by rw [if_neg (by rw [hm]; decide), if_neg (by rw [hn]; decide)])
  · exact (issueWord_done hi (if_pos hc) : execCwait f s = _)
  · exact exec_sigdec_sends hi h8 hv hf
  · exact exec_waitsig_matched hi h8 hv hm

/-! Copies, rings and sequence slots (R299 to R303). -/

/-- A copy that passes every check of R300 sends its operation and reaches the scoreboard (R299, R300). -/
theorem copyAct_sends {i : Instr} {f : FmtM} {kind : Nat} {s : State} {sl : Slot}
    (hd : (sl.copyDesc f kind).valid (kind != 2 || ((sl.descReg f 0).toNat < 2 ^ 21 && (sl.descReg f 1).toNat < 4)) = true)
    (hv : kind = 2 ∨ vaOk s sl.g.ctx (sl.copyDesc f kind).g = true)
    (hr : (if kind = 2 then
        sideOk s sl true (sl.copyDesc f kind) (sl.copyDesc f kind).g.toNat (sl.copyDesc f kind).gp &&
          sideOk s sl true (sl.copyDesc f kind) (sl.copyDesc f kind).p (sl.copyDesc f kind).sp
      else sideOk s sl false (sl.copyDesc f kind) (sl.copyDesc f kind).p (sl.copyDesc f kind).sp) = true)
    (hg : ∀ a, (sl.copyDesc f kind).flag = some a →
      a % 8 = 0 ∧ (spadPlace s sl.g.core sl.pair.owner true a 8).isSome = true)
    (hf : ocFull sl.g (some .copy) = false) :
    copyAct i f kind s sl = .done
      (let d := sl.copyDesc f kind
       scoreEnter (popPorts (sendOp s { baseOp s sl (.copy d) with
        cls := some .copy, todo := 1, remote := if kind != 2 && !vaLocal s d.g then 1 else 0,
        addrs := List.replicate 64 d.g }) sl (wordPorts i)) sl.g.core s.exec.seq (copyGranules s sl d) (kind != 1)) := by
  have hva : ¬ (kind ≠ 2 ∧ (!vaOk s sl.g.ctx (sl.copyDesc f kind).g) = true) := by
    rintro ⟨h2, hn⟩
    rcases hv with h | h
    · exact h2 h
    · rw [h] at hn; cases hn
  unfold copyAct
  dsimp only
  rw [hd, if_neg (by decide), if_neg hva, hr, hf]
  rw [if_neg, if_neg (by decide)]
  cases hk : (sl.copyDesc f kind).flag with
  | none => simp only [Bool.not_true, Bool.or_self, Bool.false_eq_true, not_false_eq_true]
  | some a =>
    obtain ⟨h8, hp⟩ := hg a hk
    dsimp only
    rw [hp, h8]
    simp only [BEq.rfl, Bool.and_self, Bool.not_true, Bool.or_self, Bool.false_eq_true, not_false_eq_true]

/-- Settles O17: the three copies share one act. -/
theorem copyWordsComplete : Obligations.CopyWordsComplete := by
  unfold Obligations.CopyWordsComplete
  simp only [List.forall_mem_cons, List.not_mem_nil, IsEmpty.forall_iff, implies_true, and_true]
  refine ⟨?_, ?_, ?_⟩
  · exact fun f s sl hi hd hv hr hg hf => issueWord_done hi (copyAct_sends hd hv hr hg hf)
  · exact fun f s sl hi hd hv hr hg hf => issueWord_done hi (copyAct_sends hd hv hr hg hf)
  · exact fun f s sl hi hd _ hr hg hf => issueWord_done hi (copyAct_sends hd (.inl rfl) hr hg hf)

/-- Settles O18: SQGET is a watched wait; the ring words act at once. -/
theorem ringAndSequenceWordsComplete : Obligations.RingAndSequenceWordsComplete := by
  unfold Obligations.RingAndSequenceWordsComplete
  intro f s sl
  refine ⟨fun hi hc => ?_, fun hi => ?_, fun hi => ?_, fun hi ho => ?_, fun hi h8 hp => ?_,
    fun hi hin => ⟨fun v hm => ?_, fun hm hh hw => ?_⟩⟩
  · show execGclaim f s = _
    exact issueWord_done hi (if_neg (by
      rw [show (noteIssued s sl).exec.cycle = s.exec.cycle from rfl, hc]; decide))
  · exact (issueWord_done hi rfl : execGcommit f s = _)
  · exact (issueWord_done hi rfl : execGretire f s = _)
  · show execGawait f s = _
    refine issueWord_done hi (if_pos ?_)
    unfold gawaitReady
    simpa only [Bool.or_eq_true, decide_eq_true_eq] using ho
  · show execSqpub f s = _
    refine issueWord_done hi (if_neg ?_)
    rintro (h | h)
    · exact h h8
    · rw [Option.isNone_iff_eq_none] at h; rw [h] at hp; cases hp
  · obtain ⟨h8, hs⟩ := hin
    exact (issueWord_done hi (watchAct_matched _ _ h8 hs hm) : execSqget f s = _)
  · obtain ⟨h8, hs⟩ := hin
    exact (issueWord_done hi (watchAct_holds _ _ h8 hs hm hh (beq_iff_eq.mpr hw)) : execSqget f s = _)

end Sys2Proof.Machine

end

/-! ### The words of Chapter 16 (R331 to R351): completion -/

section

namespace Sys2Proof.Machine

open Sys2Proof.Safety

/-! Leases (R331 to R333). -/

section

variable {f : FmtM} {s : State} {sl : Slot}

/-- LEASE takes the lowest free slot and answers a Pending ticket (R331). -/
theorem exec_lease_taken {slot : Nat} (hi : Issues s sl (.lease f)) (hf : ocFull sl.g (some .ctl) = false)
    (hr : leaseRefusal (noteIssued s sl) sl.g.ctx (sl.uni32 0 f.a).toNat (sl.uni32 0 f.b).toNat (sl.uni32 0 f.c).toNat = 0)
    (hs : freeLeaseSlot (getCtx (noteIssued s sl) sl.g.ctx) = some slot) :
    let t := noteIssued s sl
    let b := (sl.uni32 0 f.a).toNat
    let k := (sl.uni32 0 f.b).toNat
    let term := (sl.uni32 0 f.c).toNat
    let l : Lease := ⟨slot, (((leaseAt t sl.g.ctx slot).map (·.gen)).getD 0 + 1) % 2 ^ 16, .pending, 0, b, k, 0, term, 0, 0, false, 0⟩
    let u := leaseOut ((putLease t sl.g.ctx l).onFabric fun x => { x with txPool := x.txPool - k }) b 1
      [k, term, if f.off.getLsbD 0 then 1 else 0]
    exec (.lease f) s = .next (after (.lease f) sl (writeUni
      (sendOp u { baseOp u sl (.lease (some l.ticket)) with cls := some .ctl, todo := 1 }) sl f.dst (BitVec.ofNat 32 l.ticket))) := by
  show execLease f s = _
  refine issueWord_done hi ?_
  dsimp only
  rw [hf, if_neg (by decide), hr, hs]
  rfl

/-- LEASE that fails its checks answers its refusal and completes at once (R169, R331). -/
theorem exec_lease_refused (hi : Issues s sl (.lease f)) (hf : ocFull sl.g (some .ctl) = false)
    (hr : leaseRefusal (noteIssued s sl) sl.g.ctx (sl.uni32 0 f.a).toNat (sl.uni32 0 f.b).toNat (sl.uni32 0 f.c).toNat ≠ 0) :
    let t := noteIssued s sl
    exec (.lease f) s = .next (after (.lease f) sl (settleCtl (writeUni
      (sendOp t { baseOp t sl (.lease none) with cls := some .ctl }) sl f.dst (BitVec.ofNat 32 (2 ^ 31 +
        leaseRefusal t sl.g.ctx (sl.uni32 0 f.a).toNat (sl.uni32 0 f.b).toNat (sl.uni32 0 f.c).toNat))) sl.g.gid)) := by
  show execLease f s = _
  refine issueWord_done hi ?_
  dsimp only
  rw [hf, if_neg (by decide)]
  split
  · exact absurd ‹_› hr
  · rfl

/-- What the release form of LEASE does by the state of the lease that its ticket names (R332). -/
theorem exec_leaseDrop_of_issues (hi : Issues s sl (.leaseDrop f)) (hf : ocFull sl.g (some .ctl) = false) :
    let t := noteIssued s sl
    let ticket := (sl.uni32 0 f.a).toNat
    let op (s : State) (peer : Nat) (todo : Mask) : State :=
      settleCtl (sendOp s { baseOp s sl (.drop ticket peer) with cls := some .ctl, todo := todo }) sl.g.gid
    (findLease t sl.g.ctx ticket = none → exec (.leaseDrop f) s = .next (after (.leaseDrop f) sl (op t 0 0))) ∧
    ∀ l, findLease t sl.g.ctx ticket = some l →
      (l.st = .granted ∨ l.st = .notice → exec (.leaseDrop f) s = .next (after (.leaseDrop f) sl
        (op (endLease (leaseOut t l.peer 5 [l.held]) sl.g.ctx l.slot) l.peer 1))) ∧
      (l.st = .pending → exec (.leaseDrop f) s = .next (after (.leaseDrop f) sl
        (op (updLease t sl.g.ctx l.slot fun l => { l with dropAsked := true }) l.peer 1))) ∧
      (l.st = .refused ∨ l.st = .ended → exec (.leaseDrop f) s = .next (after (.leaseDrop f) sl (op t l.peer 0))) := by
  intro t ticket op
  show (_ → execLeaseDrop f s = _) ∧
    ∀ l, _ → (_ → execLeaseDrop f s = _) ∧ (_ → execLeaseDrop f s = _) ∧ (_ → execLeaseDrop f s = _)
  refine ⟨fun hn => ?_, fun l hl => ⟨?_, fun hst => ?_, ?_⟩⟩
  · refine issueWord_done hi ?_
    dsimp only
    rw [hf, if_neg (by decide), hn]
  · rintro (hst | hst) <;>
    · refine issueWord_done hi ?_
      dsimp only
      rw [hf, if_neg (by decide), hl]
      dsimp only
      rw [hst]
  · refine issueWord_done hi ?_
    dsimp only
    rw [hf, if_neg (by decide), hl]
    dsimp only
    rw [hst]
  · rintro (hst | hst) <;>
    · refine issueWord_done hi ?_
      dsimp only
      rw [hf, if_neg (by decide), hl]
      dsimp only
      rw [hst]

/-- NMOP whose address and operands pass their checks sends its operation (R177, R334). -/
theorem exec_nmop_sends (hi : Issues s sl (.nmop f)) (hv : vaOk (noteIssued s sl) sl.g.ctx ((sl.lanes 0 f.b).get 0) = true)
    (ha : nmopAligned f.off.toNat (sl.lanes 0 f.b) = true) (hc : f.off.toNat = 4 → chaseOk (sl.lanes 0 f.b) = true)
    (hf : ocFull sl.g (some .fab) = false) :
    let t := noteIssued s sl
    let a := (sl.lanes 0 f.b).get 0
    exec (.nmop f) s = .next (after (.nmop f) sl (sendOp t { baseOp t sl (.nmop f.off.toNat) with
      cls := some .fab, dst := if f.dst.nwb then .none else .vreg f.dst.reg.toNat, todo := 1, remote := if vaLocal t a then 0 else 1,
      addrs := List.replicate 64 a, data := sl.lanes 0 f.b, res := Lanes.zero })) := by
  have hchase : ¬ (f.off.toNat == 4 && !chaseOk (sl.lanes 0 f.b)) = true := by
    simp only [Bool.and_eq_true, beq_iff_eq, Bool.not_eq_true', not_and, Bool.not_eq_false]
    exact hc
  show execNmop f s = _
  refine issueWord_done hi ?_
  dsimp only
  rw [hv, if_neg (by decide), ha, if_neg (by decide), if_neg hchase, hf, if_neg (by decide)]

/-- ST.MR to a window of this context sends two chunk contributions (R180, R335). -/
theorem exec_stMr_sends {x : Window} (hi : Issues s sl (.stMr f)) (hw : (sl.uni32 0 f.a).toNat < 64)
    (hx : windowOf (noteIssued s sl) sl.g.ctx (sl.uni32 0 f.a).toNat = some x) (hq : (sl.uni32 0 f.b).toNat % 256 = 0)
    (hl : (sl.uni32 0 f.b).toNat + 256 ≤ x.len) (hf : ocFull sl.g (some .fab) = false) :
    let w := (sl.uni32 0 f.a).toNat
    let q := (sl.uni32 0 f.b).toNat
    let u := popPorts (noteIssued s sl) sl (wordPorts (.stMr f))
    exec (.stMr f) s = .next (after (.stMr f) sl (sendOp u { baseOp u sl (.stmr w q []) with
      cls := some .fab, todo := 3, remote := if x.home = u.fabric.index then 0 else 3,
      addrs := List.replicate 64 (BitVec.ofNat 64 (x.home * 2 ^ 53 + x.dst + q)),
      data := Lanes.merge (sl.eff f.guard) (sl.sdata f.c) (List.replicate 64 (mrIdle x.fmt)) })) := by
  show execStMr f s = _
  refine issueWord_done hi ?_
  dsimp only
  rw [if_pos hw, hx]
  dsimp only
  rw [if_neg (by omega), hf, if_neg (by decide)]

theorem exec_rgetQueue_of_issues {x : Nat × Nat} (hi : Issues s sl (.rgetQueue f))
    (hx : peerEntry (noteIssued s sl) sl.g.ctx (sl.uni32 0 f.a).toNat = some x) (hf : ocFull sl.g (some .fab) = false) :
    let eff := sl.eff f.guard
    let addrs := sl.lanes 0 f.b
    let bad := maskOf fun i => eff.getLsbD i && (addrs.get i).toNat % 4 != 0
    let d := openDst (noteIssued s sl) sl f.dst eff
    let o : Op := { baseOp d.1 sl (.rgetQueue (sl.uni32 0 f.a).toNat) with
      id := d.1.exec.seq, cls := some .fab, dst := d.2, todo := eff &&& ~~~bad, faulted := bad,
      cause := if bad != 0 then 8 else 0, marks := if bad != 0 then 2 else 0, addrs := addrs, res := Lanes.zero }
    exec (.rgetQueue f) s = .next (after (.rgetQueue f) sl
      (if eff = 0 then d.1 else sendRget (sendOp d.1 o) o o.todo)) := by
  show execRgetQueue f s = _
  refine issueWord_done hi ?_
  dsimp only
  rw [hx]
  dsimp only
  rw [hf, if_neg (by decide)]
  simp only [beq_iff_eq]
  split <;> rfl

/-- The scratchpad form of RGET, with its region in range (R188, R337). -/
theorem exec_rgetSpad_sends {x : Nat × Nat} (hi : Issues s sl (.rgetSpad f))
    (hx : peerEntry (noteIssued s sl) sl.g.ctx (sl.uni32 0 f.a).toNat = some x) (hf : ocFull sl.g (some .fab) = false)
    (hsrc : (sl.uni64 0 f.b).toNat % 4 = 0) (hoff : ((sl.uni64 0 f.c).extractLsb' 0 32).toNat % 4 = 0)
    (hn : ((sl.uni64 0 f.c).extractLsb' 32 32).toNat % 4 = 0) (hlo : 4 ≤ ((sl.uni64 0 f.c).extractLsb' 32 32).toNat)
    (hhi : ((sl.uni64 0 f.c).extractLsb' 32 32).toNat ≤ 65536)
    (hin : spadIn (noteIssued s sl) sl.g.core sl.pair.owner ((sl.uni64 0 f.c).extractLsb' 0 32).toNat
      ((sl.uni64 0 f.c).extractLsb' 32 32).toNat = true) :
    let src := sl.uni64 0 f.b
    let n := ((sl.uni64 0 f.c).extractLsb' 32 32).toNat
    let t := noteIssued s sl
    let o : Op := { baseOp t sl (.rgetSpad (sl.uni32 0 f.a).toNat ((sl.uni64 0 f.c).extractLsb' 0 32).toNat n f.swz.toNat) with
      id := t.exec.seq, cls := some .fab, todo := BitVec.ofNat 64 (2 ^ (rgetPieces 18 src.toNat 0 n).length - 1),
      addrs := List.replicate 64 src }
    exec (.rgetSpad f) s = .next (after (.rgetSpad f) sl (sendRget (sendOp t o) o o.todo)) := by
  show execRgetSpad f s = _
  refine issueWord_done hi ?_
  dsimp only
  rw [hx]
  dsimp only
  rw [if_neg (by omega), hin, if_neg (by decide), hf, if_neg (by decide)]

end

/-- Settles O19: LEASE by its refusal, the release form by the state of its lease, the others once their checks pass. -/
theorem leaseAndFabricWordsComplete : Obligations.LeaseAndFabricWordsComplete := by
  unfold Obligations.LeaseAndFabricWordsComplete
  refine ⟨fun f s sl hf => ⟨fun hi => ⟨fun slot hr hs => exec_lease_taken hi hf hr hs, fun hr => exec_lease_refused hi hf hr⟩,
    fun hi => exec_leaseDrop_of_issues hi hf, fun hi => ?_⟩, fun f s sl => ⟨fun hi hv ha hc hf => exec_nmop_sends hi hv ha hc hf,
    fun hi x hw hx hq hl hf => exec_stMr_sends hi hw hx hq hl hf, fun hi hf => ?_, fun x hx hf =>
      ⟨fun hi => ⟨fun he => ?_, fun he => ?_⟩,
    fun hi hsrc hoff hn hlo hhi hin => exec_rgetSpad_sends hi hx hf hsrc hoff hn hlo hhi hin⟩⟩⟩
  · show execLeaseq f s = _
    exact issueWord_done hi (by dsimp only; rw [hf, if_neg (by decide)])
  · show execXfence f s = _
    exact issueWord_done hi (by dsimp only; rw [hf, if_neg (by decide)])
  · exact (exec_rgetQueue_of_issues hi hx hf).trans (by rw [if_pos he])
  · exact (exec_rgetQueue_of_issues hi hx hf).trans (by rw [if_neg he])

/-! Traps, breakpoints and system words (R340 to R351). -/

/-- What SYSWR leaves in the trap registers when it does not name TREPC (R342). -/
theorem exec_syswr_other {f : FmtY} {s : State} {sl : Slot} (hi : Issues s sl (.syswr f)) (hs : f.sel ≠ 0x101) :
    exec (.syswr f) s = .next (after (.syswr f) sl
      (updGroup (noteIssued s sl) sl.g.gid fun g => { g with trap := { g.trap with exec := sl.uni64 0 f.a } })) := by
  show execSyswr f s = _
  refine issueWord_done hi ?_
  simp only [hs, if_false]

theorem exec_syswr_epc {f : FmtY} {s : State} {sl : Slot} (hi : Issues s sl (.syswr f)) (hs : f.sel = 0x101) :
    exec (.syswr f) s = .next (after (.syswr f) sl
      (updGroup (noteIssued s sl) sl.g.gid fun g => { g with trap := { g.trap with epc := sl.uni64 0 f.a } })) := by
  show execSyswr f s = _
  refine issueWord_done hi ?_
  simp only [hs, if_true]

/-- ERET of a group with no MAPFT outstanding returns to a TREPC of a good form (R344, R65). -/
theorem exec_eret_returns {f : FmtY} {s : State} {sl : Slot} (hi : Issues s sl (.eret f))
    (hm : ((noteIssued s sl).exec.ops.filter fun o => o.gid == sl.g.gid && o.kind == .mapft) = [])
    (hp : pcOk sl.g.trap.epc = true) :
    exec (.eret f) s = .next (afterTransfer (.eret f) sl (returnFromTrap (match sl.g.poison with
      | some (q, id) => reissuePoison (noteIssued s sl) sl.g q id
      | none => noteIssued s sl) sl.g.gid sl.run.entry) sl.g.trap.epc) := by
  have hany : ¬ ((noteIssued s sl).exec.ops.any fun o => o.gid == sl.g.gid && o.kind == .mapft) = true := by
    rw [List.any_eq_true]
    rintro ⟨o, ho, hk⟩
    exact List.filter_eq_nil_iff.mp hm o ho hk
  show execEret f s = _
  refine issueWord_jump hi ?_
  dsimp only
  rw [if_neg hany, hp]
  exact if_neg (by decide)

/-- GROW that can issue now takes its granules (R46, R347). -/
theorem exec_grow_now {f : FmtY} {s : State} {sl : Slot} {k : Nat} (hi : Issues s sl (.grow f)) (hg : sl.p.granted = false)
    (hk : growNow (noteIssued s sl) sl.g (sl.uni32 0 f.a).toNat = some k) :
    exec (.grow f) s = .next (after (.grow f) sl
      (writeUni (growGroup (growDone (noteIssued s sl) sl.g.gid sl.run.entry) sl.g.gid k) sl f.dst (BitVec.ofNat 32 (sl.g.g + k)))) := by
  show execGrow f s = _
  refine issueWord_done hi ?_
  simp only [hg, hk, Bool.false_eq_true, if_false]

theorem exec_grow_granted {f : FmtY} {s : State} {sl : Slot} (hi : Issues s sl (.grow f)) (hg : sl.p.granted = true) :
    exec (.grow f) s = .next (after (.grow f) sl
      (writeUni (growDone (noteIssued s sl) sl.g.gid sl.run.entry) sl f.dst (BitVec.ofNat 32 sl.g.g))) := by
  show execGrow f s = _
  exact issueWord_done hi (if_pos hg)

/-- LAUNCH of a packet at an aligned address of this device sends its operation (R348). -/
theorem exec_launch_sends {f : FmtY} {s : State} {sl : Slot} (hi : Issues s sl (.launch f)) (h8 : (sl.uni64 0 f.a).toNat % 8 = 0)
    (hv : vaOk (noteIssued s sl) sl.g.ctx (sl.uni64 0 f.a) = true) (hl : vaLocal (noteIssued s sl) (sl.uni64 0 f.a) = true) :
    exec (.launch f) s = .next (after (.launch f) sl (sendOp (noteIssued s sl)
      { baseOp (noteIssued s sl) sl (.launch (sl.uni32 0 f.b).toNat) with
        todo := 1, addrs := List.replicate 64 (sl.uni64 0 f.a) })) := by
  show execLaunch f s = _
  refine issueWord_done hi ?_
  dsimp only
  rw [if_neg (by simp [h8]), hv, hl]
  exact if_neg (by decide)

/-- HMSEAL of two aligned words of this device enters Mysko's queue (R351). -/
theorem exec_hmseal_sends {f : FmtY} {s : State} {sl : Slot} (hi : Issues s sl (.hmseal f))
    (hx : ∀ x ∈ [sl.uni64 0 f.a, sl.uni64 0 f.b],
      x.toNat % 8 = 0 ∧ vaOk (noteIssued s sl) sl.g.ctx x = true ∧ vaLocal (noteIssued s sl) x = true)
    (hn : (noteIssued s sl).mysko.seals.length < 64) :
    exec (.hmseal f) s = .next (after (.hmseal f) sl ((sendOp (noteIssued s sl)
      { baseOp (noteIssued s sl) sl (.hmseal (sl.uni64 0 f.b)) with
        todo := 1, addrs := List.replicate 64 (sl.uni64 0 f.a) }).onMysko fun m =>
          { m with seals := m.seals ++ [.hmseal (noteIssued s sl).exec.seq] })) := by
  obtain ⟨⟨ha8, hav, hal⟩, hb8, hbv, hbl⟩ : _ ∧ _ := by
    simpa only [List.forall_mem_cons, List.not_mem_nil, IsEmpty.forall_iff, implies_true, and_true] using hx
  show execHmseal f s = _
  refine issueWord_done hi ?_
  dsimp only
  simp only [ha8, hav, hal, hb8, hbv, hbl, bne_self_eq_false, Bool.not_true, Bool.or_self, Bool.false_eq_true, if_false,
    Nat.not_le.mpr hn]

/-- The issuing unit is the Press where a Press stream has a slot at issue. -/
theorem pressIssues_of_currentPress {s : State} {ps : PSlot} (h : currentPress s = some ps) : pressIssues s = true := by
  unfold currentPress at h
  unfold pressIssues
  split at h
  · cases h
  · next c u hi =>
    split at h
    · cases h
    · next hu => rw [hi]; exact decide_eq_true (Nat.lt_of_not_le hu)

/-- Settles O20: BKPT is a word of a group or a command of the Press, by the issuing unit. -/
theorem trapAndBreakpointComplete : Obligations.TrapAndBreakpointComplete := by
  unfold Obligations.TrapAndBreakpointComplete
  intro f s
  refine ⟨fun sl hi => (issueWord_cause hi rfl : execTrap f s = _), fun sl hp hi => ?_, fun ps hps => ?_⟩
  · show execBkpt f s = _
    unfold execBkpt
    rw [hp, if_neg (by decide)]
    exact issueWord_done hi rfl
  · show execBkpt f s = _
    unfold execBkpt
    rw [pressIssues_of_currentPress hps, if_pos rfl]
    exact issuePress_done hps rfl

/-- Settles O21: each word at the condition under which it goes on. -/
theorem systemWordsComplete : Obligations.SystemWordsComplete := by
  unfold Obligations.SystemWordsComplete
  refine ⟨fun f s sl => ⟨fun hi => ?_, fun hi hs => exec_syswr_epc hi hs, fun hi hs => exec_syswr_other hi hs, fun hi => ?_,
    fun hi hm hp => ⟨fun hq => ?_, fun q id hq => ?_⟩⟩, fun f s sl => ⟨fun hi hg k hk => exec_grow_now hi hg hk,
    fun hi hg => exec_grow_granted hi hg, fun hi => ?_, fun hi h8 hv hl => exec_launch_sends hi h8 hv hl, fun hi => ?_, fun hi => ?_,
    fun hi hx hn => exec_hmseal_sends hi hx hn⟩⟩
  · exact (issueWord_done hi rfl : execSysrd f s = _)
  · exact (issueWord_done hi rfl : execMapft f s = _)
  · exact (exec_eret_returns hi hm hp).trans (by rw [hq])
  · exact (exec_eret_returns hi hm hp).trans (by rw [hq])
  · exact (issueWord_done hi rfl : execShrink f s = _)
  · exact (issueWord_done hi rfl : execTemit f s = _)
  · exact (issueWord_done hi rfl : execHmread f s = _)

end Sys2Proof.Machine

end

/-! ### The Press commands (R305 to R328): completion -/

section

namespace Sys2Proof.Machine

open Sys2Proof.Safety

section

variable {s : State} {ps : PSlot}

/-- MLOOP counts K, and goes back while it is not 0 (R325). -/
theorem exec_mloop_of_press (f : FmtB) (h : currentPress s = some ps) :
    let c := (f.modi.extractLsb' 0 2).toNat
    let n := if f.modi.getLsbD 2 then max 1 (ps.p.item.extractLsb' 25 6).toNat else (shortOf f.a).toNat
    let v := (if (ps.p.k.getD c 0).toNat = 0 then n else (ps.p.k.getD c 0).toNat) - 1
    let t := ps.upd s fun p => { p with k := p.k.set c (BitVec.ofNat 32 v) }
    (v = 0 → exec (.mloop f) s = .next (afterPress (.mloop f) ps t)) ∧
    (v ≠ 0 → badTargetAt s ps.p.core ps.cohort.ctx (targetPc ps.pc f) = false →
      exec (.mloop f) s = .next (pressFinish (pressNoted (pressCount t ps (.mloop f)) ps) ps (targetPc ps.pc f))) := by
  intro c n v t
  show (_ → execMloop f s = _) ∧ (_ → _ → execMloop f s = _)
  exact ⟨fun hv => issuePress_done h (if_neg (not_not_intro hv)), fun hv hb => issuePress_goto h (if_pos hv) hb⟩

/-- A command without a scoreboard entry issues where no unfinished command conflicts with it (R307). -/
theorem pressPlain_free {i : Instr} (base : Nat) (value : Dword) (t : State) (h : pressFree ps.p i = true) :
    pressPlain i base value t ps = .done (pushCmd (fresh t).2 ps (fresh t).1 i base value) := by
  unfold pressPlain
  rw [h, if_neg (by decide)]

/-- A command with a scoreboard entry issues where no unfinished command conflicts with it and its entry is granted (R120, R307, R327). -/
theorem pressScored_granted {i : Instr} (base : Nat) (value : Dword) {granules : List Nat} {writes : Bool} (h : pressFree ps.p i = true)
    (hg : ((scoreTurn granules writes s ps).2.exec.score.any fun e => e.id == (scoreTurn granules writes s ps).1 && e.granted) = true) :
    pressScored i base value granules writes s ps =
      .done (pushCmd (scoreTurn granules writes s ps).2 ps (scoreTurn granules writes s ps).1 i base value) := by
  unfold pressScored
  rw [h, if_neg (by decide)]
  exact if_pos hg

theorem exec_mma_of_press {f : FmtXA} (h : currentPress s = some ps) (hfree : pressFree ps.p (.mma f) = true)
    (hb : mmaCharge ps.p f ≤ (getCore s ps.p.core).budget) :
    let t := ps.upd (updCore s ps.p.core fun k => { k with budget := k.budget - mmaCharge ps.p f }) fun p =>
      { p with est := mmaCharge ps.p f }
    exec (.mma f) s = .next (afterPress (.mma f) ps (pushCmd (fresh t).2 ps (fresh t).1 (.mma f) 0 0)) := by
  intro t
  show execMma f s = _
  refine issuePress_done h ?_
  dsimp only
  rw [hfree, decide_eq_false (Nat.not_lt.mpr hb), if_neg (by decide)]
  exact pressPlain_free 0 0 t hfree

/-- A region command in range that its scoreboard grants (R310, R327). -/
theorem issuePress_region {i : Instr} {f : FmtXR} {writes : Bool} (hS : ∀ f, i ≠ .mloadS f) (h : currentPress s = some ps)
    (hfree : pressFree ps.p i = true)
    (hin : ((pressRows f (regionBase ps.p f)).all fun a => spadIn s ps.p.core ps.owner a (rowBytes i)) = true)
    (hg : let r := scoreTurn (regionGranules (allocBase s ps.p.core ps.owner) (pressRows f (regionBase ps.p f)) (rowBytes i)) writes s ps
      (r.2.exec.score.any fun e => e.id == r.1 && e.granted) = true) :
    let r := scoreTurn (regionGranules (allocBase s ps.p.core ps.owner) (pressRows f (regionBase ps.p f)) (rowBytes i)) writes s ps
    issuePress s i (pressRegion i f writes) = .next (afterPress i ps (pushCmd r.2 ps r.1 i (regionBase ps.p f) 0)) := by
  refine issuePress_done h ?_
  unfold pressRegion
  dsimp only
  split
  · exact absurd rfl (hS _)
  · rw [hin, if_neg (by decide)]
    exact pressScored_granted _ _ hfree hg

theorem exec_mloadS_of_press {f : FmtXR} (h : currentPress s = some ps) (hfree : pressFree ps.p (.mloadS f) = true)
    (h128 : regionBase ps.p f % 128 = 0)
    (hin : ((pressRows f (regionBase ps.p f)).all fun a => spadIn s ps.p.core ps.owner a 128) = true)
    (hg : let r := scoreTurn (regionGranules (allocBase s ps.p.core ps.owner) (pressRows f (regionBase ps.p f)) 128) false s ps
      (r.2.exec.score.any fun e => e.id == r.1 && e.granted) = true) :
    let r := scoreTurn (regionGranules (allocBase s ps.p.core ps.owner) (pressRows f (regionBase ps.p f)) 128) false s ps
    exec (.mloadS f) s = .next (afterPress (.mloadS f) ps (pushCmd r.2 ps r.1 (.mloadS f) (regionBase ps.p f) 0)) := by
  show execMloadS f s = _
  refine issuePress_done h ?_
  unfold pressRegion
  dsimp only [rowBytes]
  rw [hin, h128, if_neg (by decide)]
  exact pressScored_granted _ _ hfree hg

theorem exec_msig_of_press {f : FmtXA} (h : currentPress s = some ps) (hfree : pressFree ps.p (.msig f) = true)
    (h8 : (f.modi.extractLsb' 0 19).toNat % 8 = 0) (hin : spadIn s ps.p.core ps.owner (f.modi.extractLsb' 0 19).toNat 8 = true)
    (hg : let r := scoreTurn (regionGranules (allocBase s ps.p.core ps.owner) [(f.modi.extractLsb' 0 19).toNat] 8) true s ps
      (r.2.exec.score.any fun e => e.id == r.1 && e.granted) = true) :
    let r := scoreTurn (regionGranules (allocBase s ps.p.core ps.owner) [(f.modi.extractLsb' 0 19).toNat] 8) true s ps
    exec (.msig f) s = .next (afterPress (.msig f) ps
      (pushCmd r.2 ps r.1 (.msig f) (f.modi.extractLsb' 0 19).toNat (msigValue ps.p f))) := by
  show execMsig f s = _
  refine issuePress_done h ?_
  dsimp only
  rw [hin, h8, if_neg (by decide)]
  exact pressScored_granted _ _ hfree hg

end

/-- Settles O22: the stream commands by their acts, the others once the interlocks and the scoreboard let them issue. -/
theorem pressCommandsComplete : Obligations.PressCommandsComplete := by
  unfold Obligations.PressCommandsComplete
  refine ⟨fun s ps h => ⟨?_, ?_, ?_, ?_, ?_⟩, fun s ps f h => ⟨?_, ?_⟩, fun s ps h => ⟨?_, ?_, ?_⟩⟩
  · exact fun f => exec_mloop_of_press f h
  · intro f
    show (_ → execMbra f s = _) ∧ (_ → _ → execMbra f s = _)
    exact ⟨fun ht => issuePress_done h (if_neg (by simpa using ht)), fun ht hb => issuePress_goto h (if_pos (by simpa using ht)) hb⟩
  · exact fun f => (issuePress_issues (.mend f) _ h : execMend f s = _)
  · exact fun f hp => (issuePress_done h (if_pos hp) : execMhwait f s = _)
  · intro f k x hx
    show execMpop f s = _
    exact issuePress_done h (by simp only [hx])
  · simp only [List.forall_mem_cons, List.not_mem_nil, IsEmpty.forall_iff, implies_true, and_true]
    exact ⟨fun hfree => (issuePress_done h (pressPlain_free 0 0 s hfree) : execMzero f s = _),
      fun hfree => (issuePress_done h (pressPlain_free 0 0 s hfree) : execMcvt f s = _),
      fun hfree => (issuePress_done h (pressPlain_free 0 0 s hfree) : execMharrive f s = _)⟩
  · exact fun hfree hb => exec_mma_of_press h hfree hb
  · simp only [List.forall_mem_cons, List.not_mem_nil, IsEmpty.forall_iff, implies_true, and_true]
    exact ⟨fun f hfree hin hg => (issuePress_region (i := .mload f) (fun _ => by simp) h hfree hin hg : execMload f s = _),
      fun f hfree hin hg => (issuePress_region (i := .mloadT f) (fun _ => by simp) h hfree hin hg : execMloadT f s = _),
      fun f hfree hin hg => (issuePress_region (i := .mstore f) (fun _ => by simp) h hfree hin hg : execMstore f s = _)⟩
  · exact fun f hfree h128 hin hg => exec_mloadS_of_press h hfree h128 hin hg
  · exact fun f hfree h8 hin hg => exec_msig_of_press h hfree h8 hin hg

end Sys2Proof.Machine

end

/-! ### Accesses that skip or trap (R51, R83, R274, R288) -/

section

namespace Sys2Proof.Machine

open Sys2Proof.Safety

/-- Without effective lanes no lane is picked. -/
theorem maskOf_noLanes (p : Nat → Bool) : (maskOf fun i => (0 : Mask).getLsbD i && p i) = 0 := by
  simp only [BitVec.ofNat_eq_ofNat, BitVec.getLsbD_zero, Bool.false_and]
  rfl

theorem badLanes_noLanes (s : State) (c : Nat) (addr : Nat → Dword) : badLanes s c 0 addr = 0 := maskOf_noLanes _

theorem remoteLanes_noLanes (s : State) (addr : Nat → Dword) : remoteLanes s 0 addr = 0 := maskOf_noLanes _

theorem spadBad_noLanes (s : State) (sl : Slot) (cl : Bool) (n : Nat) (addr : Nat → Int) : spadBad s sl cl n 0 addr = 0 :=
  maskOf_noLanes _

/-- A destination that is no port is not opened. -/
theorem openDst_noPort {s : State} {sl : Slot} {d : Dst} (wait : Mask) (h : ¬ 240 ≤ d.reg.toNat) : (openDst s sl d wait).1 = s := by
  unfold openDst
  rw [if_neg h]
  split <;> rfl

/-- A load without effective lanes opens its destination, which is a change for a port only (R62). -/
theorem loadAct_noLanes (f : FmtM) (k : OpKind) (addr fault : Nat → Dword) (s : State) (sl : Slot) :
    loadAct f k 0 addr fault 0 0 s sl = .done (openDst s sl f.dst 0).1 := by
  unfold loadAct
  dsimp only
  simp only [BitVec.ofNat_eq_ofNat, bne_self_eq_false, Bool.false_and, Bool.false_eq_true, if_false, BEq.rfl, Bool.true_and, if_true,
    ocFull]
  by_cases h : 240 ≤ f.dst.reg.toNat
  · simp only [h, decide_true, Bool.not_true, Bool.false_eq_true, if_false]
  · simp only [h, decide_false, Bool.not_false, if_true]
    rw [openDst_noPort _ h]

theorem spadLoadAct_noLanes {f : FmtM} (k : OpKind) (bad : Mask) (addr : Nat → Int) (s : State) {sl : Slot} (he : sl.eff f.guard = 0) :
    spadLoadAct f k bad addr s sl = .done (openDst s sl f.dst 0).1 := by
  unfold spadLoadAct
  dsimp only
  rw [he]
  rfl

theorem issueSpadLoad_noLanes {i : Instr} {f : FmtM} {cl : Bool} {s : State} {sl : Slot} (hi : Issues s sl i)
    (he : sl.eff f.guard = 0) :
    issueSpadLoad i f cl s = .next (after i sl (openDst (noteIssued s sl) sl f.dst 0).1) :=
  issueWord_done hi (spadLoadAct_noLanes _ _ _ _ he)

theorem exec_st_noLanes {f : FmtM} {s : State} {sl : Slot} (hi : Issues s sl (.st f)) (he : sl.eff f.guard = 0) :
    exec (.st f) s = .next (after (.st f) sl (popPorts (noteIssued s sl) sl (wordPorts (.st f)))) := by
  show execSt f s = _
  refine issueWord_done hi ?_
  dsimp only
  rw [he, badLanes_noLanes, remoteLanes_noLanes]
  rfl

/-- A scratchpad store without effective lanes pops its ports (R63). -/
theorem issueSpadStore_noLanes {i : Instr} {f : FmtM} {cl : Bool} {s : State} {sl : Slot} (hi : Issues s sl i)
    (he : sl.eff f.guard = 0) :
    issueSpadStore i f cl s = .next (after i sl (popPorts (noteIssued s sl) sl (wordPorts i))) := by
  refine issueWord_done hi ?_
  dsimp only
  rw [he, spadBad_noLanes]
  rfl

theorem exec_sts_outOfRange {f : FmtM} {s : State} {sl : Slot} (hi : Issues s sl (.sts f))
    (hb : spadBad (noteIssued s sl) sl false (2 ^ f.width.toNat) (sl.eff f.guard) (sl.saddr f) ≠ 0)
    (hg : sl.eff f.guard &&& ~~~spadBad (noteIssued s sl) sl false (2 ^ f.width.toNat) (sl.eff f.guard) (sl.saddr f) ≠ 0) :
    let bad := spadBad (noteIssued s sl) sl false (2 ^ f.width.toNat) (sl.eff f.guard) (sl.saddr f)
    let u := popPorts (noteIssued s sl) sl (wordPorts (.sts f))
    exec (.sts f) s = .next (afterCause (.sts f) sl
      (sendOp u { baseOp u sl (.spadStore false f.swz.toNat (2 ^ f.width.toNat)) with
        todo := sl.eff f.guard &&& ~~~bad, addrs := intLanes (sl.saddr f), data := sl.sdata f.c, scope := f.scope.toNat,
        order := f.order.toNat })
      (spadCause sl bad (BitVec.ofInt 64 (((lowestLane bad).map (sl.saddr f)).getD 0)))) := by
  show issueSpadStore (.sts f) f false s = _
  refine issueWord_cause hi ?_
  dsimp only [spadEnd]
  rw [if_neg (by simpa using hb), if_neg (by simpa using hg)]

/-- An atomic without effective lanes pops its ports. -/
theorem atomicAct_noLanes {i : Instr} {major minor : Nat} {f : FmtM} {s : State} {sl : Slot} (he : sl.eff f.guard = 0)
    (hf : ocFull sl.g (if !f.dst.nwb then some .atom else none) = false) :
    atomicAct i major minor f s sl = .done (popPorts s sl (wordPorts i)) := by
  unfold atomicAct
  dsimp only
  rw [he, badLanes_noLanes, remoteLanes_noLanes, maskOf_noLanes]
  simp only [bne_self_eq_false, Bool.false_eq_true, if_false, BitVec.ofNat_eq_ofNat, BitVec.or_self, hf, BEq.rfl, if_true]

/-- An atomic with a lane that fails its checks or is misaligned raises ADDRFAULT and does nothing (R288). -/
theorem atomicAct_fails {i : Instr} {major minor : Nat} {f : FmtM} {s : State} {sl : Slot}
    (h : badLanes s sl.g.ctx (sl.eff f.guard) (sl.gaddr f) |||
      (maskOf fun i => (sl.eff f.guard).getLsbD i && (sl.gaddr f i).toNat % 2 ^ f.width.toNat != 0) ≠ 0) :
    let mis := maskOf fun i => (sl.eff f.guard).getLsbD i && (sl.gaddr f i).toNat % 2 ^ f.width.toNat != 0
    let bad := badLanes s sl.g.ctx (sl.eff f.guard) (sl.gaddr f)
    atomicAct i major minor f s sl = .cause s (addrCause sl (bad ||| mis) (sl.gaddr f) (if mis != 0 then 2 else 0)) :=
  if_pos (by simpa only [bne_iff_ne] using h)

/-- The two ways in which an atomic that issues does not send its operation. -/
theorem atomicWord_skips {i : Instr} {major minor : Nat} {f : FmtM} {s : State} {sl : Slot} (hi : Issues s sl i) :
    let mis := maskOf fun i => (sl.eff f.guard).getLsbD i && (sl.gaddr f i).toNat % 2 ^ f.width.toNat != 0
    let bad := badLanes (noteIssued s sl) sl.g.ctx (sl.eff f.guard) (sl.gaddr f)
    (sl.eff f.guard = 0 → ocFull sl.g (if !f.dst.nwb then some .atom else none) = false →
      issueWord s i (fun s sl => atomicAct i major minor f s sl) =
        .next (after i sl (popPorts (noteIssued s sl) sl (wordPorts i)))) ∧
    (bad ||| mis ≠ 0 → issueWord s i (fun s sl => atomicAct i major minor f s sl) =
      .next (afterCause i sl (noteIssued s sl) (addrCause sl (bad ||| mis) (sl.gaddr f) (if mis != 0 then 2 else 0)))) :=
  ⟨fun he hf => issueWord_done hi (atomicAct_noLanes he hf), fun h => issueWord_cause hi (atomicAct_fails h)⟩

theorem exec_ldv_fails {f : FmtM} {s : State} {sl : Slot} (hi : Issues s sl (.ldv f))
    (hb : badLanes (noteIssued s sl) sl.g.ctx (sl.eff f.guard) (sl.gaddr f) ≠ 0) (hp : f.dst.reg.toNat < 240) :
    exec (.ldv f) s = .next (afterCause (.ldv f) sl (noteIssued s sl)
      (addrCause sl (badLanes (noteIssued s sl) sl.g.ctx (sl.eff f.guard) (sl.gaddr f)) (sl.gaddr f) 0)) := by
  show execLdv f s = _
  refine issueWord_cause hi ?_
  dsimp only
  unfold loadAct
  exact if_pos (by simpa [Nat.not_le.mpr hp] using hb)

theorem exec_st_fails {f : FmtM} {s : State} {sl : Slot} (hi : Issues s sl (.st f))
    (hb : badLanes (noteIssued s sl) sl.g.ctx (sl.eff f.guard) (sl.gaddr f) ≠ 0) :
    exec (.st f) s = .next (afterCause (.st f) sl (noteIssued s sl)
      (addrCause sl (badLanes (noteIssued s sl) sl.g.ctx (sl.eff f.guard) (sl.gaddr f)) (sl.gaddr f) 0)) := by
  show execSt f s = _
  exact issueWord_cause hi (if_pos (by simpa using hb))

/-- Settles O40: each shared act without effective lanes, and with lanes that fail. -/
theorem accessesThatSkipOrTrap : Obligations.AccessesThatSkipOrTrap := by
  unfold Obligations.AccessesThatSkipOrTrap
  intro f s sl
  simp only [List.forall_mem_cons, List.not_mem_nil, IsEmpty.forall_iff, implies_true, and_true]
  refine ⟨⟨?_, ?_, ?_, ?_, ?_, ?_⟩, ⟨?_, ?_, ?_⟩, ?_, ⟨?_, ?_⟩, ?_⟩
  · intro hi he
    show execLdv f s = _
    exact issueWord_done hi (by dsimp only; rw [he, badLanes_noLanes, remoteLanes_noLanes]; exact loadAct_noLanes ..)
  · intro hi he
    show execLdp f s = _
    exact issueWord_done hi (by dsimp only; rw [he, badLanes_noLanes, remoteLanes_noLanes]; exact loadAct_noLanes ..)
  · intro hi he
    show execGrld f s = _
    exact issueWord_done hi (by dsimp only; rw [he, maskOf_noLanes, maskOf_noLanes]; exact loadAct_noLanes ..)
  · exact fun hi he => issueSpadLoad_noLanes hi he
  · exact fun hi he => issueSpadLoad_noLanes hi he
  · exact fun hi he => (issueWord_done hi (spadLoadAct_noLanes _ _ _ _ he) : execLdsT f s = _)
  · exact fun hi he => exec_st_noLanes hi he
  · exact fun hi he => issueSpadStore_noLanes hi he
  · exact fun hi he => issueSpadStore_noLanes hi he
  · and_intros
    all_goals exact fun hi => atomicWord_skips hi
  · exact fun hi hb hp => exec_ldv_fails hi hb (hp trivial)
  · exact fun hi hb _ => exec_st_fails hi hb
  · exact fun hi hb hg => exec_sts_outOfRange hi hb hg

end Sys2Proof.Machine

end

/-! ### Steps, and the check of a run (R29, R30, R52, R192, R219) -/

section

namespace Sys2Proof.Machine

open Sys2Proof.Safety

/-! The order of R52 among the causes of a run. -/

/-- The cause of lowest rank of a list that starts with `c`, as `judge` looks for it. -/
def bestCause (c : Nat) (xs : List (Nat × Nat)) : Nat :=
  xs.foldl (fun b y => if causeRank y.1 < causeRank b then y.1 else b) c

theorem bestCause_le (c : Nat) (xs : List (Nat × Nat)) :
    causeRank (bestCause c xs) ≤ causeRank c ∧ ∀ y ∈ xs, causeRank (bestCause c xs) ≤ causeRank y.1 := by
  induction xs generalizing c with
  | nil => exact ⟨Nat.le_refl _, nofun⟩
  | cons y ys ih =>
    obtain ⟨hc, hys⟩ := ih (if causeRank y.1 < causeRank c then y.1 else c)
    have h : bestCause c (y :: ys) = bestCause (if causeRank y.1 < causeRank c then y.1 else c) ys := rfl
    have hle : causeRank (if causeRank y.1 < causeRank c then y.1 else c) ≤ causeRank c ∧
        causeRank (if causeRank y.1 < causeRank c then y.1 else c) ≤ causeRank y.1 := by
      split <;> omega
    rw [h]
    simp only [List.mem_cons, forall_eq_or_imp]
    exact ⟨by omega, by omega, hys⟩

theorem bestCause_mem (c : Nat) (xs : List (Nat × Nat)) : bestCause c xs = c ∨ ∃ y ∈ xs, bestCause c xs = y.1 := by
  induction xs generalizing c with
  | nil => exact .inl rfl
  | cons y ys ih =>
    have h : bestCause c (y :: ys) = bestCause (if causeRank y.1 < causeRank c then y.1 else c) ys := rfl
    rw [h]
    rcases ih (if causeRank y.1 < causeRank c then y.1 else c) with hb | ⟨z, hz, hb⟩
    · rw [hb]
      split
      · exact .inr ⟨y, List.mem_cons_self, rfl⟩
      · exact .inl rfl
    · exact .inr ⟨z, List.mem_cons_of_mem _ hz, hb⟩

/-- The marks of the entries of a list with a cause. -/
def causeMarks (c : Nat) (xs : List (Nat × Nat)) : Nat := (xs.filter fun y => y.1 == c).foldl (fun m y => m ||| y.2) 0

theorem foldl_marks_zero {xs : List (Nat × Nat)} (h : ∀ y ∈ xs, y.2 = 0) (m : Nat) : xs.foldl (fun m y => m ||| y.2) m = m := by
  induction xs generalizing m with
  | nil => rfl
  | cons y ys ih =>
    rw [List.foldl_cons, h y List.mem_cons_self, Nat.or_zero]
    exact ih (fun z hz => h z (List.mem_cons_of_mem _ hz)) m

/-- A mark where a check fails. -/
def illegalMark (ok : Bool) (marks : Nat) : List (Nat × Nat) := if ok then [] else [(0x01, marks)]

/-- The causes that the checks of R30 find on a gathered run, with their marks, in the order of `judge`. -/
def runFaults (press access qdiv : Bool) (rs : List RawSlot) (ended : Bool) (classes : List Nat) : List (Nat × Nat) :=
  illegalMark (rs.all parityOk) (2 ^ 8) ++ illegalMark (rs.all fun r => lineWord r.line % 2 ^ 18 == 0) (2 ^ 10) ++
  illegalMark (pairingOk press rs) (2 ^ 9) ++ classes.map (fun c => (c, 0)) ++ illegalMark (structureOk access rs) 0 ++
  (if ended then [] else [(0x04, 0)]) ++ (if qdiv then [(0x05, 0)] else [])

section

variable {press access qdiv ended : Bool} {rs : List RawSlot} {classes : List Nat}

theorem judge_nothing (h : runFaults press access qdiv rs ended classes = []) :
    judge press access qdiv rs ended none classes = .ok (decodeSlots rs) := by
  unfold judge
  unfold runFaults illegalMark at h
  dsimp only
  rw [h]

/-- A run with causes takes the one of lowest rank, with its marks (R52). -/
theorem judge_takes {c : Nat} (hc : ∃ m, (c, m) ∈ runFaults press access qdiv rs ended classes)
    (hmin : ∀ y ∈ runFaults press access qdiv rs ended classes, y.1 = c ∨ causeRank c < causeRank y.1) :
    judge press access qdiv rs ended none classes =
      .trap c (causeMarks c (runFaults press access qdiv rs ended classes))
        (if c = 0x01 then ((rs.find? fun r => !parityOk r).map (·.pc)).getD 0 else 0) := by
  have key : ∀ found, runFaults press access qdiv rs ended classes = found → (∃ m, (c, m) ∈ found) →
      (∀ y ∈ found, y.1 = c ∨ causeRank c < causeRank y.1) → judge press access qdiv rs ended none classes =
        .trap c (causeMarks c found) (if c = 0x01 then ((rs.find? fun r => !parityOk r).map (·.pc)).getD 0 else 0) := by
    intro found hf ⟨m, hm⟩ hmin
    unfold judge
    unfold runFaults illegalMark at hf
    dsimp only
    rw [hf]
    cases found with
    | nil => cases hm
    | cons x xs =>
      have hbest : bestCause x.1 xs = c := by
        obtain ⟨hx, hxs⟩ := bestCause_le x.1 xs
        have hle : causeRank (bestCause x.1 xs) ≤ causeRank c := by
          rcases List.mem_cons.mp hm with rfl | hm
          · exact hx
          · exact hxs _ hm
        have hmem : bestCause x.1 xs = c ∨ causeRank c < causeRank (bestCause x.1 xs) := by
          rcases bestCause_mem x.1 xs with hb | ⟨z, hz, hb⟩
          · rw [hb]; exact hmin x List.mem_cons_self
          · rw [hb]; exact hmin z (List.mem_cons_of_mem _ hz)
        exact hmem.resolve_right (Nat.not_lt.mpr hle)
      unfold bestCause at hbest
      dsimp only
      rw [hbest]
      rfl
  exact key _ rfl hc hmin

/-- What is found on a run: each of its checks that fails, and each cause of its words. -/
theorem mem_runFaults {y : Nat × Nat} : y ∈ runFaults press access qdiv rs ended classes ↔
    (rs.all parityOk = false ∧ y = (0x01, 2 ^ 8)) ∨ ((rs.all fun r => lineWord r.line % 2 ^ 18 == 0) = false ∧ y = (0x01, 2 ^ 10)) ∨
    (pairingOk press rs = false ∧ y = (0x01, 2 ^ 9)) ∨ (y.1 ∈ classes ∧ y.2 = 0) ∨
    (structureOk access rs = false ∧ y = (0x01, 0)) ∨ (ended = false ∧ y = (0x04, 0)) ∨ (qdiv = true ∧ y = (0x05, 0)) := by
  have hmark (ok : Bool) (m : Nat) : y ∈ illegalMark ok m ↔ ok = false ∧ y = (0x01, m) := by
    cases ok <;> simp [illegalMark]
  have hclass : y ∈ classes.map (fun c => (c, 0)) ↔ y.1 ∈ classes ∧ y.2 = 0 := by
    rcases y with ⟨c, m⟩
    simp [eq_comm]
  have hend : y ∈ (if ended then [] else [(0x04, 0)]) ↔ ended = false ∧ y = (0x04, 0) := by cases ended <;> simp
  have hq : y ∈ (if qdiv then [(0x05, 0)] else []) ↔ qdiv = true ∧ y = (0x05, 0) := by cases qdiv <;> simp
  unfold runFaults
  simp only [List.mem_append, hmark, hclass, hend, hq, or_assoc]

/-- The marks of the ILLEGALs of a run (R212). -/
theorem causeMarks_illegal : causeMarks 0x01 (runFaults press access qdiv rs ended classes) =
    (if rs.all parityOk then 0 else 2 ^ 8) + (if rs.all fun r => lineWord r.line % 2 ^ 18 == 0 then 0 else 2 ^ 10) +
      (if pairingOk press rs then 0 else 2 ^ 9) := by
  have hrest : ((classes.map (fun c => (c, 0)) ++ illegalMark (structureOk access rs) 0 ++ (if ended then [] else [(0x04, 0)]) ++
      (if qdiv then [(0x05, 0)] else [])).filter fun y : Nat × Nat => y.1 == 0x01).all (fun y => y.2 == 0) = true := by
    simp only [List.all_eq_true, List.mem_filter, List.mem_append, List.mem_map, beq_iff_eq]
    rintro y ⟨((⟨c, -, rfl⟩ | h) | h) | h, -⟩
    · rfl
    · unfold illegalMark at h
      split at h
      · cases h
      · rw [List.mem_singleton.mp h]
    · split at h
      · cases h
      · rw [List.mem_singleton.mp h]
    · split at h
      · rw [List.mem_singleton.mp h]
      · cases h
  have hz (m : Nat) := foldl_marks_zero (m := m) fun y hy => by
    simpa using List.all_eq_true.mp hrest y hy
  unfold causeMarks runFaults
  simp only [List.append_assoc] at hz ⊢
  simp only [List.filter_append, List.foldl_append] at hz ⊢
  rw [hz]
  cases rs.all parityOk <;> cases rs.all (fun r => lineWord r.line % 2 ^ 18 == 0) <;> cases pairingOk press rs <;> rfl

theorem causeMarks_zero {c : Nat} {xs : List (Nat × Nat)} (h : ∀ y ∈ xs, y.2 = 0) : causeMarks c xs = 0 :=
  foldl_marks_zero (fun y hy => h y (List.mem_filter.mp hy).1) 0

/-- Whether no check of a run finds an ILLEGAL. -/
def runLegal (press access : Bool) (rs : List RawSlot) (classes : List Nat) : Bool :=
  rs.all parityOk && (rs.all fun r => lineWord r.line % 2 ^ 18 == 0) && pairingOk press rs && structureOk access rs &&
    !classes.contains 0x01

/-- A run in which no check finds an ILLEGAL has only the causes of its words and its end. -/
theorem mem_runFaults_legal (hl : runLegal press access rs classes = true) {y : Nat × Nat} :
    y ∈ runFaults press access qdiv rs ended classes ↔
      (y.1 ∈ classes ∧ y.1 ≠ 0x01 ∧ y.2 = 0) ∨ (ended = false ∧ y = (0x04, 0)) ∨ (qdiv = true ∧ y = (0x05, 0)) := by
  simp only [runLegal, Bool.and_eq_true, Bool.not_eq_true', ← Bool.not_eq_true, List.contains_iff_mem] at hl
  obtain ⟨⟨⟨⟨hp, hr⟩, hpair⟩, hs⟩, h1⟩ := hl
  have hne : y.1 ∈ classes → y.1 ≠ 0x01 := fun h he => h1 (he ▸ h)
  rw [mem_runFaults]
  simp only [hp, hr, hpair, hs, Bool.true_eq_false, false_and, false_or]
  constructor
  · rintro (⟨h, hz⟩ | h)
    · exact .inl ⟨h, hne h, hz⟩
    · exact .inr h
  · rintro (⟨h, -, hz⟩ | h)
    · exact .inl ⟨h, hz⟩
    · exact .inr h

theorem judge_illegal (hcl : ∀ c ∈ classes, c = 0x01 ∨ c = 0x02 ∨ c = 0x0C) (hl : runLegal press access rs classes = false) :
    judge press access qdiv rs ended none classes = .trap 0x01
      ((if rs.all parityOk then 0 else 2 ^ 8) + (if rs.all fun r => lineWord r.line % 2 ^ 18 == 0 then 0 else 2 ^ 10) +
        (if pairingOk press rs then 0 else 2 ^ 9))
      (((rs.find? fun x => !parityOk x).map (·.pc)).getD 0) := by
  rw [judge_takes (c := 0x01), causeMarks_illegal, if_pos rfl]
  · simp only [runLegal, Bool.and_eq_false_iff, Bool.not_eq_false', List.contains_iff_mem] at hl
    rcases hl with (((h | h) | h) | h) | h
    · exact ⟨2 ^ 8, mem_runFaults.mpr (.inl ⟨h, rfl⟩)⟩
    · exact ⟨2 ^ 10, mem_runFaults.mpr (.inr (.inl ⟨h, rfl⟩))⟩
    · exact ⟨2 ^ 9, mem_runFaults.mpr (.inr (.inr (.inl ⟨h, rfl⟩)))⟩
    · exact ⟨0, mem_runFaults.mpr (.inr (.inr (.inr (.inr (.inl ⟨h, rfl⟩)))))⟩
    · exact ⟨0, mem_runFaults.mpr (.inr (.inr (.inr (.inl ⟨h, rfl⟩))))⟩
  · intro y hy
    rcases mem_runFaults.mp hy with ⟨-, rfl⟩ | ⟨-, rfl⟩ | ⟨-, rfl⟩ | ⟨h, -⟩ | ⟨-, rfl⟩ | ⟨-, rfl⟩ | ⟨-, rfl⟩
    · exact .inl rfl
    · exact .inl rfl
    · exact .inl rfl
    · rcases hcl _ h with h | h | h
      · exact .inl h
      · rw [h]; exact .inr (by decide)
      · rw [h]; exact .inr (by decide)
    · exact .inl rfl
    · exact .inr (by decide)
    · exact .inr (by decide)

/-- A legal run takes the cause of lowest rank among its words' and its end's (R52). -/
theorem judge_legal_takes {c : Nat} (hl : runLegal press access rs classes = true) (h1 : c ≠ 0x01)
    (hc : (c, 0) ∈ runFaults press access qdiv rs ended classes)
    (hcl : ∀ x ∈ classes, x ≠ 0x01 → x = c ∨ causeRank c < causeRank x)
    (h4 : ended = false → 0x04 = c ∨ causeRank c < causeRank 0x04) (h5 : qdiv = true → 0x05 = c ∨ causeRank c < causeRank 0x05) :
    judge press access qdiv rs ended none classes = .trap c 0 0 := by
  have hz : ∀ y ∈ runFaults press access qdiv rs ended classes, y.2 = 0 := by
    intro y hy
    rcases (mem_runFaults_legal hl).mp hy with ⟨-, -, h⟩ | ⟨-, rfl⟩ | ⟨-, rfl⟩
    · exact h
    · rfl
    · rfl
  rw [judge_takes ⟨0, hc⟩, causeMarks_zero hz, if_neg h1]
  intro y hy
  rcases (mem_runFaults_legal hl).mp hy with ⟨h, hne, -⟩ | ⟨h, rfl⟩ | ⟨h, rfl⟩
  · exact hcl _ h hne
  · exact h4 h
  · exact h5 h

/-- What a gathered run takes, in the order of R52. -/
theorem judge_gathered (hcl : ∀ c ∈ classes, c = 0x01 ∨ c = 0x02 ∨ c = 0x0C) :
    judge press access qdiv rs ended none classes =
      if runLegal press access rs classes = false then .trap 0x01
        ((if rs.all parityOk then 0 else 2 ^ 8) + (if rs.all fun r => lineWord r.line % 2 ^ 18 == 0 then 0 else 2 ^ 10) +
          (if pairingOk press rs then 0 else 2 ^ 9))
        (((rs.find? fun x => !parityOk x).map (·.pc)).getD 0)
      else if classes.contains 0x02 then .trap 0x02 0 0
      else if classes.contains 0x0C then .trap 0x0C 0 0
      else if ended = false then .trap 0x04 0 0
      else if qdiv then .trap 0x05 0 0
      else .ok (decodeSlots rs) := by
  split
  · next hl => exact judge_illegal hcl hl
  next hl =>
  have hl : runLegal press access rs classes = true := by simpa using hl
  simp only [List.contains_iff_mem]
  split
  · next h2 =>
    refine judge_legal_takes hl (by decide) ((mem_runFaults_legal hl).mpr (.inl ⟨h2, by decide, rfl⟩)) (fun x hx hne => ?_)
      (fun _ => .inr (by decide)) (fun _ => .inr (by decide))
    rcases hcl x hx with rfl | rfl | rfl
    · exact absurd rfl hne
    · exact .inl rfl
    · exact .inr (by decide)
  next h2 =>
  split
  · next h12 =>
    refine judge_legal_takes hl (by decide) ((mem_runFaults_legal hl).mpr (.inl ⟨h12, by decide, rfl⟩)) (fun x hx hne => ?_)
      (fun _ => .inr (by decide)) (fun _ => .inr (by decide))
    rcases hcl x hx with rfl | rfl | rfl
    · exact absurd rfl hne
    · exact absurd hx h2
    · exact .inl rfl
  next h12 =>
  have hnone : ∀ x ∈ classes, x ≠ 0x01 → False := by
    intro x hx hne
    rcases hcl x hx with rfl | rfl | rfl
    · exact hne rfl
    · exact h2 hx
    · exact h12 hx
  split
  · next he =>
    exact judge_legal_takes hl (by decide) ((mem_runFaults_legal hl).mpr (.inr (.inl ⟨he, rfl⟩)))
      (fun x hx hne => absurd (hnone x hx hne) id) (fun _ => .inl rfl) (fun _ => .inr (by decide))
  next he =>
  split
  · next hq =>
    exact judge_legal_takes hl (by decide) ((mem_runFaults_legal hl).mpr (.inr (.inr ⟨hq, rfl⟩)))
      (fun x hx hne => absurd (hnone x hx hne) id) (fun h => absurd h he) (fun _ => .inl rfl)
  next hq =>
  refine judge_nothing (List.eq_nil_iff_forall_not_mem.mpr fun y hy => ?_)
  rcases (mem_runFaults_legal hl).mp hy with ⟨h, hne, -⟩ | ⟨h, -⟩ | ⟨h, -⟩
  · exact hnone _ h hne
  · exact he h
  · exact hq h

end

/-! The words of a gathered run. -/

/-- The causes that a word can raise (R219). -/
theorem classify_codes {s : State} {g : Group} {pr : Pair} {w : BitVec 96} {c : Nat} (h : classify s g pr w = some c) :
    c = 0x01 ∨ c = 0x02 ∨ c = 0x0C := by
  unfold classify at h
  dsimp only at h
  split at h
  · exact .inl (Option.some.inj h).symm
  split at h
  · exact .inl (Option.some.inj h).symm
  split at h
  · exact .inr (.inl (Option.some.inj h).symm)
  split at h
  · exact .inr (.inr (Option.some.inj h).symm)
  split at h
  · exact .inl (Option.some.inj h).symm
  split at h
  · split at h
    · cases h
    · exact .inl (Option.some.inj h).symm
  · exact .inl (Option.some.inj h).symm

/-- A word that raises no cause decodes. -/
theorem decode_of_classify_none {s : State} {g : Group} {pr : Pair} {w : BitVec 96} (h : classify s g pr w = none) :
    ∃ i, decode w = .ok i := by
  unfold classify at h
  dsimp only at h
  split at h
  · cases h
  split at h
  · cases h
  split at h
  · cases h
  split at h
  · cases h
  split at h
  · cases h
  · exact ⟨_, ‹_›⟩

/-- The slots of a run whose every word decodes, in their places. -/
theorem decodeSlots_places {rs : List RawSlot} (h : ∀ r ∈ rs, ∃ i, decode r.word = .ok i) :
    (decodeSlots rs).length = rs.length ∧
      ∀ (k : Nat) (r : RawSlot), rs[k]? = some r → ∃ i, decode r.word = .ok i ∧ (decodeSlots rs)[k]? = some (r.pc, i) := by
  induction rs with
  | nil => exact ⟨rfl, nofun⟩
  | cons r rs ih =>
    obtain ⟨i, hi⟩ := h r List.mem_cons_self
    obtain ⟨hlen, hplaces⟩ := ih fun x hx => h x (List.mem_cons_of_mem _ hx)
    have hd : decodeSlots (r :: rs) = (r.pc, i) :: decodeSlots rs := by
      unfold decodeSlots
      rw [List.filterMap_cons, hi]
    rw [hd]
    refine ⟨by rw [List.length_cons, List.length_cons, hlen], fun k x hk => ?_⟩
    cases k with
    | zero =>
      cases (Option.some.inj hk : r = x)
      exact ⟨i, hi, rfl⟩
    | succ k => exact hplaces k x hk

/-- Every gathered slot holds the word of its place in its line (R190). -/
theorem gather_word {core c n : Nat} {s : State} {pc : Dword} {r : RawSlot} (h : r ∈ (gather s core c n pc).2.1) :
    r.word = slotWord r.line (r.pc.extractLsb' 0 3).toNat := by
  induction n generalizing s pc with
  | zero => cases h
  | succ n ih =>
    unfold gather at h
    split at h
    · cases h
    · dsimp only at h
      split at h
      · rw [List.mem_singleton.mp h]
      · rcases List.mem_cons.mp h with rfl | h
        · rfl
        · exact ih h

/-- The first gathered slot is that of the head (R190, R193). -/
theorem gather_head {core c n : Nat} {s v : State} {pc : Dword} {d : List Byte} (h : fetchLine s core c (pcLine pc) = .ok (v, d)) :
    ((gather s core c (n + 1) pc).2.1[0]?).map (fun r => (r.pc, r.word)) = some (pc, slotWord d (pc.extractLsb' 0 3).toNat) := by
  unfold gather
  rw [h]
  dsimp only
  split <;> rfl

/-- The slots of a run are gathered from one state of the fetch caches (R192). -/
theorem gatherFix_gather {core c : Nat} {head : Dword} (n : Nat) (tried : List Nat) (s : State) :
    ∃ u, (gatherFix core c head n tried s).2 = gather u core c 24 head := by
  induction n generalizing tried s with
  | zero => exact ⟨s, rfl⟩
  | succ n ih =>
    unfold gatherFix
    dsimp only
    split
    · exact ⟨s, rfl⟩
    · exact ih _ _

theorem gatherRun_word {core c : Nat} {head : Dword} {s : State} {r : RawSlot} (h : r ∈ (gatherRun s core c head).2.1) :
    r.word = slotWord r.line (r.pc.extractLsb' 0 3).toNat := by
  obtain ⟨u, hu⟩ := gatherFix_gather (core := core) (c := c) (head := head) 6 [] s
  have hr : (gatherRun s core c head).2.1 = (gather u core c 24 head).2.1 := congrArg (fun x => x.2.1) hu
  exact gather_word (hr ▸ h)

/-- A run whose lines pass their parity checks is fetched once (R192). -/
theorem gatherRun_parityOk {core c : Nat} {head : Dword} {s : State} (h : (gather s core c 24 head).2.1.all parityOk = true) :
    (gatherRun s core c head).2.1 = (gather s core c 24 head).2.1 := by
  have hbad : ((gather s core c 24 head).2.1.filter fun x => !parityOk x) = [] :=
    List.filter_eq_nil_iff.mpr fun x hx => by simpa using List.all_eq_true.mp h x hx
  have hfix : (gatherFix core c head 6 [] s).2 = gather s core c 24 head := by
    unfold gatherFix
    dsimp only
    rw [hbad]
    rfl
  exact congrArg (fun x => x.2.1) hfix

section

variable {s : State} {g : Group} {pr : Pair} {entry : Nat} {head : Dword}

/-- The causes of the words of a gathered run. -/
def wordCauses (s : State) (g : Group) (pr : Pair) (rs : List RawSlot) : List Nat := rs.filterMap fun r => classify s g pr r.word

theorem wordCauses_contains (n : Nat) (rs : List RawSlot) :
    (wordCauses s g pr rs).contains n = rs.any fun x => classify s g pr x.word == some n := by
  rw [Bool.eq_iff_iff, List.contains_iff_mem]
  simp only [wordCauses, List.mem_filterMap, List.any_eq_true, beq_iff_eq]

/-- A run fetched is judged by its slots and the causes of its words (R30). -/
theorem fetchRun_result : (fetchRun s g pr entry head).2 =
    let r := gatherRun s g.core g.ctx head
    judge false (g.stream = .access)
      (((runParts (decodeSlots r.2.1)).any fun x => portsNamed x.2.1 x.2.2.1 x.2.2.2 != []) && entry != 0) r.2.1 r.2.2.1 r.2.2.2
      (wordCauses r.1 g pr r.2.1) := by
  unfold fetchRun wordCauses
  generalize gatherRun s g.core g.ctx head = x
  rfl

/-- A run that passes: its slots are its decoded words, and none of them raises a cause. -/
theorem fetchRun_ok {u : State} {slots : List (Dword × Instr)} (h : fetchRun s g pr entry head = (u, .ok slots)) :
    slots = decodeSlots (gatherRun s g.core g.ctx head).2.1 ∧
      ∀ r ∈ (gatherRun s g.core g.ctx head).2.1, ∃ i, decode r.word = .ok i := by
  have hj := (fetchRun_result (s := s) (g := g) (pr := pr) (entry := entry) (head := head)).symm.trans (congrArg Prod.snd h)
  generalize gatherRun s g.core g.ctx head = x at hj ⊢
  obtain ⟨v, rs, ended, fault⟩ := x
  dsimp only at hj ⊢
  cases fault with
  | some e => exact nomatch hj
  | none =>
    have hcodes : ∀ c ∈ wordCauses v g pr rs, c = 0x01 ∨ c = 0x02 ∨ c = 0x0C := by
      intro c hc
      obtain ⟨r, -, hr⟩ := List.mem_filterMap.mp hc
      exact classify_codes hr
    rw [judge_gathered hcodes] at hj
    split at hj
    · cases hj
    next hl =>
    split at hj
    · cases hj
    next h2 =>
    split at hj
    · cases hj
    next h12 =>
    split at hj
    · cases hj
    split at hj
    · cases hj
    have hl : runLegal false (g.stream = .access) rs (wordCauses v g pr rs) = true := by simpa using hl
    simp only [runLegal, Bool.and_eq_true, Bool.not_eq_true', ← Bool.not_eq_true, List.contains_iff_mem] at hl
    obtain ⟨-, h1⟩ := hl
    simp only [List.contains_iff_mem] at h2 h12
    refine ⟨(FetchResult.ok.inj hj).symm, fun r hr => ?_⟩
    cases hc : classify v g pr r.word with
    | none => exact decode_of_classify_none hc
    | some c =>
      have hmem : c ∈ wordCauses v g pr rs := List.mem_filterMap.mpr ⟨r, hr, hc⟩
      rcases classify_codes hc with rfl | rfl | rfl
      · exact absurd hmem h1
      · exact absurd hmem h2
      · exact absurd hmem h12

end

/-! What the issuing unit does in a step (R29, R30). -/

section

variable {s : State} {core unit : Nat}

theorem step_issues (ha : s.agenda = []) (hs : s.mysko.stopped = false) (hi : s.issuer.isSome = true) : step s = issueStep s := by
  unfold step
  rw [ha]
  dsimp only
  rw [hs, hi]
  rfl

theorem issueStep_instr {i : Instr} (h : issuerInstr s = some i) : issueStep s = exec i s := by
  unfold issueStep
  rw [h]

theorem issueStep_fetches {i : Instr} (h : issuerInstr s = none) (hf : issuerInstr (issuerFetch s) = some i) :
    issueStep s = exec i (issuerFetch s) := by
  unfold issueStep
  rw [h]
  dsimp only
  rw [hf]

theorem issueStep_nothing (h : issuerInstr s = none) (hf : issuerInstr (issuerFetch s) = none) : issueStep s = .next (issuerFetch s) := by
  unfold issueStep
  rw [h]
  dsimp only
  rw [hf]

theorem issuerInstr_noRun (h : s.issuer = some (core, unit)) (hr : findRun s core unit = none) : issuerInstr s = none := by
  unfold issuerInstr
  rw [h]
  dsimp only
  rw [hr]

theorem issuerInstr_slot {sl : Slot} {i : Instr} (h : currentSlot s = some sl) (hi : sl.run.slots[sl.run.idx]? = some (sl.pc, i)) :
    issuerInstr s = some i := by
  obtain ⟨hu, -, hr, -⟩ := currentSlot_some h
  unfold issuerInstr
  rw [hu]
  dsimp only
  rw [hr]
  dsimp only
  rw [hi]
  rfl

/-- A unit that has been given a run issues the slot that the run stands at. -/
theorem issuerInstr_newRun {u x : State} {run : Run} (hn : findRun u core unit = none) (hr : x.exec.runs = u.exec.runs ++ [run])
    (hi : x.issuer = some (core, unit)) (hc : run.core = core) (hu : run.unit = unit) :
    issuerInstr x = (run.slots[run.idx]?).map (·.2) := by
  have hfind : findRun x core unit = some run := by
    unfold findRun at hn ⊢
    rw [hr, List.find?_append, hn]
    simp only [List.find?_cons, hc, hu, BEq.rfl, Bool.and_self, Option.none_or]
  unfold issuerInstr
  rw [hi]
  dsimp only
  rw [hfind]

variable {gid e : Nat}

/-- A unit of a partition or a Ladle starts the run of the path that it has chosen, while it stands (R30). -/
theorem issuerFetch_starts (hi : s.issuer = some (core, unit)) (hr : findRun s core unit = none) (h5 : unit < 5)
    (hm : unitMayIssue s core unit = true) (hc : (schedOf s core unit).chosen = some (gid, e))
    (hst : chosenStands s core unit gid e = true) :
    issuerFetch s = startRun (updSched { s with issuer := none } core unit fun x => { x with chosen := none }) core unit gid e := by
  unfold issuerFetch
  rw [hi]
  dsimp only
  unfold fetchChosen
  rw [hr, hm, hc, if_neg (by decide)]
  dsimp only
  rw [if_pos h5, hst, if_pos rfl]
  rfl

variable {t u : State} {g : Group} {pr : Pair}

/-- The run that a unit starts for a path with nothing pending and a good entry is the run fetched at its PC (R30). -/
theorem startRun_trap {code marks : Nat} {addr : Dword} (hg : findGroup t gid = some g) (hp : findPair t g.pair = some pr)
    (hq : ∀ x ∈ g.pending, x.1 ≠ e) (hc : entryCause t g (g.path e) = none)
    (hf : fetchRun (updPath t gid e fun p => { p with entered := true }) g pr e (g.path e).pc = (u, .trap code marks addr)) :
    startRun t core unit gid e = raiseAt u gid e [⟨code, 0, (g.path e).pc, addr, (g.path e).exec, marks, 0, false⟩] := by
  have hany : (g.pending.any fun x => x.1 == e) = false := List.any_eq_false.mpr fun x hx => by simpa using hq x hx
  unfold startRun
  rw [hg]
  dsimp only
  rw [hp]
  dsimp only
  rw [hany, Bool.false_and, if_neg (by decide), hc]
  dsimp only
  rw [hf]

theorem issuerInstr_startRun {slots : List (Dword × Instr)} (hg : findGroup t gid = some g) (hp : findPair t g.pair = some pr)
    (hq : ∀ x ∈ g.pending, x.1 ≠ e) (hc : entryCause t g (g.path e) = none)
    (hf : fetchRun (updPath t gid e fun p => { p with entered := true }) g pr e (g.path e).pc = (u, .ok slots))
    (hr : findRun u core unit = none) :
    issuerInstr (startRun t core unit gid e) = (slots[0]?).map (·.2) := by
  have hany : (g.pending.any fun x => x.1 == e) = false := List.any_eq_false.mpr fun x hx => by simpa using hq x hx
  unfold startRun
  rw [hg]
  dsimp only
  rw [hp]
  dsimp only
  rw [hany, Bool.false_and, if_neg (by decide), hc]
  dsimp only
  rw [hf]
  dsimp only
  exact issuerInstr_newRun (run := ⟨core, unit, gid, e, _, slots, 0, _, _, _, _⟩) hr rfl rfl rfl rfl

end

/-- Settles O41: the agenda and the issuing unit by `step`'s own cases, a fetched run by what its checks find. -/
theorem stepRunsDecodedInstruction : Obligations.StepRunsDecodedInstruction := by
  unfold Obligations.StepRunsDecodedInstruction
  refine ⟨fun s i rest ha hc => ?_, fun s ha hs => ⟨fun sl i hsl hi => ?_, fun core unit hi hr => ⟨fun i hf => ?_, fun hf => ?_,
    fun gid e g pr h5 hm hch hst => ?_⟩⟩, fun s g pr entry head => ⟨fun e a hf => ?_, fun hf => ?_⟩,
    fun s g pr entry head u slots hf => ⟨?_, fun k r hk => ?_, fun v d hl hp => ?_⟩⟩
  · unfold step
    rw [ha]
    dsimp only
    refine if_neg ?_
    rcases hc with h | h <;> rw [h] <;> simp
  · obtain ⟨hu, -⟩ := currentSlot_some hsl
    exact (step_issues ha hs (by rw [hu]; rfl)).trans (issueStep_instr (issuerInstr_slot hsl hi))
  · exact (step_issues ha hs (by rw [hi]; rfl)).trans (issueStep_fetches (issuerInstr_noRun hi hr) hf)
  · exact (step_issues ha hs (by rw [hi]; rfl)).trans (issueStep_nothing (issuerInstr_noRun hi hr) hf)
  · intro t hg hp hq hc
    rw [issuerFetch_starts hi hr h5 hm hch hst]
    exact ⟨fun u slots hf hru => issuerInstr_startRun hg hp hq hc hf hru, fun u code marks addr hf => startRun_trap hg hp hq hc hf⟩
  · rw [fetchRun_result]
    dsimp only
    rw [hf]
    rfl
  · rw [fetchRun_result]
    dsimp only
    rw [hf, judge_gathered fun c hc => ?_]
    · simp only [wordCauses_contains, runLegal]
      rfl
    · obtain ⟨r, -, hr⟩ := List.mem_filterMap.mp hc
      exact classify_codes hr
  · obtain ⟨rfl, hd⟩ := fetchRun_ok hf
    exact (decodeSlots_places hd).1
  · obtain ⟨rfl, hd⟩ := fetchRun_ok hf
    obtain ⟨i, hi, hs⟩ := (decodeSlots_places hd).2 k r hk
    exact ⟨i, hi, hs, gatherRun_word (List.mem_of_getElem? hk)⟩
  · rw [gatherRun_parityOk hp]
    exact gather_head hl

end Sys2Proof.Machine

end

/-! ### An answered mapping request beside another operation of its number (R345) -/

section

namespace Sys2Proof.Machine

open Sys2Proof.Safety Sys2Proof.Tests

/-- A mapping request that another device has answered, behind an earlier one of its group, and an operation with the same number at an
address of a device to which the pair is down. -/
def twinRequests : State :=
  withOps [{ flying 0 .mapft 1 with id := 5 }, { flying 0 .mapft 1 with remote := 1 },
      { flying 1 .mapft 1 with addrs := List.replicate 64 (BitVec.ofNat 64 (2 ^ 53)) }]
    (State.reset.onFabric fun x => { x with links := [⟨1, 0, 0, 0, none, 0, [], 0, 0, true⟩] })

/-- The causes of the operations that a step leaves. -/
def causesLeft : Host.Outcome State Fault Refusal → List Nat
  | .next t => t.exec.ops.map (·.cause)
  | _ => []

/-- Refutes O23: a mapping request's answer sets every operation of its number to the status of that request, where the statement gives
each the status of its own address; on states that hold two operations of one number the two differ. -/
theorem not_accessEventsComplete : ¬ Obligations.AccessEventsComplete := by
  unfold Obligations.AccessEventsComplete
  intro h
  obtain ⟨-, -, -, hmap, -⟩ := h twinRequests 77 { flying 0 .mapft 1 with remote := 1 } rfl
  have hstated := congrArg causesLeft (hmap [] rfl (by decide) (by decide))
  have hgiven : causesLeft (exec (.loadDataReturn 77 []) twinRequests) = [0, 0, 0] := by decide +kernel
  rw [hgiven] at hstated
  exact absurd hstated (by decide +kernel)

end Sys2Proof.Machine

end

/-! ### Windows, copies, slices and Crucibles (R44, R67, R87 to R95, R118, R154 to R163, R300): completion -/

section

namespace Sys2Proof.Machine

open Sys2Proof.Safety

/-! Window accesses and the store unit (R44, R67). -/

section

variable {s : State} {core k : Nat} {w : WindowAccess}

theorem exec_ladleWindowAccess_free (hw : (windowWaits s core)[k]? = some w) (hb : w.blocked s = false) :
    exec (.ladleWindowAccess core k) s = .next (landWindow s w) := by
  show execLadleWindowAccess core k s = _
  unfold execLadleWindowAccess
  rw [hw]
  dsimp only
  rw [hb]
  rfl

theorem core_of_windowWaits (hw : (windowWaits s core)[k]? = some w) : w.core = core := by
  have hm := (List.mem_filter.mp (List.mem_of_getElem? hw)).2
  simpa using hm

/-- A window access that has waited four times takes its bank from the partition (R44). -/
theorem exec_bankTheft_waited (hw : (windowWaits s core)[k]? = some w) (h4 : 4 ≤ w.waited)
    (hb : bankUsed s core (w.part s) (w.queue % 4) = true) :
    exec (.bankTheft core k) s = .next (stealBank s w) := by
  have hcore := core_of_windowWaits hw
  show execBankTheft core k s = _
  unfold execBankTheft
  rw [hw]
  dsimp only
  unfold WindowAccess.blocked
  rw [hcore, hb, decide_eq_true h4]
  rfl

/-- The store unit pairs the front address of a store-data queue with its front data (R67, R280). -/
theorem exec_storeUnitStore_pairs {pair q : Nat} {p : Pair} {a : AddrEntry} {addrs : List AddrEntry} {e : Entry} {entries : List Entry}
    (hp : findPair s pair = some p) (ha : (p.queue q).addrs = a :: addrs) (he : (p.queue q).entries = e :: entries)
    (hk : (p.queue q).kind = 1) (hr : e.st = .ready) (hf : a.refused = 0) :
    exec (.storeUnitStore pair q) s = .next
      (let t := updOp (updQueue s pair q fun x => { x with addrs := addrs, entries := entries }) a.op fun o =>
        { o with data := e.vals, dst := .none }
       let u := match findOp t a.op with
        | some o => pendStore (sendRequests t o (o.todo &&& o.remote)) p.core o
        | none => t
       finishOp u a.op) := by
  show execStoreUnitStore pair q s = _
  unfold execStoreUnitStore
  rw [hp]
  dsimp only
  rw [ha, he]
  dsimp only
  rw [if_neg (by simp [hk, hr]), hf]
  exact congrArg Host.Outcome.next (if_pos rfl)

end

/-! The end of a copy (R118, R300). -/

theorem updOp_eq_self {s : State} {id : Nat} {f : Op → Op} (hf : ∀ o, f o = o) : updOp s id f = s := by
  have hmap : s.exec.ops.map (fun o => if o.id == id then f o else o) = s.exec.ops := by
    simp only [hf, ite_self, List.map_id']
  show { s with exec := { s.exec with ops := s.exec.ops.map fun o => if o.id == id then f o else o } } = s
  rw [hmap]

section

variable {s : State} {op : Nat} {o : Op} {d : CopyDesc} {g : Group} {own : PlaceSrc} {e : ScoreEntry}

theorem exec_copyComplete_rest {data : List Byte} {t : State} (h : findOp s op = some o) (hc : copyOf s o = some (d, g, own, e))
    (hk : o.remote = 0 ∨ d.kind = 2 ∨ (d.kind = 0 ∧ (o.bytesLeft d).filter (fun i => !o.byteBegun i) = []))
    (ht : copyRest s o d g own e = some t) : exec (.copyComplete op data) s = .next t := by
  have h0 : (o.remote != 0 && d.kind == 0 && !((o.bytesLeft d).filter fun i => !o.byteBegun i).isEmpty) = false := by
    rcases hk with hk | hk | ⟨-, hk⟩ <;> simp [hk]
  have h1 : (o.remote != 0 && d.kind == 1) = false := by
    rcases hk with hk | hk | ⟨hk, -⟩ <;> simp [hk]
  show execCopyComplete op data s = _
  unfold execCopyComplete
  rw [h, Option.bind_some, hc, Option.map_some]
  dsimp only
  rw [h0, h1, if_neg (by decide), if_neg (by decide), ht]
  rfl

/-- A copy with nothing left to read or to write, and nothing refused, writes its flag and ends (R118). -/
theorem copyRest_nothing (hid : findOp s o.id = some o) (hl : o.bytesLeft d = []) (hr : o.refusedBytes = [])
    (hf : flagFree s g own o d = true) :
    copyRest s o d g own e = some (finishOp (updOp (scoreLeave (examine (copyFlag (examine s) g own d)) o.id) o.id fun o =>
      { o with todo := 0, pieces := [], parts := [] }) o.id) := by
  unfold copyRest
  rw [hl, hf]
  simp only [List.filter_nil, List.filterMap_nil, List.isEmpty_nil, List.any_nil, Bool.not_true, Bool.false_and, Bool.or_self,
    Bool.false_eq_true, if_false]
  have hread : copyRead s g own o d [] = (s, [], [], none) := rfl
  rw [hread]
  have hwrite : copyWrite s g own o d [] = (s, [], none) := rfl
  dsimp only
  rw [hwrite]
  dsimp only
  rw [updOp_eq_self (f := fun o => { o with
      parts := (o.parts.filter fun p => !([] : List Nat).contains p.1) ++ ([] : List Nat).map fun i => (i, 1, 0) }),
    updOp_eq_self]
  · unfold copyEnd
    rw [show findOp (examine s) o.id = findOp s o.id from rfl, hid, Option.getD_some, hr]
    rfl
  · intro o
    show ({ o with pieces := o.pieces ++ ([] : List Nat) } : Op).refuseBytes d [] _ = o
    rw [List.append_nil]
    rfl
  · intro o
    simp only [List.contains_nil, Bool.not_false, List.filter_true, List.map_nil, List.append_nil]

/-- A remote COPY takes its payload (R118). -/
theorem exec_copyComplete_payload {data : List Byte} (h : findOp s op = some o) (hc : copyOf s o = some (d, g, own, e))
    (hr : o.remote ≠ 0) (hk : d.kind = 0) (hu : (o.bytesLeft d).filter (fun i => !o.byteBegun i) ≠ [])
    (hd : data.length = ((o.bytesLeft d).filter fun i => !o.byteBegun i).length) :
    exec (.copyComplete op data) s = .next (updOp s op fun o' =>
      { o' with parts := o'.parts ++ (((o.bytesLeft d).filter fun i => !o.byteBegun i).zip data).map fun x => (x.1, 0, x.2.toNat) }) := by
  show execCopyComplete op data s = _
  unfold execCopyComplete
  rw [h, Option.bind_some, hc, Option.map_some]
  dsimp only
  rw [if_pos (by simpa [hk, hu] using hr), hd, BEq.rfl]
  rfl

/-- A remote COPYO that has sent its payload is acknowledged and ends. -/
theorem exec_copyComplete_acknowledged {data : List Byte} (h : findOp s op = some o) (hc : copyOf s o = some (d, g, own, e))
    (hr : o.remote ≠ 0) (hk : d.kind = 1) (hu : (o.bytesLeft d).filter (fun i => !o.parts.contains (i, 2, 0)) = [])
    (hf : flagFree s g own o d = true) :
    exec (.copyComplete op data) s = .next (copyEnd (updOp s op fun o' =>
      { o' with pieces := o'.pieces ++ o.bytesLeft d, parts := o'.parts.filter fun p => p.2.1 == 1 }) o d g own) := by
  show execCopyComplete op data s = _
  unfold execCopyComplete
  rw [h, Option.bind_some, hc, Option.map_some]
  dsimp only
  rw [if_neg (by simp [hk]), if_pos (by simpa [hk] using hr), hu, hf]
  rfl

/-- A remote COPYO sends what it has read (R118). -/
theorem exec_copyComplete_sends {data : List Byte} (h : findOp s op = some o) (hc : copyOf s o = some (d, g, own, e))
    (hr : o.remote ≠ 0) (hk : d.kind = 1) (hu : (o.bytesLeft d).filter (fun i => !o.parts.contains (i, 2, 0)) ≠ [])
    (hs : scoreBehind s e = false)
    (hread : ∀ i ∈ (o.bytesLeft d).filter fun i => !o.byteBegun i, byteReadable s d g own e i = true)
    (hb : ∀ i ∈ (o.bytesLeft d).filter fun i => !o.parts.contains (i, 2, 0), copyBefore s g own o (d.target s g own i) = false) :
    let unsent := (o.bytesLeft d).filter fun i => !o.parts.contains (i, 2, 0)
    let r := copyRead s g own o d unsent
    exec (.copyComplete op data) s = .next (sendOut (updOp r.1 op fun o =>
      { o with parts := (o.parts.filter fun p => !unsent.contains p.1) ++ unsent.map fun i => (i, 2, 0) }) (vaOwner d.g) 16
      ([op, o.gid % 2 ^ 64, o.ctx] ++ r.2.1.flatMap fun x => [(d.globalAt x.1).toNat, x.2.toNat])) := by
  have hany1 : (((o.bytesLeft d).filter fun i => !o.byteBegun i).any fun i => !byteReadable s d g own e i) = false :=
    List.any_eq_false.mpr fun i hi => by simp [hread i hi]
  have hany2 : (((o.bytesLeft d).filter fun i => !o.parts.contains (i, 2, 0)).any
      fun i => copyBefore s g own o (d.target s g own i)) = false :=
    List.any_eq_false.mpr fun i hi => by simp [hb i hi]
  show execCopyComplete op data s = _
  unfold execCopyComplete
  rw [h, Option.bind_some, hc, Option.map_some]
  dsimp only
  rw [if_neg (by simp [hk]), if_pos (by simpa [hk] using hr), if_neg (by simpa using hu), hs, hany1, hany2, if_neg (by decide)]

end

/-- Settles O24: a window access by its bank, the store unit by its queue, a copy by where its bytes come from and go to. -/
theorem windowAndCopyEventsComplete : Obligations.WindowAndCopyEventsComplete := by
  unfold Obligations.WindowAndCopyEventsComplete
  intro s
  refine ⟨?_, ?_, ?_, ?_⟩
  · exact fun core k w hw hb => exec_ladleWindowAccess_free hw hb
  · intro core k w hw h4 part hb
    have hcore := core_of_windowWaits hw
    subst hcore
    exact exec_bankTheft_waited hw h4 hb
  · exact fun pair p q a addrs e entries hp ha he hk hr hf => exec_storeUnitStore_pairs hp ha he hk hr hf
  · intro op o d g own e data h hc
    have hid : o.id = op := by simpa using List.find?_some h
    refine ⟨fun t hk ht => exec_copyComplete_rest h hc hk ht, fun hr hl hb hf => ?_,
      fun hr hk hu hd => exec_copyComplete_payload h hc hr hk hu hd, fun hr hk =>
      ⟨fun hu hf => exec_copyComplete_acknowledged h hc hr hk hu hf,
        fun hu hs hread hb => exec_copyComplete_sends h hc hr hk hu hs hread hb⟩⟩
    subst hid
    exact exec_copyComplete_rest h hc (.inl hr) (copyRest_nothing h hl hb hf)

/-! Recalls, evictions, walks and scrubbing (R87, R92 to R95, R445). -/

section

variable {s : State} {c off : Nat}

/-- A walk runs where neither TLB hits: it fills the lines of its tables, and the page TLB where it finds an entry (R87, R89). -/
theorem exec_pageWalk_found {t : Trans} (hc : c < 16) (hr : rangeHit s c off = none) (ht : tlbHit s (homeSlice s c off) c off = none)
    (hw : pageWalk s c off = .ok t) :
    exec (.pageWalk c off) s = .next (tlbFill (walkLines s c off) (homeSlice s c off) c t) := by
  show execPageWalk c off s = _
  unfold execPageWalk translate translateAnew
  rw [hr, ht, hw, if_neg (by simpa using hc)]

theorem exec_pageWalk_missed {e : Miss} (hc : c < 16) (hr : rangeHit s c off = none) (ht : tlbHit s (homeSlice s c off) c off = none)
    (hw : pageWalk s c off = .error e) : exec (.pageWalk c off) s = .next (walkLines s c off) := by
  show execPageWalk c off s = _
  unfold execPageWalk translate translateAnew
  rw [hr, ht, hw, if_neg (by simpa using hc)]

end

/-- Settles O25: each event has its one condition, and a walk its two outcomes. -/
theorem sliceEventsComplete : Obligations.SliceEventsComplete := by
  unfold Obligations.SliceEventsComplete
  intro s
  refine ⟨fun core tag line h => ?_, fun tag line h => ?_, fun tag line h => ?_,
    fun c off hc hr ht => ⟨fun t hw => exec_pageWalk_found hc hr ht hw, fun e hw => exec_pageWalk_missed hc hr ht hw⟩,
    fun h => ⟨?_, ?_⟩⟩
  · exact (eventIf_next.mpr ⟨h, rfl⟩ : execL1Recall core tag line s = _)
  · exact (eventIf_next.mpr ⟨h, rfl⟩ : execDirectoryEviction tag line s = _)
  · exact (if_pos h : execL2Eviction tag line s = _)
  · exact (eventIf_next.mpr ⟨h, rfl⟩ : execL2Scrub s = _)
  · exact (eventIf_next.mpr ⟨h, rfl⟩ : execHbmScrub s = _)

/-! Crucible arrivals and the order table (R154 to R163). -/

section

variable {s t : State} {op k fmt i : Nat} {o : Op} {x : Contrib} {hi f32 ord : Bool} {cs : List Contrib} {r : Region}

/-- A contribution that reaches its slice and passes its checks is applied, or examined against its granule (R154, R160). -/
theorem exec_crucibleArrival_passes (hx : contribAt s op k = some (o, x)) (hk : o.kind = .crux fmt hi f32 ord cs)
    (hready : cruxReady s o x = true) (hl : lineHolder s o x.addr = none) (hc : cruxCheck s o.ctx fmt x = .ok (t, i, r))
    (hs : scaleOk r x = true) (ho : x.ordinal ≠ none → r.o ≠ 0) :
    exec (.crucibleArrival op k) s =
      .next (if x.ordinal = none then (cruxApply t op k r).1 else settleHeld (arriveAt t op k o.ctx i r x)) := by
  have hsent : x.st = .sent := by
    unfold cruxReady at hready
    simp only [Bool.and_eq_true, decide_eq_true_eq] at hready
    obtain ⟨⟨⟨⟨⟨hst, -⟩, -⟩, -⟩, -⟩, -⟩ := hready
    exact hst
  show execCrucibleArrival op k s = _
  unfold execCrucibleArrival
  rw [hx]
  dsimp only
  rw [hk]
  dsimp only
  rw [if_neg (by rw [hsent]; decide), hl, if_neg (by simp), hready, if_neg (by decide), hc]
  dsimp only
  rw [hs, if_neg (by decide)]
  cases hord : x.ordinal with
  | none => rfl
  | some n =>
    rw [if_neg (by simp), if_neg (ho (by simp [hord])), if_neg (by simp)]

end

section

variable {s : State} {c i g : Nat} {e : OrderEntry} {r : Region}

theorem findOrder_place (h : findOrder s c i g = some e) : e.ctx = c ∧ e.region = i ∧ e.granule = g := by
  have hp := List.find?_some h
  simpa [and_assoc] using hp

/-- The read of an entry's ordinal completes: its waiting contributions are examined (R161). -/
theorem exec_orderEntryLoad_read {t : State} {bs : List Byte} (h : findOrder s c i g = some e)
    (hr : (getCtx s c).regions.getD i none = some r) (hl : e.loading = true) (hb : loadBytes s c (r.o + 2 * g) 2 = .ok (t, bs)) :
    let t := homeRead t c ((r.o + 2 * g) / 128) sliceParty
    exec (.orderEntryLoad c i g) s = .next (settleHeld ((granuleWaiters s c i r g .loading).foldl
      (fun s x => examineOrdered s x.1 x.2.1 c i r)
      (stallBack (updOrder t c i g fun e => { e with loading := false, next := leValue bs, since := t.tick }) c i g (leValue bs)))) := by
  show execOrderEntryLoad c i g s = _
  unfold execOrderEntryLoad
  rw [h, hr]
  dsimp only
  rw [hl, if_neg (by decide), hb]

theorem exec_orderEntryLoad_unreadable {m : Miss} (h : findOrder s c i g = some e) (hr : (getCtx s c).regions.getD i none = some r)
    (hl : e.loading = true) (hb : loadBytes s c (r.o + 2 * g) 2 = .error m) :
    exec (.orderEntryLoad c i g) s = .next (settleHeld ((granuleWaiters s c i r g .loading).foldl
      (fun s x => cruxFinal s x.1 x.2.1 ⟨0x0E, 16⟩) (dropOrder s c i g))) := by
  show execOrderEntryLoad c i g s = _
  unfold execOrderEntryLoad
  rw [h, hr]
  dsimp only
  rw [hl, if_neg (by decide), hb]

/-- Whether an order entry is Idle, by what is parked and held for its granule (R161). -/
theorem orderEntry_idle (h : findOrder s c i g = some e) (hr : (getCtx s c).regions.getD i none = some r) (hl : e.loading = false)
    (free : Bool) : e.idle s free =
      ((granuleWaiters s c i r g .parked).isEmpty && (!free || (granuleWaiters s c i r g .held).isEmpty)) := by
  obtain ⟨rfl, rfl, rfl⟩ := findOrder_place h
  unfold OrderEntry.idle
  rw [hr, hl]
  rfl

/-- An Idle entry is written back and leaves; its stall goes on while contributions are held (R161, R162). -/
theorem exec_orderEntryEvict_idle (h : findOrder s c i g = some e) (hr : (getCtx s c).regions.getD i none = some r)
    (hl : e.loading = false) (hp : granuleWaiters s c i r g .parked = []) :
    exec (.orderEntryEvict c i g) s = .next (dropOrder (writeOrder (if granuleWaiters s c i r g .held = [] then s
      else s.onMemory fun m => { m with stalls := m.stalls ++ [e] }) e) c i g) := by
  have hidle := orderEntry_idle h hr hl
  show execOrderEntryEvict c i g s = _
  unfold execOrderEntryEvict
  rw [h]
  refine eventIf_next.mpr ⟨by rw [hidle, hp]; rfl, ?_⟩
  obtain ⟨rfl, rfl, rfl⟩ := findOrder_place h
  unfold evictOrder
  rw [hidle, hp]
  simp only [List.isEmpty_nil, Bool.true_and, Bool.not_true, Bool.false_or, List.isEmpty_iff]

/-- An entry whose granule has not advanced for 10 ms while contributions wait leaves its record (R162). -/
theorem exec_orderStall_waits (h : findOrder s c i g = some e) (hr : (getCtx s c).regions.getD i none = some r)
    (hl : e.loading = false) (hw : granuleWaiters s c i r g .parked ≠ [] ∨ granuleWaiters s c i r g .held ≠ [])
    (hst : e.stalled = false) (hd : drainable s c i r g = none) (ht : e.since + 10 ^ 7 ≤ s.tick) :
    exec (.orderStall c i g) s = .next (faultRecord (updOrder s c i g fun e => { e with stalled := true }) c
      { type := 0x07, d0 := i, d1 := g, d2 := e.next }) := by
  have hwaits : (!(granuleWaiters s c i r g .parked).isEmpty || !(granuleWaiters s c i r g .held).isEmpty) = true := by
    simpa [List.isEmpty_iff] using hw
  show execOrderStall c i g s = _
  unfold execOrderStall
  rw [h, hr]
  dsimp only
  rw [hl, hwaits, hst, hd, decide_eq_true ht]
  rfl

end

/-- Settles O26: an arrival that passes its checks, and an order entry by its state and what waits for it. -/
theorem crucibleEventsComplete : Obligations.CrucibleEventsComplete := by
  unfold Obligations.CrucibleEventsComplete
  intro s
  refine ⟨fun op k o x fmt hi f32 ord cs t i r hx hk hready hl hc hs => ⟨fun ho => ?_, fun ho hro => ?_⟩,
    fun c i g e r h hr => ⟨fun t bs hl hb => exec_orderEntryLoad_read h hr hl hb, fun t m hl hb ht => ?_,
      fun hl hp => exec_orderEntryEvict_idle h hr hl hp, fun hl hw hst hd ht => exec_orderStall_waits h hr hl hw hst hd ht⟩⟩
  · exact (exec_crucibleArrival_passes hx hk hready hl hc hs (fun hn => absurd ho hn)).trans (by rw [if_pos ho])
  · exact (exec_crucibleArrival_passes hx hk hready hl hc hs (fun _ => hro)).trans (by rw [if_neg ho])
  · subst ht
    exact exec_orderEntryLoad_unreadable h hr hl hb

end Sys2Proof.Machine

end

/-! ### Arbitration, releases and the Press's commands (R29 to R53, R119, R237, R294 to R307): completion -/

section

namespace Sys2Proof.Machine

open Sys2Proof.Safety

/-! Arbitration and run fetch (R29, R30, R42, R43). -/

section

variable {s : State} {core unit gid e : Nat}

theorem exec_pathArbitration_run (hu : unit ≤ 4) (hm : unitMayIssue s core unit = true) (hr : (findRun s core unit).isSome = true)
    (hl : claimLate s core unit = false) : exec (.pathArbitration core unit) s = .next { s with issuer := some (core, unit) } := by
  show execPathArbitration core unit s = _
  unfold execPathArbitration
  rw [if_neg (by simp [hm, hu]), if_neg (by simp [Option.isNone_eq_false_iff.mpr hr]), if_pos hr, hl]
  rfl

theorem exec_pathArbitration_standing (hu : unit ≤ 4) (hm : unitMayIssue s core unit = true) (hr : findRun s core unit = none)
    (hc : standingChoice s core unit = true) :
    exec (.pathArbitration core unit) s = .next { s with issuer := some (core, unit) } := by
  show execPathArbitration core unit s = _
  unfold execPathArbitration
  rw [if_neg (by simp [hm, hu]), if_pos (by simp [hr, hc])]

/-- A unit at a boundary takes the ready path of the least rank, and the others count that they were passed (R42). -/
theorem exec_pathArbitration_chosen {c : Group × Nat × Bool} {cs : List (Group × Nat × Bool)} (hu : unit ≤ 4)
    (hm : unitMayIssue s core unit = true) (hr : findRun s core unit = none) (hc : standingChoice s core unit = false)
    (hready : ((unitPaths s core unit).filter fun x => x.2.2) = c :: cs)
    (hp : ((unitPaths s core unit).any fun x => promotionDue (x.1.path x.2.1)) = false) :
    let best := cs.foldl (fun b x => if listLess (pathRank x.1 x.2.1) (pathRank b.1 b.2.1) then x else b) c
    let t := (unitPaths s core unit).foldl (fun s x =>
      updPath s x.1.gid x.2.1 fun p =>
        if x.1.gid == best.1.gid && x.2.1 == best.2.1 then { p with passed := 0, promoted := none }
        else if p.promoted.isSome then p
        else { p with passed := if x.2.2 then p.passed + 1 else 0 }) s
    exec (.pathArbitration core unit) s = .next
      { updSched t core unit (fun u => { u with chosen := some (best.1.gid, best.2.1) }) with issuer := some (core, unit) } := by
  intro best t
  show execPathArbitration core unit s = _
  unfold execPathArbitration
  rw [if_neg (by simp [hm, hu]), if_neg (by simp [hc]), if_neg (by simp [hr])]
  dsimp only
  rw [hp, hready, if_neg (by simp)]

theorem exec_pathPromotion_due {g : Group} (hg : findGroup s gid = some g) (hd : promotionDue (g.path e) = true) :
    let unit := if g.stream = .access then 4 else g.part
    let n := (schedOf s g.core unit).promotions
    exec (.pathPromotion gid e) s = .next (updSched (updPath s gid e fun p => { p with promoted := some n }) g.core unit
      fun u => { u with promotions := n + 1 }) := by
  intro unit n
  show execPathPromotion gid e s = _
  unfold execPathPromotion
  rw [hg]
  exact eventIf_next.mpr ⟨hd, rfl⟩

/-- The chosen path's run starts, or a choice that no longer stands is given up (R30). -/
theorem exec_runFetch_chosen (hr : findRun s core unit = none) (hm : unitMayIssue s core unit = true) (hu : unit < 5)
    (hc : (schedOf s core unit).chosen = some (gid, e)) :
    let t := updSched { s with issuer := none } core unit fun u => { u with chosen := none }
    exec (.runFetch core unit) s = .next (if chosenStands s core unit gid e then startRun t core unit gid e else t) := by
  intro t
  show event (fetchChosen s core unit) = _
  unfold fetchChosen
  rw [if_neg (by simp [hr, hm]), hc]
  dsimp only
  rw [if_pos hu]
  rfl

/-- A Press stream's chosen command starts where none of its core has issued in the cycle (R307). -/
theorem exec_runFetch_press {x : Nat × Nat} {p : PressCtx} (hr : findRun s core unit = none) (hm : unitMayIssue s core unit = true)
    (hu : 5 ≤ unit) (hc : (schedOf s core unit).chosen = some x) (hi : pressIssued s core = false) :
    let t := updSched { s with issuer := none } core unit fun u => { u with chosen := none }
    findPress t core (unit - 5) = some p → (p.st = .running ∨ p.st = .waiting) →
    exec (.runFetch core unit) s = .next (startPressRun t core (unit - 5)) := by
  intro t hp hst
  have hp' : findPress s core (unit - 5) = some p := hp
  show event (fetchChosen s core unit) = _
  unfold fetchChosen
  rw [if_neg (by simp [hr, hm]), hc]
  dsimp only
  rw [if_neg (by omega), hi, if_neg Bool.false_ne_true, hp']
  dsimp only
  rw [if_pos (by simpa using hst)]
  rfl

theorem exec_pressArbitration_can {c : PressCtx} {cs : List PressCtx}
    (hc : (s.exec.presses.filter fun p => p.core == core && pressCan s p) = c :: cs) (hi : pressIssued s core = false) :
    let best := cs.foldl (fun b p => if rankLess (pressRank s p) (pressRank s b) then p else b) c
    exec (.pressArbitration core) s = .next { (updSched s core (5 + best.num) fun u =>
      { u with chosen := if (findRun s core (5 + best.num)).isSome then none else some (best.cohort, best.num) }) with
        issuer := some (core, 5 + best.num) } := by
  intro best
  show execPressArbitration core s = _
  unfold execPressArbitration
  dsimp only
  rw [hc]
  exact eventIf_next.mpr ⟨by rw [hi]; rfl, rfl⟩

end

/-- Settles O27: a unit goes on within its run, keeps a choice that stands, or makes the choice of R42. -/
theorem arbitrationEventsComplete : Obligations.ArbitrationEventsComplete := by
  unfold Obligations.ArbitrationEventsComplete
  intro s
  refine ⟨?_, ?_, ?_, ?_, ?_, ?_, ?_⟩
  · exact fun _ _ => exec_pathArbitration_run
  · exact fun _ _ => exec_pathArbitration_standing
  · exact fun _ _ _ _ => exec_pathArbitration_chosen
  · exact fun _ _ _ => exec_pathPromotion_due
  · exact fun _ _ _ _ => exec_runFetch_chosen
  · exact fun _ _ _ _ => exec_runFetch_press
  · exact fun _ _ _ => exec_pressArbitration_can

/-! What releases a waiting head, a blocked pair and a stopped stream (R47, R53, R119, R237, R294 to R298). -/

section

variable {s : State} {gid entry : Nat} {g : Group}

theorem exec_watchMatch_matched (hg : findGroup (examine s) gid = some g) (hst : (g.path entry).st = .waiting)
    (hs : (g.path entry).stopped = false) (hw : (g.path entry).watch.isSome = true) (hm : (g.path entry).matched.isSome = true) :
    exec (.watchMatch gid entry) s = .next (updPath (examine s) gid entry fun p => { p with st := .ready }) := by
  show execWatchMatch gid entry s = _
  unfold execWatchMatch releaseIf
  rw [hg]
  exact eventIf_next.mpr ⟨by simp [hst, hs, hw, hm], rfl⟩

theorem exec_swaitDeadline_past {d : Nat} (hg : findGroup s gid = some g) (hst : (g.path entry).st = .waiting)
    (hs : (g.path entry).stopped = false) (hd : (g.path entry).deadline = some d) (ht : d ≤ s.tick) :
    exec (.swaitDeadline gid entry) s = .next (updPath s gid entry fun p => { p with st := .ready }) := by
  show execSwaitDeadline gid entry s = _
  unfold execSwaitDeadline releaseIf
  rw [hg]
  exact eventIf_next.mpr ⟨by simp [hst, hs, hd, ht], rfl⟩

/-! The polls of a waited signal, whose conditions the three outcomes share (R298). -/

section

variable {a v : Dword} {rel : Nat}

theorem exec_waitsigPoll_local {x : Dword} {f : Nat} {t : State} {bs : List Byte} (hg : findGroup s gid = some g)
    (hw : (g.path entry).watch = some (.signal a rel v)) (hm : (g.path entry).matched = none) (hs : (g.path entry).stopped = false)
    (hh : accessHeld s g (g.path entry) = false) (hv : veiledOutside s g.ctx a.toNat 8 = false) (ha : vaLocal s a = true)
    (hl : loadBytes s g.ctx (vaOffset a) 8 = .ok (t, bs)) :
    let y : Dword := BitVec.ofNat 64 (leValue bs)
    let u := homeRead t g.ctx (vaOffset a / 128) g.core
    exec (.waitsigPoll gid entry x f) s =
      .next (if sigRel rel y v then updPath u gid entry fun p => { p with matched := some y } else u) := by
  intro y u
  show execWaitsigPoll gid entry x f s = _
  unfold execWaitsigPoll
  rw [hg]
  dsimp only
  rw [hw, hm]
  dsimp only
  rw [hs, hh, hv, ha, hl]
  rfl

theorem exec_waitsigPoll_owner {x : Dword} (hg : findGroup s gid = some g)
    (hw : (g.path entry).watch = some (.signal a rel v)) (hm : (g.path entry).matched = none) (hs : (g.path entry).stopped = false)
    (hh : accessHeld s g (g.path entry) = false) (hv : veiledOutside s g.ctx a.toNat 8 = false) (ha : vaLocal s a = false)
    (hp : pairDown s (vaOwner a) = false) :
    exec (.waitsigPoll gid entry x 0) s =
      .next (if sigRel rel x v then updPath s gid entry fun p => { p with matched := some x } else s) := by
  show execWaitsigPoll gid entry x 0 s = _
  unfold execWaitsigPoll
  rw [hg]
  dsimp only
  rw [hw, hm]
  dsimp only
  rw [hs, hh, hv, ha, hp]
  rfl

/-- Over a pair that is down the poll returns ADDRFAULT at the waiting head (R447). -/
theorem exec_waitsigPoll_down {x : Dword} (hg : findGroup s gid = some g)
    (hw : (g.path entry).watch = some (.signal a rel v)) (hm : (g.path entry).matched = none) (hs : (g.path entry).stopped = false)
    (hh : accessHeld s g (g.path entry) = false) (hv : veiledOutside s g.ctx a.toNat 8 = false) (ha : vaLocal s a = false)
    (hp : pairDown s (vaOwner a) = true) :
    exec (.waitsigPoll gid entry x 0) s = .next (raiseReturned
      (updPath s gid entry fun p => { p with watch := none, matched := none }) gid entry
      ⟨0x08, 2, (g.path entry).pc, a, 0, 2 ^ 14, 0, false⟩) := by
  show execWaitsigPoll gid entry x 0 s = _
  unfold execWaitsigPoll
  rw [hg]
  dsimp only
  rw [hw, hm]
  dsimp only
  rw [hs, hh, hv, ha, hp]
  rfl

end

/-- An arrival is counted behind its group's earlier ones, and behind no later unit's of the same cycle (R296, R304). -/
theorem exec_hoopArrivalCount_due {op h co : Nat} {o : Op} (ho : findOp s op = some o) (hk : o.kind = .harrive h)
    (hco : ((findGroup s o.gid).bind fun g => (findPair s g.pair).bind (·.cohort)) = some co) (htodo : o.todo ≠ 0)
    (hfirst : ∀ x ∈ s.exec.ops.takeWhile (fun x => x.id != op), x.gid = o.gid → x.todo ≠ 0 → ∀ k, x.kind ≠ .harrive k)
    (hord : o.orderMet s = true) :
    let unit := match findGroup s o.gid with
      | some g => if g.stream = .access then 4 else g.part
      | none => 4
    (∀ c, findCohort s co = some c → (c.hoopLast.getD h (0, 0)).1 ≠ s.exec.cycle ∨ (c.hoopLast.getD h (0, 0)).2 ≤ unit) →
    exec (.hoopArrivalCount op) s = .next (finishOp (updOp (hoopArrive s co h unit).2 op fun o =>
      { o with todo := 0, done := 1, res := [BitVec.ofNat 64 (hoopArrive s co h unit).1] }) op) := by
  intro unit hlate
  show execHoopArrivalCount op s = _
  unfold execHoopArrivalCount
  rw [ho]
  dsimp only
  rw [hk, hco]
  dsimp only
  refine (if_neg ?_).trans rfl
  simp only [Bool.not_eq_true, Bool.or_eq_false_iff]
  refine ⟨⟨⟨by simpa using htodo, ?_⟩, ?_⟩, by rw [hord]; rfl⟩
  · simp only [List.any_eq_false, Bool.not_eq_true]
    intro y hy
    by_cases hgid : y.gid = o.gid
    · by_cases hyt : y.todo = 0
      · simp [hyt]
      · have hne := hfirst y hy hgid hyt
        cases hyk : y.kind with
        | harrive k => exact absurd hyk (hne k)
        | _ => simp
    · simp [hgid]
  · cases hc : findCohort s co with
    | none => rfl
    | some c =>
      have := hlate c hc
      simp only [Option.any_some, Bool.and_eq_false_iff, beq_eq_false_iff_ne, decide_eq_false_iff_not, Nat.not_lt]
      exact this

/-- Every blocked path of a pair that has stood idle for 4,096 cycles takes QDEAD at its head (R47). -/
theorem exec_qdead_idle {pair : Nat} {p : Pair} (hp : findPair s pair = some p) (hr : p.resident = true) (hi : 4096 ≤ p.idle) :
    let twins := s.exec.groups.filter fun g => g.pair == pair && !g.exited
    let found := twins.map fun g => (g, twinBlocked s g p)
    twins ≠ [] → (found.all fun x => x.2.isSome) = true →
    exec (.qdead pair) s = .next (found.foldl (fun s x => (x.2.getD []).foldl (fun s e =>
      raiseAt (updPath s x.1.gid e fun p => { p with st := .ready }) x.1.gid e
        [⟨0x06, 0, (x.1.path e).pc, 0, (x.1.path e).exec, 0, 0, false⟩]) s) s) := by
  intro twins found hne hall
  have hnone : (found.any fun x => x.2.isNone) = false := by
    simp only [List.all_eq_true, List.any_eq_false] at hall ⊢
    intro x hx
    simp [Option.isNone_eq_false_iff.mpr (hall x hx)]
  show execQdead pair s = _
  unfold execQdead
  rw [hp]
  refine if_neg ?_
  simp only [Bool.not_eq_true, Bool.or_eq_false_iff]
  exact ⟨⟨⟨by rw [hr]; rfl, by simpa using hi⟩, List.isEmpty_eq_false_iff.mpr hne⟩, hnone⟩

/-! The causes of a stopped Press stream (R53). -/

section

variable {core k : Nat} {p : PressCtx} {c : Cause} {co : Cohort}

theorem exec_pressCauseDelivery_orphan (hp : findPress s core k = some p) (hc : p.cause = some c)
    (hco : findCohort s p.cohort = some co) (hst : p.st = .stopped) (ht : p.taken = none) (htaker : pressTaker s co core = none) :
    exec (.pressCauseDelivery core k) s = .next (pressOrphan (faultRecord s co.ctx
      { type := 0x03, code := c.code, marks := c.marks, pc := c.pc, addr := c.addr, d0 := co.number }) core k) := by
  show execPressCauseDelivery core k s = _
  unfold execPressCauseDelivery
  rw [hp]
  dsimp only
  rw [hc, hco]
  dsimp only
  rw [if_neg (by simp [hst, ht]), htaker]

theorem exec_pressCauseDelivery_taken (hp : findPress s core k = some p) (hc : p.cause = some c)
    (hco : findCohort s p.cohort = some co) (hst : p.st = .stopped) (ht : p.taken = none) (htaker : pressTaker s co core = some g)
    (hg : g.pressCause = none) :
    let e := ((List.range 16).find? fun e => (g.path e).st != .free).getD 0
    let t := updGroup (updPress s core k fun p => { p with taken := some g.gid }) g.gid fun g =>
      { g with pending := g.pending ++ [(e, [c])], pressCause := some (core, k) }
    exec (.pressCauseDelivery core k) s = .next (if pathBusy t g.gid e || (g.path e).stopped then t else atBoundary t g.gid e) := by
  intro e t
  show execPressCauseDelivery core k s = _
  unfold execPressCauseDelivery
  rw [hp]
  dsimp only
  rw [hc, hco]
  dsimp only
  rw [if_neg (by simp [hst, ht]), htaker]
  dsimp only
  rw [if_neg (by simp [hg])]

end

end

/-- Settles O28: each release has its one condition, a poll and a stopped stream their outcomes. -/
theorem releaseEventsComplete : Obligations.ReleaseEventsComplete := by
  unfold Obligations.ReleaseEventsComplete
  intro s
  refine ⟨?_, ?_, ?_, ?_, ?_, ?_⟩
  · exact fun _ _ _ => exec_watchMatch_matched
  · exact fun _ _ _ _ => exec_swaitDeadline_past
  · intro gid entry g a rel v hg hw hm hs hh hv
    refine ⟨?_, ?_, ?_⟩
    · exact fun _ _ _ _ => exec_waitsigPoll_local hg hw hm hs hh hv
    · exact fun _ => exec_waitsigPoll_owner hg hw hm hs hh hv
    · exact fun _ => exec_waitsigPoll_down hg hw hm hs hh hv
  · exact fun _ _ _ _ => exec_hoopArrivalCount_due
  · exact fun _ _ => exec_qdead_idle
  · intro core k p c co hp hc hco hst ht
    refine ⟨?_, ?_⟩
    · exact exec_pressCauseDelivery_orphan hp hc hco hst ht
    · exact fun _ => exec_pressCauseDelivery_taken hp hc hco hst ht

/-! The Press's commands, the scoreboard and the budgets (R120, R307, R327, R328). -/

section

variable {s : State}

theorem exec_scoreboardGrant_due {core : Nat} {e : ScoreEntry}
    (he : (s.exec.score.find? fun e => e.core == core && !e.granted) = some e) (hn : grantedCount s core < 32) :
    exec (.scoreboardGrant core) s = .next (s.onExec fun x =>
      { x with score := x.score.map fun y => if y.id == e.id then { y with granted := true } else y }) := by
  show execScoreboardGrant core s = _
  unfold execScoreboardGrant
  rw [he]
  exact eventIf_next.mpr ⟨decide_eq_true hn, rfl⟩

theorem exec_budgetRefill_due (ht : s.tick % 1000 = 0) :
    exec .budgetRefill s = .next { s with cores := s.cores.map fun k => { k with budget := s.mysko.q } } :=
  eventIf_next.mpr ⟨beq_iff_eq.mpr ht, rfl⟩

end

/-- Settles O29: each of the three events has its one condition. -/
theorem pressEventsComplete : Obligations.PressEventsComplete := by
  unfold Obligations.PressEventsComplete
  intro s
  refine ⟨?_, ?_, ?_⟩
  · exact fun _ _ _ _ => exec_pressCommandFinish_of_unheld
  · exact fun _ _ => exec_scoreboardGrant_due
  · exact exec_budgetRefill_due

end Sys2Proof.Machine

end

/-! ### Leases (R167 to R173, R331, R332): completion -/

section

namespace Sys2Proof.Machine

open Sys2Proof.Safety

/-! The lanes that notices ask for (R170). -/

theorem insertServed_perm (v : Served) (vs : List Served) : (insertServed v vs).Perm (v :: vs) := by
  induction vs with
  | nil => exact .refl _
  | cons w ws ih =>
    unfold insertServed
    split
    · exact .refl _
    · exact (ih.cons w).trans (.swap v w ws)

theorem foldr_insertServed_perm (vs : List Served) : (vs.foldr insertServed []).Perm vs := by
  induction vs with
  | nil => exact .refl _
  | cons v vs ih => exact (insertServed_perm v _).trans (ih.cons v)

/-- Notices are put for the lanes needed, as far as the leases have any that are not in notice. -/
theorem sum_chooseNotices (need : Nat) (vs : List Served) :
    ((chooseNotices need vs).map (·.2)).sum = min need (vs.map fun v => v.lanes - v.noticed).sum := by
  induction vs generalizing need with
  | nil => simp [chooseNotices]
  | cons v vs ih =>
    unfold chooseNotices
    split
    · next h => simp [h]
    · simp only [List.map_cons, List.sum_cons, ih]
      omega

/-- Leases without a notice that hold enough lanes give exactly those needed. -/
theorem sum_chooseNotices_of_unnoticed {need : Nat} {vs : List Served} (hn : ∀ v ∈ vs, v.noticed = 0)
    (h : need ≤ (vs.map fun v => v.lanes).sum) : ((chooseNotices need vs).map (·.2)).sum = need := by
  have hlanes : (vs.map fun v => v.lanes - v.noticed) = vs.map fun v => v.lanes :=
    List.map_congr_left fun v hv => by rw [hn v hv, Nat.sub_zero]
  rw [sum_chooseNotices, hlanes, Nat.min_eq_left h]

/-! The receiver (R170, R171). -/

section

variable {s : State} {r : LeaseReq} {rest : List LeaseReq}

theorem exec_leaseRequestArrival_lanes {peer lanes term : Nat} {rev : Bool} {l : PeerLink} (hlanes : lanes ≠ 0)
    (hl : findLink s peer = some l) :
    let kept := if (s.fabric.reqs.head?.map (·.decided)).getD false then 1 else 0
    exec (.leaseRequestArrival peer lanes term rev) s = .next (s.onFabric fun x =>
      { x with reqs :=
          placeRequest (x.reqs.take kept) (x.reqs.drop kept) ⟨peer, lanes, term, rev, l.refusals == 3, s.exec.cycle, false⟩ }) := by
  intro kept
  show execLeaseRequestArrival peer lanes term rev s = _
  unfold execLeaseRequestArrival
  rw [if_neg hlanes, hl]

theorem exec_leaseDecision_granted (hr : s.fabric.reqs = r :: rest) (hn : s.fabric.notices = []) (hpool : r.lanes ≤ s.fabric.rxPool) :
    let v : Served := ⟨(fresh s).1, r.peer, r.lanes, 0, s.tick, s.tick + 1000 * r.term⟩
    exec .leaseDecision s = .next (leaseOut (updLink (renumber ((fresh s).2.onFabric fun x =>
      { x with reqs := rest, rxPool := x.rxPool - r.lanes, served := x.served ++ [v] }) r.peer false) r.peer fun l =>
        { l with refusals := 0 }) r.peer 2 [r.lanes]) := by
  intro v
  show execLeaseDecision s = _
  unfold execLeaseDecision
  rw [hr]
  dsimp only
  rw [if_neg (by simp [hn]), if_pos hpool]
  rfl

/-- A revoking request waits behind notices on the oldest leases, for exactly the lanes that it lacks (R170). -/
theorem exec_leaseDecision_noticed (hr : s.fabric.reqs = r :: rest) (hn : s.fabric.notices = []) :
    let others := (s.fabric.served.filter fun v => v.peer != r.peer && v.noticed == 0).foldr insertServed []
    let revocable := (others.map fun v => v.lanes).sum
    s.fabric.rxPool < r.lanes → r.revoking = true → r.lanes ≤ s.fabric.rxPool + revocable →
    let ns := chooseNotices (r.lanes - s.fabric.rxPool) others
    (ns.map (·.2)).sum = r.lanes - s.fabric.rxPool ∧
    exec .leaseDecision s = .next ((ns.foldl (fun s n =>
      leaseOut ((fresh s).2.onFabric fun x =>
        { x with notices := x.notices ++ [⟨(fresh s).1, n.1, n.2, s.tick + 20000⟩],
                 served := x.served.map fun v => if v.id == n.1 then { v with noticed := v.noticed + n.2 } else v })
        (((s.fabric.served.find? fun v => v.id == n.1).map (·.peer)).getD 0) 4 [n.2]) s).onFabric fun x =>
      { x with reqs := { r with decided := true } :: rest }) := by
  intro others revocable hpool hrev henough ns
  refine ⟨sum_chooseNotices_of_unnoticed ?_ (by omega), ?_⟩
  · intro v hv
    have hmem := (foldr_insertServed_perm _).mem_iff.mp hv
    simp only [List.mem_filter, Bool.and_eq_true, beq_iff_eq] at hmem
    exact hmem.2.2
  · show execLeaseDecision s = _
    unfold execLeaseDecision
    rw [hr]
    dsimp only
    rw [if_neg (by simp [hn]), if_neg (by omega), if_pos (by rw [hrev, decide_eq_true henough]; rfl)]
    rfl

theorem exec_leaseDecision_refused (hr : s.fabric.reqs = r :: rest) (hn : s.fabric.notices = []) :
    let others := (s.fabric.served.filter fun v => v.peer != r.peer && v.noticed == 0).foldr insertServed []
    let revocable := (others.map fun v => v.lanes).sum
    s.fabric.rxPool < r.lanes → (r.revoking = false ∨ s.fabric.rxPool + revocable < r.lanes) →
    exec .leaseDecision s = .next (leaseOut (updLink (s.onFabric fun x => { x with reqs := rest }) r.peer fun l =>
      { l with refusals := min 3 (l.refusals + 1) }) r.peer 3 []) := by
  intro others revocable hpool hno
  have hcond : (r.revoking && decide (r.lanes ≤ s.fabric.rxPool + revocable)) = false := by
    rcases hno with h | h
    · rw [h]; rfl
    · rw [decide_eq_false (by omega), Bool.and_false]
  show execLeaseDecision s = _
  unfold execLeaseDecision
  rw [hr]
  dsimp only
  rw [if_neg (by simp [hn]), if_neg (by omega), if_neg (by rw [hcond]; exact Bool.false_ne_true)]

end

/-! The requester (R171, R173). -/

section

variable {s : State} {c slot n : Nat} {l : Lease}

/-- A grant that no ticket waits for goes back (R171). -/
theorem exec_leaseGrant_stray {peer : Nat} {l : PeerLink} (hl : findLink s peer = some l) (hs : l.stray ≠ 0) :
    exec (.leaseGrant 16 peer false 0) s = .next (updLink s peer fun l => { l with stray := l.stray - 1 }) ∧
    exec (.leaseGrant 16 peer true 0) s = .next (leaseOut (updLink s peer fun l => { l with stray := l.stray - 1 }) peer 5 [0]) := by
  have hcond : (((findLink s peer).map (·.stray)).getD 0 != 0 && (0 : Nat) == 0) = true := by
    rw [hl]
    simpa using hs
  exact ⟨eventIf_next.mpr ⟨hcond, rfl⟩, eventIf_next.mpr ⟨hcond, rfl⟩⟩

theorem exec_leaseGrant_refused (hc : c ≠ 16) (hl : leaseAt s c slot = some l) (hp : l.st = .pending) :
    exec (.leaseGrant c slot false 0) s = .next (resolveCtl
      ((updLease s c slot fun l => { l with st := .refused, reason := 3, held := 0 }).onFabric fun x =>
        { x with txPool := x.txPool + l.held }) fun o => o.onTicket c l.ticket) := by
  show execLeaseGrant c slot false 0 s = _
  unfold execLeaseGrant
  rw [if_neg hc, hl]
  dsimp only
  rw [if_neg (not_not.mpr rfl), if_neg (not_not.mpr hp)]
  rfl

theorem exec_leaseGrant_granted (hc : c ≠ 16) (hl : leaseAt s c slot = some l) (hp : l.st = .pending) (hd : l.dropAsked = false) :
    exec (.leaseGrant c slot true 0) s = .next (resolveCtl (changeSets
      (updLease (fresh s).2 c slot fun l =>
        { l with st := .granted, until_ := s.tick + 1000 * l.term, since := (fresh s).1 }) l.peer l.held)
        fun o => o.onTicket c l.ticket) := by
  show execLeaseGrant c slot true 0 s = _
  unfold execLeaseGrant
  rw [if_neg hc, hl]
  dsimp only
  rw [if_neg (not_not.mpr rfl), if_neg (not_not.mpr hp), hd]
  rfl

theorem exec_leaseGrant_dropped (hc : c ≠ 16) (hl : leaseAt s c slot = some l) (hp : l.st = .pending) (hd : l.dropAsked = true) :
    exec (.leaseGrant c slot true 0) s = .next (resolveCtl
      (updLink (endLease (leaseOut s l.peer 5 [l.held]) c slot) l.peer fun x => { x with stray := x.stray - 1 })
        fun o => o.onTicket c l.ticket) := by
  show execLeaseGrant c slot true 0 s = _
  unfold execLeaseGrant
  rw [if_neg hc, hl]
  dsimp only
  rw [if_neg (not_not.mpr rfl), if_neg (not_not.mpr hp), hd]
  rfl

theorem exec_leaseGrant_noticed (hc : c ≠ 16) (hl : leaseAt s c slot = some l) (hg : l.st = .granted) (hn : n ≠ 0) (hle : n ≤ l.held)
    (h4 : n % 4 = 0) : exec (.leaseGrant c slot true n) s = .next (updLease s c slot fun l =>
      { l with st := .notice, noticed := n, noticeAt := s.tick + 20000 }) := by
  show execLeaseGrant c slot true n s = _
  unfold execLeaseGrant
  rw [if_neg hc, hl]
  dsimp only
  rw [if_pos hn]
  exact eventIf_next.mpr ⟨by simp [hg, hle, h4], rfl⟩

theorem exec_leaseTermExpiry_past (hc : c ≠ 16) (hl : leaseAt s c slot = some l) (hst : l.st = .granted ∨ l.st = .notice)
    (hu : l.until_ ≤ s.tick) : exec (.leaseTermExpiry c slot) s = .next (endLease s c slot) := by
  show execLeaseTermExpiry c slot s = _
  unfold execLeaseTermExpiry
  rw [if_neg hc, hl]
  exact eventIf_next.mpr ⟨by simpa [hu] using hst, rfl⟩

theorem exec_noticeEnd_ended (hc : c ≠ 16) (hl : leaseAt s c slot = some l) (hst : l.st = .notice) (ht : l.noticeAt ≤ s.tick)
    (hover : l.until_ ≤ s.tick ∨ l.held ≤ l.noticed) : exec (.noticeEnd c slot) s = .next (endLease s c slot) := by
  show execNoticeEnd c slot s = _
  unfold execNoticeEnd
  rw [if_neg hc, hl]
  dsimp only
  rw [if_neg (by simp [hst, ht]), if_pos hover]

theorem exec_noticeEnd_shrunk (hc : c ≠ 16) (hl : leaseAt s c slot = some l) (hst : l.st = .notice) (ht : l.noticeAt ≤ s.tick)
    (hu : s.tick < l.until_) (hh : l.noticed < l.held) :
    exec (.noticeEnd c slot) s = .next (changeSets (updLease
      (s.onFabric fun x => { x with txPool := x.txPool + l.noticed }) c slot fun l =>
        { l with st := .granted, held := l.held - l.noticed, noticed := 0 }) l.peer (-(l.noticed : Int))) := by
  show execNoticeEnd c slot s = _
  unfold execNoticeEnd
  rw [if_neg hc, hl]
  dsimp only
  rw [if_neg (by simp [hst, ht]), if_neg (by omega)]

/-- A pair's lane sets change once none of its relaxed flits awaits acknowledgement, and the flits held back go out (R167, R173). -/
theorem exec_laneSetChange_due {peer k : Nat} {l : PeerLink} (hl : findLink s peer = some l) (hp : l.pendingSets = some k)
    (hu : l.unacked = 0) :
    let n := ((setGroups s peer true).map (·.2)).sum
    let t := renumber (updLink s peer fun l => { l with sets := n, pendingSets := none, held := [] }) peer true
    let u := l.held.foldl (fun s x => flitsOn (assayAdd s x.1 44 x.2.2) peer (relaxedHash x.2.1 % max 1 n) x.2.2 true) t
    exec (.laneSetChange peer) s = .next (resolveCtl u fun o => match o.kind with
        | .drop k p => p == peer && !((findLease u o.ctx k).any Lease.live)
        | _ => false) := by
  intro n t u
  show execLaneSetChange peer s = _
  unfold execLaneSetChange
  rw [hl]
  dsimp only
  rw [hp]
  exact if_neg (not_not.mpr hu)

theorem exec_peerLeavesDomain_formed {peer : Nat} (hf : s.fabric.formed = true) (hl : (findLink s peer).isSome = true) :
    exec (.peerLeavesDomain peer) s = .next (dropPeerLeases s peer) :=
  eventIf_next.mpr ⟨by rw [hf, hl]; rfl, rfl⟩

end

/-- Settles O30: the decision has its three cases, the answer to a request its outcomes, and the notices put ask for the lanes lacked. -/
theorem leaseEventsComplete : Obligations.LeaseEventsComplete := by
  unfold Obligations.LeaseEventsComplete
  intro s
  refine ⟨?_, ?_, ?_, ?_, ?_, ?_, ?_, ?_, ?_⟩
  · exact fun _ _ _ _ _ => exec_leaseRequestArrival_lanes
  · intro r rest hr hn
    exact ⟨exec_leaseDecision_granted hr hn, exec_leaseDecision_noticed hr hn, exec_leaseDecision_refused hr hn⟩
  · exact fun _ _ => exec_leaseGrant_stray
  · intro c slot l hc hl hp
    exact ⟨exec_leaseGrant_refused hc hl hp, exec_leaseGrant_granted hc hl hp, exec_leaseGrant_dropped hc hl hp⟩
  · exact fun _ _ _ _ => exec_leaseGrant_noticed
  · exact fun _ _ _ => exec_leaseTermExpiry_past
  · intro c k l hc hl hst ht
    exact ⟨exec_noticeEnd_ended hc hl hst ht, exec_noticeEnd_shrunk hc hl hst ht⟩
  · exact fun _ _ _ => exec_laneSetChange_due
  · exact fun _ => exec_peerLeavesDomain_formed

end Sys2Proof.Machine

end

/-! ### Other devices' work, flits and keys, reduce windows (R125, R166, R174 to R189, R345, R408, R426 to R429): completion -/

section

namespace Sys2Proof.Machine

open Sys2Proof.Safety

theorem findOp_id {s : State} {op : Nat} {o : Op} (h : findOp s op = some o) : o.id = op := by
  simpa using List.find?_some h

/-! Requests from another device and the home agent (R125, R177, R178, R408). -/

section

variable {s : State}

/-- A request of a peer's own decrement of a signal is put on its way at once (R408). -/
theorem exec_remoteRequest_devdec {peer n source : Nat} {r : RemoteReq} {l : PeerLink} {info : Dword} (hf : s.fabric.formed = true)
    (hl : findLink s peer = some l) (hd : l.down = false) (hc : r.ctx < 16) (hch : r.channel < 16) (hlanes : r.lanes ≠ 0)
    (hk : r.kind = .devdec n source info) (ha : vaLocal s (r.addr.get 0) = true) :
    exec (.remoteRequest peer r) s = .next (deviceDecs s r n source info) := by
  show execRemoteRequest peer r s = _
  unfold execRemoteRequest
  dsimp only
  rw [hf, hl, if_neg (by simpa [hd, hc, hch] using hlanes), hk]
  exact eventIf_next.mpr ⟨ha, rfl⟩

/-- Where none of its group's accesses stands refused, a request is taken up behind those of its ordered channel (R125). -/
theorem exec_remoteRequest_taken {peer : Nat} {r : RemoteReq} {l : PeerLink} (hf : s.fabric.formed = true)
    (hl : findLink s peer = some l) (hd : l.down = false) (hc : r.ctx < 16) (hch : r.channel < 16) (hlanes : r.lanes ≠ 0)
    (hk : ∀ n source info, r.kind ≠ .devdec n source info)
    (hfault : ∀ o ∈ s.exec.ops, o.gid = remoteGid peer r.group → o.told = true → o.faulted = 0) :
    let mine := s.exec.ops.filter fun o => o.gid == remoteGid peer r.group && o.pend != 0
    let n := remoteOp r peer s.exec.seq ((mine.filter fun o => r.channel != 0 && o.channel == r.channel).map (·.id))
      ((mine.filter fun o => o.kind.direct).map (·.id))
    exec (.remoteRequest peer r) s = .next (refuseUnknown (addOp (fresh s).2 n) n) := by
  intro mine n
  have hnone : ∀ o ∈ s.exec.ops, (o.gid == remoteGid peer r.group && o.told && o.faulted != 0) = false := by
    intro o ho
    by_cases hgid : o.gid = remoteGid peer r.group
    · cases ht : o.told with
      | true => simp [hfault o ho hgid ht]
      | false => simp
    · simp [hgid]
  have hreplayed : (s.exec.ops.find? fun o => (o.gid == remoteGid peer r.group && o.told && o.faulted != 0) && o.replayedBy r) = none :=
    List.find?_eq_none.mpr fun o ho => by rw [hnone o ho, Bool.false_and]; exact Bool.false_ne_true
  have hbehind : (s.exec.ops.any fun o =>
      (o.gid == remoteGid peer r.group && o.told && o.faulted != 0) && o.channel == r.channel) = false :=
    List.any_eq_false.mpr fun o ho => by rw [hnone o ho, Bool.false_and]; exact Bool.false_ne_true
  show execRemoteRequest peer r s = _
  unfold execRemoteRequest
  dsimp only
  rw [hf, hl, if_neg (by simpa [hd, hc, hch] using hlanes)]
  split
  · next n source info h => exact absurd h (hk n source info)
  · rw [hreplayed, hbehind, Bool.and_false]
    rfl

end

section

variable {s : State} {op k : Nat} {o : Op}

/-- A ready operation of the home agent that no faulted access holds does its next step, and its device hears of its end (R126, R178). -/
theorem exec_homeAgentOp_step (ho : findOp s op = some o) (hk : o.kind = .nmop k) (hr : agentReady s o k = true)
    (hl : ((o.agentNext s k).findSome? fun x => lineHolder s o (BitVec.ofNat 64 x.2.1)) = none) :
    exec (.homeAgentOp op) s = .next (answerRemote (finishOp (agentStep s o k) op) op) := by
  show execHomeAgentOp op s = _
  unfold execHomeAgentOp
  rw [ho]
  dsimp only
  rw [hk]
  dsimp only
  rw [hl]
  exact eventIf_next.mpr ⟨hr, rfl⟩

theorem agentStep_hop {t : State} {q : Nat} (ho : findOp s op = some o) (hc : o.chasing s = true)
    (h : agentRead s (o.party s) o.ctx (o.chaseLink o.chased.2) = .ok (t, q)) :
    agentStep s o 4 = updOp t op fun x => { x with parts := [(1, o.chased.1 + 1, q)] } := by
  unfold agentStep
  dsimp only
  rw [if_pos ⟨rfl, hc⟩, h, findOp_id ho]

theorem agentStep_run {t : State} {ws : List Nat} (ho : findOp s op = some o) (hk : k ≠ 4 ∨ o.chasing s = false)
    (h : agentRun s o k = .ok (t, ws)) :
    agentStep s o k = updOp t op fun o =>
      { o with todo := 0, done := 1, parts := [], res := Lanes.build fun i => BitVec.ofNat 64 (ws.getD i 0) } := by
  unfold agentStep
  dsimp only
  rw [if_neg (fun hboth => hk.elim (· hboth.1) fun hc => Bool.false_ne_true (hc.symm.trans hboth.2)), h, findOp_id ho]

end

/-! RGET on both sides, mapping requests and fabric fences (R175, R188, R189, R346, R428). -/

section

variable {s : State} {op piece : Nat} {o : Op}

theorem exec_rgetServe_served {remote c n : Nat} {a : Dword} {requester : BitVec 192} {t : State} {bs : List Byte}
    (hp : s.mysko.phase = .full) (hc : c < 16) (ha : a.toNat % 4 = 0) (hn4 : n % 4 = 0) (hn : n ≠ 0) (hle : n ≤ 4096)
    (hst : (getCtx s c).st ≠ .absent) (hs : servesPeer s c requester remote = true) (hr : rgetRead s c a n = .ok (t, bs)) :
    exec (.rgetServe remote c a n requester) s =
      .next (rgetAnswer (assayAdd t c 46 n) requester (0 :: bs.map (·.toNat))) := by
  show execRgetServe remote c a n requester s = _
  unfold execRgetServe
  rw [if_neg (by simp [hp, hc, ha, hn4, hn, hle]), if_neg (by simp [hst, hs]), hr]

theorem exec_rgetPieceLanding_due {data : List Byte} {q off n mode d : Nat} {g : Group} {p : Pair} (ho : findOp s op = some o)
    (hk : o.kind = .rgetSpad q off n mode) (hg : findGroup s o.gid = some g) (hp : findPair s g.pair = some p)
    (hpiece : (rgetPieces 18 (o.addrs.get 0).toNat 0 n)[piece]? = some (d, data.length)) (htodo : o.todo.getLsbD piece = true)
    (hafter : o.after.all (opPerformed s) = true) (hb : rgetBefore s o mode (off + d) data.length = false) :
    exec (.rgetPieceLanding op piece data) s = .next (finishOp (updOp
      (assayAdd (examine (spadPut s g.core p.owner mode (off + d) data)) o.ctx 47 data.length) op fun o =>
        { o with todo := o.todo &&& ~~~BitVec.ofNat 64 (2 ^ piece), pieces := o.pieces ++ [piece] }) op) := by
  show execRgetPieceLanding op piece data s = _
  unfold execRgetPieceLanding
  rw [ho]
  dsimp only
  rw [hk, hg]
  dsimp only [Option.bind]
  rw [hp]
  dsimp only [Option.map]
  rw [hpiece]
  exact if_neg (by simp [htodo, hafter, hb])

theorem exec_transportFailure_due (ho : findOp s op = some o)
    (hk : (∃ q, o.kind = .rgetQueue q) ∨ ∃ q off n mode, o.kind = .rgetSpad q off n mode) (hpiece : piece < 64)
    (htodo : o.todo.getLsbD piece = true) (hd : o.dormant = false) (hafter : o.after.all (opPerformed s) = true) :
    exec (.transportFailure op piece) s = .next (updOp s op fun o =>
      { o with todo := o.todo &&& ~~~BitVec.ofNat 64 (2 ^ piece), faulted := o.faulted ||| BitVec.ofNat 64 (2 ^ piece),
               cause := if o.faulted == 0 then 8 else o.cause, marks := o.marks ||| 2 ^ 7 }) := by
  show execTransportFailure op piece s = _
  unfold execTransportFailure
  rw [ho]
  dsimp only
  rcases hk with ⟨q, hk⟩ | ⟨q, off, n, mode, hk⟩
  · rw [hk]
    exact if_neg (by simp [hpiece, htodo, hd, hafter])
  · rw [hk]
    exact if_neg (by simp [hpiece, htodo, hd, hafter])

/-- What no byte written alters, no write alters. -/
theorem physWrite_keeps {β : Type} {p : State → β} (hp : ∀ s a b, p (physWriteByte s a b) = p s) (s : State) (a : Nat)
    (bs : List Byte) : p (physWrite s a bs) = p s := by
  induction bs generalizing s a with
  | nil => rfl
  | cons b bs ih => exact (ih _ _).trans (hp s a b)

@[simp] theorem physWrite_fabric (s : State) (a : Nat) (bs : List Byte) : (physWrite s a bs).fabric = s.fabric :=
  physWrite_keeps (p := State.fabric) physWriteByte_fabric s a bs

/-- What every step of a fold keeps, the fold keeps. -/
theorem foldl_keeps {α β : Type} {f : State → α → State} {p : State → β} (hf : ∀ s a, p (f s a) = p s) (s : State) (xs : List α) :
    p (xs.foldl f s) = p s := by
  induction xs generalizing s with
  | nil => rfl
  | cons x xs ih => exact (ih _).trans (hf s x)

@[simp] theorem mapEntries_fabric (s : State) (a p frame size : Nat) : (mapEntries s a p frame size).fabric = s.fabric :=
  foldl_keeps (p := State.fabric) (fun _ _ => physWrite_fabric _ _ _) _ _

/-- A mapping request writes memory only: it leaves the fabric's state. -/
@[simp] theorem mapRun_fabric (s : State) (c off : Nat) : (mapRun s c off).1.fabric = s.fabric := by
  unfold mapRun
  extract_lets
  split
  extract_lets
  split
  · rfl
  split
  · rfl
  split
  · rfl
  split
  · exact physWrite_fabric _ _ _
  · exact (mapEntries_fabric _ _ _ _ _).trans ((physWrite_fabric _ _ _).trans (physWrite_fabric _ _ _))

theorem exec_mapftExecute_own (ho : findOp s op = some o) (hk : o.kind = .mapft) (htodo : o.todo ≠ 0) (hrem : o.remote = 0)
    (hfrom : o.from_ = s.fabric.index) :
    let r := mapRun s o.ctx (vaOffset (o.addrs.get 0))
    exec (.mapftExecute op) s = .next (settleMapft (updOp r.1 op fun o => { o with todo := 0, cause := r.2 }) o.gid) := by
  intro r
  show execMapftExecute op s = _
  unfold execMapftExecute
  rw [ho]
  dsimp only
  rw [if_neg (by simpa [hk, hrem] using htodo), mapRun_fabric, if_pos hfrom]

theorem exec_mapftExecute_told (ho : findOp s op = some o) (hk : o.kind = .mapft) (htodo : o.todo ≠ 0) (hrem : o.remote = 0)
    (hfrom : o.from_ ≠ s.fabric.index) :
    let r := mapRun s o.ctx (vaOffset (o.addrs.get 0))
    exec (.mapftExecute op) s = .next (dropOp (sendOut (linkSend r.1 o.ctx o.from_ o.line 16 2) o.from_ 6
      [o.gid % 2 ^ 64, o.channel, 1, r.2]) op) := by
  intro r
  show execMapftExecute op s = _
  unfold execMapftExecute
  rw [ho]
  dsimp only
  rw [if_neg (by simpa [hk, hrem] using htodo), mapRun_fabric, if_neg hfrom]

theorem exec_xfenceComplete_due {a : Option Nat} {b : Bool} {after : List Nat} (ho : findOp s op = some o) (hk : o.kind = .xfence a b after)
    (htodo : o.todo ≠ 0) (hafter : after.all (opPerformed s) = true) :
    exec (.xfenceComplete op) s = .next (settleCtl (updOp s op fun o => { o with todo := 0 }) o.gid) := by
  show execXfenceComplete op s = _
  unfold execXfenceComplete
  rw [ho]
  dsimp only
  rw [hk]
  exact eventIf_next.mpr ⟨by simpa [hafter] using htodo, rfl⟩

end

/-- Settles O31: each event has its one condition, and a mapping request its answer to this device or to another. -/
theorem remoteWorkEventsComplete : Obligations.RemoteWorkEventsComplete := by
  unfold Obligations.RemoteWorkEventsComplete
  intro s
  refine ⟨?_, ?_, ?_, ?_, ?_, ?_, ?_⟩
  · intro peer r l hf hl hd hc hch hlanes
    refine ⟨?_, ?_⟩
    · exact fun _ _ _ => exec_remoteRequest_devdec hf hl hd hc hch hlanes
    · exact exec_remoteRequest_taken hf hl hd hc hch hlanes
  · intro op o k ho hk hr hl
    have hstep := exec_homeAgentOp_step ho hk hr hl
    refine ⟨?_, ?_⟩
    · rintro t q rfl hc h
      rw [hstep, agentStep_hop ho hc h]
    · intro t ws hno h
      rw [hstep, agentStep_run ho hno h]
  · exact fun _ _ _ _ _ _ _ => exec_rgetServe_served
  · exact fun _ _ _ _ _ _ _ _ _ _ _ => exec_rgetPieceLanding_due
  · exact fun _ _ _ => exec_transportFailure_due
  · intro op o ho hk htodo hrem
    exact ⟨exec_mapftExecute_own ho hk htodo hrem, exec_mapftExecute_told ho hk htodo hrem⟩
  · exact fun _ _ _ _ _ => exec_xfenceComplete_due

/-! Flits and key generations (R166, R426, R427). -/

@[simp] theorem length_leBytes (n v : Nat) : (leBytes n v).length = n := by
  induction n generalizing v with
  | zero => rfl
  | succ n ih => simp [leBytes, ih]

/-- A flit has 80 bytes (R166). -/
theorem length_flitBytes (peer set kind gen seq : Nat) {payload : List Byte} (h : payload.length ≤ 64) :
    (flitBytes peer set kind gen seq payload).length = 80 := by
  simp only [flitBytes, List.length_append, List.length_take, List.length_replicate, length_leBytes]
  omega

/-- A flit begins with its payload (R427). -/
theorem take_flitBytes (peer set kind gen seq : Nat) {payload : List Byte} (h : payload.length ≤ 64) :
    (flitBytes peer set kind gen seq payload).take payload.length = payload := by
  simp only [flitBytes, List.take_of_length_le h, List.append_assoc, List.take_left']

section

variable {s : State} {peer set seq ctx : Nat} {l : LaneSet}

theorem exec_flitReceive_good (hl : findSet s peer false set = some l) (h18 : ctx ≠ 18) (h19 : ctx ≠ 19) (h20 : ctx ≠ 20)
    (ha : l.accepts (fullGen l.rxGen (seq / 2 ^ 64)) s.tick = true) (hseq : seq % 2 ^ 24 = l.rxSeq % 2 ^ 24) :
    exec (.flitReceive peer set seq true ctx) s = .next (flitGood s peer (fullGen l.rxGen (seq / 2 ^ 64)) ctx l) := by
  have hside : (true && (ctx == 18 || ctx == 20)) = false := by simp [h18, h20]
  show execFlitReceive peer set seq true ctx s = _
  unfold execFlitReceive
  rw [hside, hl]
  dsimp only
  rw [if_neg (by decide), if_neg h18, if_neg h19, if_neg h20, if_pos (by rw [ha, hseq, beq_self_eq_true]; rfl)]

theorem exec_flitReceive_probe (hl : findSet s peer false set = some l) :
    exec (.flitReceive peer set seq true 19) s = .next (sendOut s peer 19 [set, s.fabric.index]) := by
  show execFlitReceive peer set seq true 19 s = _
  unfold execFlitReceive
  rw [show (true && ((19 : Nat) == 18 || (19 : Nat) == 20)) = false from rfl, hl]
  rfl

theorem exec_flitReceive_bad (hl : findSet s peer false set = some l) :
    exec (.flitReceive peer set seq false ctx) s = .next (flitBad s peer l) := by
  show execFlitReceive peer set seq false ctx s = _
  unfold execFlitReceive
  rw [Bool.false_and, hl]
  rfl

theorem exec_flitReceive_acknowledged (hl : findSet s peer true set = some l) :
    exec (.flitReceive peer set seq true 18) s = .next (flitsAcked s peer set seq) := by
  show execFlitReceive peer set seq true 18 s = _
  unfold execFlitReceive
  rw [show (true && ((18 : Nat) == 18 || (18 : Nat) == 20)) = true from rfl, hl]
  rfl

theorem exec_flitReceive_replay (hl : findSet s peer true set = some l) :
    exec (.flitReceive peer set seq true 20) s = .next (replayFlits s peer set) := by
  show execFlitReceive peer set seq true 20 s = _
  unfold execFlitReceive
  rw [show (true && ((20 : Nat) == 18 || (20 : Nat) == 20)) = true from rfl, hl]
  rfl

theorem exec_keySwitchAnnounce_due (hl : findSet s peer true set = some l) (hw : l.switchAt = none)
    (hdue : 2 ^ 32 ≤ l.sent ∨ l.genSince + 10 ^ 9 ≤ s.tick) :
    exec (.keySwitchAnnounce peer set) s = .next (announceKey s peer set l.gen) := by
  show execKeySwitchAnnounce peer set s = _
  unfold execKeySwitchAnnounce
  rw [hl]
  exact eventIf_next.mpr ⟨by simpa [hw] using hdue, rfl⟩

theorem exec_keySwitch_due {t : Nat} (hl : findSet s peer true set = some l) (hw : l.switchAt = some t) (ht : t ≤ s.tick)
    (hlate : s.tick ≤ t + 16000) (hu : l.unacked = 0) :
    exec (.keySwitch peer set) s = .next (updSet s peer true set fun l =>
      { l with gen := l.gen + 1, sent := 0, genSince := s.tick, switchAt := none }) := by
  show execKeySwitch peer set s = _
  unfold execKeySwitch
  rw [hl]
  dsimp only
  rw [hw]
  exact eventIf_next.mpr ⟨by simp [ht, hlate, hu], rfl⟩

theorem exec_keySwitchRetry_due {t : Nat} (hl : findSet s peer true set = some l) (hw : l.switchAt = some t)
    (hlate : t + 16000 < s.tick) : exec (.keySwitchRetry peer set) s = .next (announceKey s peer set l.gen) := by
  show execKeySwitchRetry peer set s = _
  unfold execKeySwitchRetry
  rw [hl]
  dsimp only
  rw [hw]
  exact eventIf_next.mpr ⟨by simp [hlate, hlate.le], rfl⟩

theorem exec_oldGenerationExpiry_due {t : Nat} (hl : findSet s peer false set = some l) (hw : l.rxNewAt = some t)
    (ht : t + 64000 ≤ s.tick) :
    exec (.oldGenerationExpiry peer set) s = .next (updSet s peer false set fun l =>
      { l with rxGen := l.rxGen + 1, rxAnnounced := false, rxNewAt := none }) := by
  show execOldGenerationExpiry peer set s = _
  unfold execOldGenerationExpiry
  rw [hl]
  dsimp only
  rw [hw]
  exact eventIf_next.mpr ⟨decide_eq_true ht, rfl⟩

end

/-! Reduce windows (R181, R182). -/

section

variable {s : State} {c w m chunk d : Nat} {x : Window}

theorem exec_mrContribution_accepted {data : List Byte} {t : State} (hw : homeWindow s c w = some x) (hm : x.members[m]? = some d)
    (hx : 128 * chunk + 128 ≤ x.len) (hd : d ≠ s.fabric.index) (hdata : data.length = 128)
    (ha : mrAccept s c w x m chunk data = some t) :
    exec (.mrContribution c w m chunk data) s = .next (sendOut (linkSend t c d 0 0 1) d 14 [c, w, chunk]) := by
  show execMrContribution c w m chunk data s = _
  unfold execMrContribution
  rw [hw]
  dsimp only
  rw [hm]
  dsimp only
  rw [if_neg (by omega), if_neg hd, if_neg (by omega), if_neg (not_not.mpr hdata), ha]

theorem exec_mrContribution_own {o : Op} {q j : Nat} (hw : homeWindow s c w = some x) (hm : x.members[m]? = some d)
    (hx : 128 * chunk + 128 ≤ x.len) (hd : d = s.fabric.index) (hs : mrSource s c w chunk = some (o, q, j)) :
    exec (.mrContribution c w m chunk []) s = .next (mrOwn s o w x m q j) := by
  show execMrContribution c w m chunk [] s = _
  unfold execMrContribution
  rw [hw]
  dsimp only
  rw [hm]
  dsimp only
  rw [if_neg (by omega), if_pos hd, hs]
  rfl

theorem exec_mrDelivery_stored {gen : Nat} {data : List Byte} {t : State} (hw : windowOf s c w = some x)
    (hh : x.home ≠ s.fabric.index) (hdata : data.length = 128) (hx : 128 * chunk + 128 ≤ x.len)
    (hs : mrStore s c w x chunk data = some t) : exec (.mrDelivery c w gen chunk data) s = .next t := by
  show execMrDelivery c w gen chunk data s = _
  unfold execMrDelivery
  rw [hw]
  dsimp only
  rw [if_neg (by simp only [hdata]; omega), hs]

end

section

variable {s : State} {op w q j t : Nat} {o : Op} {back : List (Nat × Nat)}

theorem exec_mrResend_remote (ho : findOp s op = some o) (hk : o.kind = .stmr w q back) (htodo : o.todo ≠ 0) (hd : o.dormant = false)
    (hb : back.find? (fun y => y.2 ≤ s.tick) = some (j, t)) (hrem : o.remote ≠ 0) (hw : homeWindow s o.ctx w = none) :
    exec (.mrResend op) s = .next (sendRequests (updOp s op fun o =>
      { o with kind := .stmr w q (back.filter fun y => y.1 != j) }) o (o.todo &&& BitVec.ofNat 64 (2 ^ j))) := by
  show execMrResend op s = _
  unfold execMrResend
  rw [ho]
  dsimp only
  rw [hk]
  dsimp only
  rw [if_neg (by simpa [hd] using htodo), hw, hb]
  exact eventIf_next.mpr ⟨by simpa using hrem, rfl⟩

theorem exec_mrResend_own {x : Window} {m : Nat} (ho : findOp s op = some o) (hk : o.kind = .stmr w q back) (htodo : o.todo ≠ 0)
    (hd : o.dormant = false) (hb : back.find? (fun y => y.2 ≤ s.tick) = some (j, t)) (hw : homeWindow s o.ctx w = some x)
    (hm : (List.range x.members.length).find? (fun k => x.members.getD k 0 == s.fabric.index) = some m) :
    exec (.mrResend op) s = .next (mrOwn s o w x m q j) := by
  show execMrResend op s = _
  unfold execMrResend
  rw [ho]
  dsimp only
  rw [hk]
  dsimp only
  rw [if_neg (by simpa [hd] using htodo), hw, hb]
  dsimp only
  rw [hm]

end

/-! The device's own decrements of signals (R408). -/

section

variable {s : State} {k : Nat} {d : SigDec}

theorem exec_signalDecrement_local {u : State} (hk : s.exec.sigdecs[k]? = some d) :
    let t := s.onExec fun e => { e with sigdecs := e.sigdecs.filter fun x => x.id != d.id }
    vaOk t d.ctx d.addr = true → vaLocal t d.addr = true → signalLower t d.ctx d.addr d.n = .ok u →
    exec (.signalDecrement k) s = .next (launchesOver (touchLine u d.ctx (vaOffset d.addr / 128) hostParty)) := by
  intro t hok hloc hlow
  show execSignalDecrement k s = _
  unfold execSignalDecrement
  rw [hk]
  dsimp only
  rw [hok, hloc, hlow]
  rfl

theorem exec_signalDecrement_sent (hk : s.exec.sigdecs[k]? = some d) :
    let t := s.onExec fun e => { e with sigdecs := e.sigdecs.filter fun x => x.id != d.id }
    vaOk t d.ctx d.addr = true → vaLocal t d.addr = false →
    exec (.signalDecrement k) s = .next (launchesOver (sendOut (linkSend t d.ctx (vaOwner d.addr) (vaOffset d.addr / 128) 0 1)
      (vaOwner d.addr) 13 [d.ctx, d.addr.toNat, d.n, d.source, d.info.toNat])) := by
  intro t hok hloc
  show execSignalDecrement k s = _
  unfold execSignalDecrement
  rw [hk]
  dsimp only
  rw [hok, hloc]
  rfl

end

/-- Settles O32: the bytes of a flit, the kinds of a received one, the times of a key switch, and the reduce windows' accesses. -/
theorem linkEventsComplete : Obligations.LinkEventsComplete := by
  unfold Obligations.LinkEventsComplete
  intro s
  refine ⟨?_, ?_, ?_, ?_, ?_, ?_, ?_, ?_⟩
  · intro peer set seq ctx l hl
    refine ⟨?_, ?_, ?_⟩
    · exact exec_flitReceive_good hl
    · exact exec_flitReceive_probe hl
    · exact exec_flitReceive_bad hl
  · intro peer set kind gen seq payload h
    exact ⟨length_flitBytes peer set kind gen seq h, take_flitBytes peer set kind gen seq h⟩
  · intro peer set l hl
    refine ⟨?_, ?_, ?_, ?_⟩
    · exact fun _ => ⟨exec_flitReceive_acknowledged hl, exec_flitReceive_replay hl⟩
    · exact exec_keySwitchAnnounce_due hl
    · exact fun _ => exec_keySwitch_due hl
    · exact fun _ => exec_keySwitchRetry_due hl
  · exact fun _ _ _ _ => exec_oldGenerationExpiry_due
  · intro c w m chunk x d hw hm hx
    refine ⟨?_, ?_⟩
    · exact fun _ _ => exec_mrContribution_accepted hw hm hx
    · exact fun _ _ _ => exec_mrContribution_own hw hm hx
  · intro op o w q back j t ho hk htodo hd hb
    refine ⟨?_, ?_⟩
    · exact exec_mrResend_remote ho hk htodo hd hb
    · exact fun _ _ => exec_mrResend_own ho hk htodo hd hb
  · exact fun _ _ _ _ _ _ _ => exec_mrDelivery_stored
  · intro k d hk
    refine ⟨?_, ?_⟩
    · exact fun _ => exec_signalDecrement_local hk
    · exact exec_signalDecrement_sent hk

end Sys2Proof.Machine

end

/-! ### Host accesses, packets and dependences (R85, R348, R395 to R405, R422, R424): completion -/

section

namespace Sys2Proof.Machine

open Sys2Proof.Safety

/-! The BARs of host accesses (R395, R422; log entry 101). -/

theorem barOf_window {x : Nat} (h : x < 2 ^ 36) : barOf x = some (2, x) := by
  unfold barOf
  rw [if_pos h]

theorem barOf_registers {off : Nat} (h : off < 2 ^ 20) : barOf (2 ^ 36 + off) = some (0, off) := by
  unfold barOf
  rw [if_neg (by omega), if_pos (by omega), Nat.add_sub_cancel_left]

theorem barOf_mailbox {off : Nat} (h : off < 2 ^ 16) : barOf (2 ^ 37 + off) = some (4, off) := by
  unfold barOf
  rw [if_neg (by omega), if_neg (by omega), if_pos (by omega), Nat.add_sub_cancel_left]

section

variable {s : State} {x n bar off : Nat}

theorem exec_hostWindowRead_unserved (hn : hostSpan x n = true) (hb : barOf x = some (bar, off)) (hs : barServed s bar = false) :
    exec (.hostWindowRead x n) s = .next (replyHost s .unsupported) := by
  show execHostWindowRead x n s = _
  unfold execHostWindowRead
  rw [if_pos hn, hb]
  dsimp only
  rw [hs]
  rfl

theorem exec_hostWindowWrite_unserved {v : Nat} (hn : hostSpan x n = true) (hb : barOf x = some (bar, off))
    (hs : barServed s bar = false) : exec (.hostWindowWrite x n v) s = .next s := by
  show execHostWindowWrite x n v s = _
  unfold execHostWindowWrite
  rw [if_pos hn, hb]
  dsimp only
  rw [hs]
  rfl

/-! The mailbox and the event word (R424). -/

theorem exec_hostWindowRead_mailbox (hp : s.mysko.phase ≠ .boot) (ho : off < 2 ^ 16) (hn : hostSpan (2 ^ 37 + off) n = true) :
    exec (.hostWindowRead (2 ^ 37 + off) n) s = .next (replyHost s (.data ((List.range n).map fun i => mailByte s (off + i)))) := by
  have hs : barServed s 4 = true := by simpa [barServed] using hp
  show execHostWindowRead (2 ^ 37 + off) n s = _
  unfold execHostWindowRead
  rw [if_pos hn, barOf_mailbox ho]
  dsimp only
  rw [hs]
  rfl

theorem exec_hostWindowWrite_mailbox {v : Nat} (hp : s.mysko.phase ≠ .boot) (ho : off < 2 ^ 16)
    (hn : hostSpan (2 ^ 37 + off) n = true) :
    exec (.hostWindowWrite (2 ^ 37 + off) n v) s = .next (mailWrite s off (leBytes n v)) := by
  have hs : barServed s 4 = true := by simpa [barServed] using hp
  show execHostWindowWrite (2 ^ 37 + off) n v s = _
  unfold execHostWindowWrite
  rw [if_pos hn, barOf_mailbox ho]
  dsimp only
  rw [hs]
  rfl

theorem exec_eventWordClear_served {v : Dword} (hp : s.mysko.phase ≠ .boot) :
    exec (.eventWordClear v) s = .next (clearEvents s v) :=
  congrArg Host.Outcome.next (if_neg hp)

/-! The registers (R396, R399). -/

section

variable (hb : barUp s = true)
include hb

theorem exec_hostWindowRead_registers (ho : off < 2 ^ 20) (hn : hostSpan (2 ^ 36 + off) n = true) :
    exec (.hostWindowRead (2 ^ 36 + off) n) s = .next (replyHost s (bar0Read s off n)) := by
  have hs : barServed s 0 = true := hb
  show execHostWindowRead (2 ^ 36 + off) n s = _
  unfold execHostWindowRead
  rw [if_pos hn, barOf_registers ho]
  dsimp only
  rw [hs]
  rfl

theorem exec_hostWindowWrite_registers {v : Nat} (ho : off < 2 ^ 20) (hn : hostSpan (2 ^ 36 + off) n = true) :
    exec (.hostWindowWrite (2 ^ 36 + off) n v) s = .next (bar0Write s off (leBytes n v)) := by
  have hs : barServed s 0 = true := hb
  show execHostWindowWrite (2 ^ 36 + off) n v s = _
  unfold execHostWindowWrite
  rw [if_pos hn, barOf_registers ho]
  dsimp only
  rw [hs]
  rfl

theorem exec_qbase_disabled {q : Nat} {v : Dword} (hq : q < 64) (he : (getQueue s q).enable = false) :
    exec (.qbase q v) s = .next (updHwQueue s q fun x => { x with base := v }) := by
  show hostWrite s q (writeQbase s q v) = _
  rw [hostWrite_next hq hb]
  unfold writeQbase
  rw [he]
  rfl

theorem exec_queueEnable_served {q : Nat} (hq : q < 64) :
    exec (.queueEnable q) s = .next (writeQctl s q (2 ^ 63 + qctlWord (getQueue s q) % 2 ^ 63)) := hostWrite_next hq hb

theorem exec_queueDisable_served {q : Nat} (hq : q < 64) :
    exec (.queueDisable q) s = .next (writeQctl s q (qctlWord (getQueue s q) % 2 ^ 63)) := hostWrite_next hq hb

theorem exec_qctlConfig_served {q : Nat} {v : Dword} (hq : q < 64) :
    exec (.qctlConfig q v) s = .next (writeQctl s q v.toNat) := hostWrite_next hq hb

theorem exec_qerr_served {q : Nat} {v : Dword} (hq : q < 64) :
    exec (.qerr q v) s = .next (updHwQueue s q fun x => { x with err := x.err - (x.err &&& v.toNat) }) := hostWrite_next hq hb

/-- A doorbell in range moves the write index (R399). -/
theorem exec_doorbell_inRange {q : Nat} {w : Word} (hq : q < 64) (hf : (getQueue s q).feed = false)
    (hrd : (w - (getQueue s q).rd).toNat ≤ 2 ^ (getQueue s q).size) (hwr : (w - (getQueue s q).wr).toNat < 2 ^ 31) :
    exec (.doorbell q w) s = .next (updHwQueue s q fun x => { x with wr := w }) := by
  show hostWrite s q (writeDoorbell s q w) = _
  rw [hostWrite_next hq hb]
  unfold writeDoorbell
  dsimp only
  rw [hf, if_neg Bool.false_ne_true, if_neg (by omega)]

theorem exec_registerWrite_served {v : Dword} : exec (.registerWrite off v) s = .next (writeRegister s off v) :=
  congrArg Host.Outcome.next (if_pos hb)

theorem exec_registerWrite_segmentBase {k : Nat} {v : Dword} (hk : k < 64) : exec (.registerWrite (0x3000 + 16 * k) v) s =
    .next (s.onHost fun h => { h with segments := h.segments.modify k fun x => { x with base := v } }) := by
  rw [exec_registerWrite_served hb]
  unfold writeRegister
  rw [if_pos (by omega), show (0x3000 + 16 * k - 0x3000) / 16 = k by omega]
  dsimp only
  simp only [if_pos (show (0x3000 + 16 * k) % 16 = 0 by omega)]

theorem exec_registerWrite_segmentControl {k : Nat} {v : Dword} (hk : k < 64) : exec (.registerWrite (0x3008 + 16 * k) v) s =
    .next (s.onHost fun h =>
      { h with segments := h.segments.modify k fun x => { x with enable := v.getLsbD 63, ctx := (v.extractLsb' 8 4).toNat } }) := by
  rw [exec_registerWrite_served hb]
  unfold writeRegister
  rw [if_pos (by omega), show (0x3008 + 16 * k - 0x3000) / 16 = k by omega]
  dsimp only
  simp only [if_neg (show (0x3008 + 16 * k) % 16 ≠ 0 by omega)]

theorem exec_registerWrite_msix {k : Nat} {v : Dword} (hk : k < 4096) :
    exec (.registerWrite (0x8000 + 8 * k) v) s = .next (writeMsix s k v) := by
  rw [exec_registerWrite_served hb]
  unfold writeRegister
  rw [if_neg (by omega), if_pos (by omega), show (0x8000 + 8 * k - 0x8000) / 8 = k by omega]

/-! The memory window (R397). -/

theorem exec_hostWindowRead_aborted (hx : x < 2 ^ 36) (hn : hostSpan x n = true) (ht : windowTarget s x = none) :
    exec (.hostWindowRead x n) s = .next (replyHost s .completerAbort) := by
  have hs : barServed s 2 = true := hb
  show execHostWindowRead x n s = _
  unfold execHostWindowRead
  rw [if_pos hn, barOf_window hx]
  dsimp only
  rw [hs, if_neg (by decide), if_neg (by decide), if_neg (by decide), ht]

theorem exec_hostWindowRead_memory {c : Nat} {a : Dword} {t : State} {bs : List Byte} (hx : x < 2 ^ 36) (hn : hostSpan x n = true)
    (ht : windowTarget s x = some (c, a)) (hv : veiledOutside s c a.toNat n = false)
    (hl : loadBytes s c (vaOffset a) n = .ok (t, bs)) :
    exec (.hostWindowRead x n) s =
      .next (replyHost ((linesOf (vaOffset a) n).foldl (fun s l => homeRead s c l hostParty) t) (.data bs)) := by
  have hs : barServed s 2 = true := hb
  show execHostWindowRead x n s = _
  unfold execHostWindowRead
  rw [if_pos hn, barOf_window hx]
  dsimp only
  rw [hs, if_neg (by decide), if_neg (by decide), if_neg (by decide), ht]
  dsimp only
  rw [hv, if_neg Bool.false_ne_true, hl]

theorem exec_hostWindowWrite_memory {c v : Nat} {a : Dword} {t : State} (hx : x < 2 ^ 36) (hn : hostSpan x n = true)
    (ht : windowTarget s x = some (c, a))
    (hst : storeBytes (snoop s c (vaOffset a) n none) c (vaOffset a) (leBytes n v) = .ok t) :
    exec (.hostWindowWrite x n v) s = .next ((linesOf (vaOffset a) n).foldl (fun s l => touchLine s c l hostParty) t) := by
  have hs : barServed s 2 = true := hb
  show execHostWindowWrite x n v s = _
  unfold execHostWindowWrite
  dsimp only
  rw [if_pos hn, barOf_window hx]
  dsimp only
  rw [hs, if_neg (by decide), if_neg (by decide), if_neg (by decide), ht]
  dsimp only
  rw [hst]

end

end

/-- Settles O33: each BAR has its accesses, each register its write, and the window its memory. -/
theorem hostAccessEventsComplete : Obligations.HostAccessEventsComplete := by
  unfold Obligations.HostAccessEventsComplete
  intro s
  refine ⟨?_, ?_, ?_, ?_⟩
  · intro x n bar off hn hb hs
    exact ⟨exec_hostWindowRead_unserved hn hb hs, fun _ => exec_hostWindowWrite_unserved hn hb hs⟩
  · intro hp off n ho hn
    exact ⟨exec_hostWindowRead_mailbox hp ho hn, fun _ => exec_hostWindowWrite_mailbox hp ho hn⟩
  · exact fun _ => exec_eventWordClear_served
  · intro hb
    refine ⟨?_, ?_, ?_, ?_, ?_, ?_⟩
    · intro off n ho hn
      exact ⟨exec_hostWindowRead_registers hb ho hn, fun _ => exec_hostWindowWrite_registers hb ho hn⟩
    · intro q hq
      refine ⟨?_, ?_, ?_, ?_, ?_, ?_⟩
      · exact fun _ => exec_qbase_disabled hb hq
      · exact exec_queueEnable_served hb hq
      · exact exec_queueDisable_served hb hq
      · exact fun _ => exec_qctlConfig_served hb hq
      · exact fun _ => exec_qerr_served hb hq
      · exact fun _ => exec_doorbell_inRange hb hq
    · exact fun _ _ => exec_registerWrite_segmentBase hb
    · exact fun _ _ => exec_registerWrite_segmentControl hb
    · exact fun _ _ => exec_registerWrite_msix hb
    · intro x n hx hn
      refine ⟨?_, ?_⟩
      · exact exec_hostWindowRead_aborted hb hx hn
      · intro c a ht
        refine ⟨?_, ?_⟩
        · exact fun _ _ => exec_hostWindowRead_memory hb hx hn ht
        · exact fun _ _ => exec_hostWindowWrite_memory hb hx hn ht

/-! Packets, dependences and starvation (R85, R348, R399 to R405). -/

section

variable {s : State}

/-- A packet that passes its checks becomes its queue's launch, with status 1, and its context's cores drop their instruction lines (R85,
R402). -/
theorem exec_packetRead_accepted {q : Nat} {t u : State} {p : List Byte} {l : Launch} (hq : q < 64) (hb : barUp s = true) :
    let x := getQueue s q
    x.enable = true → x.rd ≠ x.wr → x.current = none → (getCtx s x.ctx).st ≠ .absent → (getCtx s x.ctx).st ≠ .ending →
    readLocal s x.ctx (packetAt x x.rd) 128 = some (t, p) → acceptPacket t q x.ctx x.rd.toNat p = .ok (u, l) →
    exec (.packetRead q) s = .next (updHwQueue (writeStatus
      ((u.onExec fun e => { e with launches := e.launches ++ [l] }).onMemory fun m =>
        { m with icache := m.icache.filter fun y => y.ctx != x.ctx || (getCore u y.core).owner != some x.ctx })
      x.ctx (packetAt x x.rd) 1) q fun x => { x with rd := x.rd + 1, current := some l.id }) := by
  dsimp only
  intro he hrd hc ha hen hr hacc
  show execPacketRead q s = _
  unfold execPacketRead
  dsimp only
  rw [if_neg (by simpa [hq, hb, he, hc, ha, hen] using hrd), hr]
  dsimp only
  rw [hacc]
  rfl

theorem exec_launchPacketRead_enqueued {op q : Nat} {o : Op} {t u : State} {p : List Byte} (ho : findOp s op = some o)
    (hk : o.kind = .launch q) (htodo : o.todo ≠ 0) (hord : o.orderMet s = true) (hq : q < 64) :
    let x := getQueue s q
    x.feed = true → x.ctx = o.ctx → (x.wr - x.rd).toNat < 2 ^ x.size →
    readLocal s o.ctx (o.addrs.get 0) 128 = some (t, p) → homeStore t o.ctx (vaOffset (packetAt x x.wr)) p hostParty = .ok u →
    exec (.launchPacketRead op) s = .next (finishOp (updOp (updHwQueue u q fun x => { x with wr := x.wr + 1 }) op fun o =>
      { o with todo := 0 }) op) := by
  dsimp only
  intro hf hc hroom hr hst
  show execLaunchPacketRead op s = _
  unfold execLaunchPacketRead
  rw [ho]
  dsimp only
  rw [hk]
  dsimp only
  rw [if_neg (by simpa [hord] using htodo), if_neg (by simp [hq, hf, hc]), if_neg (by omega), hr]
  dsimp only
  rw [hst]

@[simp] theorem recallOwned_tick (s : State) (tag line : Nat) (keep : Option Nat) : (recallOwned s tag line keep).tick = s.tick :=
  foldl_keeps (p := State.tick) (fun s l => by split <;> rfl) _ _

@[simp] theorem homeRead_tick (s : State) (c line party : Nat) : (homeRead s c line party).tick = s.tick :=
  (recallOwned_tick _ _ _ _).trans (recallOwned_tick _ _ _ _)

@[simp] theorem depReads_tick (s : State) (l : Launch) : (depReads s l).tick = s.tick :=
  foldl_keeps (p := State.tick) (fun _ _ => homeRead_tick _ _ _ _) _ _

section

variable {id : Nat} {l : Launch} (hl : findLaunch s id = some l) (hc : (getQueue s l.queue).current = some id) (hm : l.met = none)
  (hd : l.deps.all (depHolds s l.ctx) = true)
include hl hc hm hd

theorem exec_dependenceMet_launch (hb : l.barrier = false) :
    exec (.dependenceMet id) s = .next (updLaunch (depReads s l) id fun l => { l with met := some s.tick }) := by
  show execDependenceMet id s = _
  unfold execDependenceMet
  rw [hl]
  dsimp only
  rw [if_neg (by simp [hc, hm, hd]), hb, if_neg Bool.false_ne_true, depReads_tick]

theorem exec_dependenceMet_barrier (hb : l.barrier = true) :
    exec (.dependenceMet id) s = .next (updHwQueue
      ((if l.completion = 0 then depReads s l else sendDec (depReads s l) l.ctx l.completion 1 (l.queue + l.index % 2 ^ 32 * 2 ^ 32)).onExec
        fun e => { e with launches := e.launches.filter fun x => x.id != id }) l.queue fun x => { x with current := none }) := by
  show execDependenceMet id s = _
  unfold execDependenceMet
  rw [hl]
  dsimp only
  rw [if_neg (by simp [hc, hm, hd]), hb, if_pos rfl]

end

theorem exec_priorityStarvation_due {q t : Nat} {l : Launch} (hl : headLaunch s q = some l) (hs : l.starved = false)
    (hm : l.met = some t) (ht : t + 10 ^ 6 ≤ s.tick) :
    exec (.priorityStarvation q) s = .next (updLaunch s l.id fun l => { l with starved := true }) := by
  show execPriorityStarvation q s = _
  unfold execPriorityStarvation
  rw [hl]
  dsimp only
  rw [hm]
  exact eventIf_next.mpr ⟨by simp only [hs, Bool.not_false, Bool.true_and]; exact decide_eq_true ht, rfl⟩

end

/-- Settles O34: a packet accepted or enqueued, the dependences of a launch or of a barrier packet met, and a head starved. -/
theorem launchEventsComplete : Obligations.LaunchEventsComplete := by
  unfold Obligations.LaunchEventsComplete
  intro s
  refine ⟨?_, ?_, ?_, ?_⟩
  · exact fun _ _ _ _ _ => exec_packetRead_accepted
  · exact fun _ _ _ _ _ _ => exec_launchPacketRead_enqueued
  · intro id l hl hc hm hd
    exact ⟨exec_dependenceMet_launch hl hc hm hd, exec_dependenceMet_barrier hl hc hm hd⟩
  · exact fun _ _ _ => exec_priorityStarvation_due

end Sys2Proof.Machine

end

/-! ### Mysko's commands on contexts (R410 to R412, R432, R440): completion -/

section

namespace Sys2Proof.Machine

open Sys2Proof.Safety

/-! The mailbox (R424): what Mysko's answer writes, and what it leaves. -/

section

variable {s : State} {slot k : Nat} {ws : List (Nat × Dword)}

/-- A word of a slot reads back what was written there. -/
theorem mailWord_setMail_same {w : Nat × Dword} (h : ws.find? (fun w => w.1 == k) = some w) :
    mailWord (setMail s slot ws) slot k = w.2 := by
  have hk : w.1 = k := by simpa using List.find?_some h
  have hw : w ∈ ws := List.mem_of_find?_eq_some h
  have hold : ∀ old : List (Nat × Dword), (old.filter fun x => !(ws.any fun y => y.1 == x.1)).find? (fun x => x.1 == k) = none := by
    intro old
    simp only [List.find?_eq_none, List.mem_filter, Bool.not_eq_true', beq_iff_eq]
    rintro x ⟨-, hx⟩ rfl
    exact Bool.false_ne_true (hx.symm.trans (List.any_eq_true.mpr ⟨w, hw, beq_iff_eq.mpr hk⟩))
  have hslot : ((s.mysko.mail.filter fun x => x.slot != slot).find? fun x => x.slot == slot) = none := by simp
  simp only [mailWord, setMail, State.onMysko_mysko, List.find?_append, hslot, Option.none_or, List.find?_cons, beq_self_eq_true,
    Option.bind_some, hold, h, Option.map_some, Option.getD_some]

theorem mailWord_setMail_other {n : Nat} (h : n ≠ slot) : mailWord (setMail s slot ws) n k = mailWord s n k := by
  have hfind : ((s.mysko.mail.filter fun x => x.slot != slot).find? fun x => x.slot == n) = s.mysko.mail.find? fun x => x.slot == n := by
    rw [List.find?_filter]
    congr 1
    funext x
    by_cases hx : x.slot = n <;> simp [hx, h]
  have hlast : (slot == n) = false := by simpa using h.symm
  simp only [mailWord, setMail, State.onMysko_mysko, List.find?_append, hfind, List.find?_cons, hlast, List.find?_nil, Option.or_none]

@[simp] theorem setEvent_mail (s : State) (bit : Nat) : (setEvent s bit).mysko.mail = s.mysko.mail := by
  unfold setEvent sendMsix
  split <;> rfl

theorem mailWord_congr {s t : State} (h : s.mysko.mail = t.mysko.mail) (n k : Nat) : mailWord s n k = mailWord t n k := by
  unfold mailWord
  rw [h]

theorem mailWord_mailTake_other {n : Nat} (h : n ≠ slot) : mailWord (mailTake s slot) n k = mailWord s n k :=
  mailWord_setMail_other h

theorem mailWord_mailDone_other {n status : Nat} (h : n ≠ slot) : mailWord (mailDone s slot status) n k = mailWord s n k := by
  unfold mailDone
  rw [mailWord_congr (setEvent_mail _ _), mailWord_setMail_other h, mailWord_mailTake_other h]

/-- The status word of a slot that is done. -/
theorem mailWord_mailDone_status (s : State) (slot status : Nat) :
    mailWord (mailDone s slot status) slot 1 = BitVec.ofNat 64 (2 ^ 63 + status) := by
  unfold mailDone
  rw [mailWord_congr (setEvent_mail _ _)]
  exact mailWord_setMail_same (w := (1, BitVec.ofNat 64 (2 ^ 63 + status))) rfl

/-- The go bit of a slot that is done is clear. -/
theorem mailWord_mailDone_go (s : State) (slot status : Nat) : (mailWord (mailDone s slot status) slot 0).getLsbD 63 = false := by
  unfold mailDone
  dsimp only
  rw [mailWord_congr (setEvent_mail _ _),
    mailWord_setMail_same (w := (0, mailWord (mailTake s slot) slot 0 &&& ~~~(2 ^ 63))) rfl, BitVec.getLsbD_and]
  rw [show (~~~(2 ^ 63 : Dword)).getLsbD 63 = false by decide +kernel, Bool.and_false]

end

/-- What the answers to commands keep: everything but the mailbox, the event word and the messages. -/
theorem mailDone_keeps {β : Type} {p : State → β} (hm : ∀ s f, p (s.onMysko f) = p s) (hh : ∀ s f, p (s.onHost f) = p s) (s : State)
    (slot status : Nat) : p (mailDone s slot status) = p s := by
  have hset : ∀ s ws, p (setMail s slot ws) = p s := by
    intro s ws
    unfold setMail
    exact hm _ _
  have hevent : ∀ s bit, p (setEvent s bit) = p s := by
    intro s bit
    unfold setEvent sendMsix
    split <;> exact (hh _ _).trans (hm _ _)
  unfold mailDone mailTake
  exact (hevent _ _).trans ((hset _ _).trans ((hm _ _).trans (hset _ _)))

@[simp] theorem mailDone_exec (s : State) (slot status : Nat) : (mailDone s slot status).exec = s.exec :=
  mailDone_keeps (p := State.exec) (fun _ _ => rfl) (fun _ _ => rfl) _ _ _

@[simp] theorem mailDone_cores (s : State) (slot status : Nat) : (mailDone s slot status).cores = s.cores :=
  mailDone_keeps (p := State.cores) (fun _ _ => rfl) (fun _ _ => rfl) _ _ _

@[simp] theorem mailDone_ctxs (s : State) (slot status : Nat) : (mailDone s slot status).ctxs = s.ctxs :=
  mailDone_keeps (p := State.ctxs) (fun _ _ => rfl) (fun _ _ => rfl) _ _ _

/-- A slot that holds the answer of status 0, with its go bit clear. -/
def DoneZero (s : State) (slot : Nat) : Prop :=
  mailWord s slot 1 = BitVec.ofNat 64 (2 ^ 63) ∧ (mailWord s slot 0).getLsbD 63 = false

theorem DoneZero.mailDone_any {s : State} {n : Nat} (h : DoneZero s n) (k : Nat) : DoneZero (mailDone s k 0) n := by
  by_cases hk : n = k
  · subst hk
    exact ⟨mailWord_mailDone_status s n 0, mailWord_mailDone_go s n 0⟩
  · exact ⟨(mailWord_mailDone_other hk).trans h.1, by rw [mailWord_mailDone_other hk]; exact h.2⟩

theorem doneZero_foldl_of_done {s : State} {n : Nat} (ks : List Nat) (h : DoneZero s n) :
    DoneZero (ks.foldl (fun s k => mailDone s k 0) s) n := by
  induction ks generalizing s with
  | nil => exact h
  | cons k ks ih => exact ih (h.mailDone_any k)

/-- Every slot of a list answered holds the answer. -/
theorem doneZero_foldl {s : State} {n : Nat} {ks : List Nat} (h : n ∈ ks) : DoneZero (ks.foldl (fun s k => mailDone s k 0) s) n := by
  induction ks generalizing s with
  | nil => exact absurd h (List.not_mem_nil)
  | cons k ks ih =>
    rcases List.mem_cons.mp h with rfl | h
    · exact doneZero_foldl_of_done ks ⟨mailWord_mailDone_status s n 0, mailWord_mailDone_go s n 0⟩
    · exact ih h

/-! A context changed: its own reading, and the commands that waited for it (R412). -/

/-- A context reads back its change; a number without a context reads as the context that is Absent, before and after. -/
theorem getCtx_updCtx_same (s : State) (c : Nat) (f : Ctx → Ctx) :
    getCtx (updCtx s c f) c = f (getCtx s c) ∨ getCtx (updCtx s c f) c = Ctx.zero ∧ getCtx s c = Ctx.zero := by
  by_cases h : c < s.ctxs.length
  · left
    simpa using getCtx_updCtx s c c f h
  · right
    have hlen : s.ctxs.length ≤ c := Nat.le_of_not_lt h
    exact ⟨List.getD_eq_default _ _ (by simpa using hlen), List.getD_eq_default _ _ hlen⟩

theorem getCtx_congr {s t : State} (h : s.ctxs = t.ctxs) (c : Nat) : getCtx s c = getCtx t c := by
  unfold getCtx
  rw [h]

section

variable (s : State) (c : Nat)

@[simp] theorem finishWaiting_exec : (finishWaiting s c 0).exec = s.exec :=
  foldl_keeps (p := State.exec) (fun _ _ => mailDone_exec _ _ _) _ _

@[simp] theorem finishWaiting_cores : (finishWaiting s c 0).cores = s.cores :=
  foldl_keeps (p := State.cores) (fun _ _ => mailDone_cores _ _ _) _ _

theorem getCtx_finishWaiting : getCtx (finishWaiting s c 0) c = { getCtx s c with waiting := [] } := by
  have hkeep : ∀ xs : List Nat, (xs.foldl (fun s k => mailDone s k 0) s).ctxs = s.ctxs :=
    foldl_keeps (p := State.ctxs) (fun _ _ => mailDone_ctxs _ _ _) s
  unfold finishWaiting
  dsimp only
  rcases getCtx_updCtx_same ((getCtx s c).waiting.foldl (fun s k => mailDone s k 0) s) c
      (fun x => { x with waiting := [] }) with h | ⟨h, hz⟩
  · rw [h, getCtx_congr (hkeep _)]
  · rw [h, ← getCtx_congr (hkeep _), hz]
    rfl

theorem doneZero_finishWaiting {slot : Nat} (h : slot ∈ (getCtx s c).waiting) : DoneZero (finishWaiting s c 0) slot :=
  doneZero_foldl h

end

/-! What a core's leaving and a pair's end keep (R411, R453). -/

/-- What no write of memory and no change of a core alters, a drained FIFO leaves. -/
theorem drainAll_keeps {β : Type} {p : State → β} {core : Nat} (hw : ∀ s a bs, p (physWrite s a bs) = p s)
    (hc : ∀ (s : State) (rs : List TraceRec), p (updCore s core fun k => { k with fifo := rs, ringIndex := k.ringIndex + 1 }) = p s)
    (n : Nat) (s : State) : p (drainAll n s core) = p s := by
  induction n generalizing s with
  | zero => rfl
  | succ n ih =>
    unfold drainAll
    split
    · next t h =>
      refine (ih t).trans ?_
      unfold drainRecord at h
      dsimp only at h
      split at h
      · exact absurd h (by simp)
      · split at h
        · exact absurd h (by simp)
        · rw [← Option.some.inj h, hc, hw, hw]
    · rfl

@[simp] theorem physWrite_exec (s : State) (a : Nat) (bs : List Byte) : (physWrite s a bs).exec = s.exec :=
  physWrite_keeps (p := State.exec) physWriteByte_exec s a bs

@[simp] theorem physWrite_ctxs (s : State) (a : Nat) (bs : List Byte) : (physWrite s a bs).ctxs = s.ctxs :=
  physWrite_keeps (p := State.ctxs) physWriteByte_ctxs s a bs

@[simp] theorem physWrite_cores (s : State) (a : Nat) (bs : List Byte) : (physWrite s a bs).cores = s.cores :=
  physWrite_keeps (p := State.cores) physWriteByte_cores s a bs

/-- A change of one core leaves the owners where it keeps that core's. -/
theorem owner_updCore {s : State} {core : Nat} {f : Core → Core} (hf : ∀ x, (f x).owner = x.owner) (k : Nat) :
    (getCore (updCore s core f) k).owner = (getCore s k).owner := by
  by_cases h : k < s.cores.length
  · rw [getCore_updCore s core k f h]
    split
    · exact hf _
    · rfl
  · unfold getCore
    rw [List.getD_eq_default _ _ (by simpa using h), List.getD_eq_default _ _ (by simpa using h)]

theorem owner_leaveCore_same (s : State) (core : Nat) : (getCore (leaveCore s core) core).owner = none := by
  unfold leaveCore
  by_cases h : core < s.cores.length
  · rw [getCore_updCore s core core _ h, if_pos rfl]
  · unfold getCore
    rw [List.getD_eq_default _ _ (by simpa using h)]
    rfl

theorem owner_leaveCore_other {s : State} {core k : Nat} (h : core ≠ k) :
    (getCore (leaveCore s core) k).owner = (getCore s k).owner := by
  unfold leaveCore
  by_cases hk : k < s.cores.length
  · rw [getCore_updCore s core k _ hk, if_neg h]
  · unfold getCore
    rw [List.getD_eq_default _ _ (by simpa using hk), List.getD_eq_default _ _ (by simpa using hk)]

/-- A core drained and given up, as CTX_CORES and the end of a context do. -/
def drainAndLeave (s : State) (k : Nat) : State := leaveCore (drainAll 4096 s k) k

@[simp] theorem drainAndLeave_exec (s : State) (k : Nat) : (drainAndLeave s k).exec = s.exec :=
  drainAll_keeps (p := State.exec) physWrite_exec (fun _ _ => rfl) _ s

@[simp] theorem drainAndLeave_ctxs (s : State) (k : Nat) : (drainAndLeave s k).ctxs = s.ctxs :=
  drainAll_keeps (p := State.ctxs) physWrite_ctxs (fun _ _ => rfl) _ s

theorem owner_drainAll (n : Nat) (s : State) (core k : Nat) : (getCore (drainAll n s core) k).owner = (getCore s k).owner :=
  drainAll_keeps (p := fun s => (getCore s k).owner)
    (fun s a bs => by unfold getCore; rw [physWrite_cores])
    (fun _ rs => owner_updCore (f := fun k => { k with fifo := rs, ringIndex := k.ringIndex + 1 }) (fun _ => rfl) k) n s

/-- After some cores have left, each core is without an owner, or is none of them and as before. -/
theorem owner_foldl_drainAndLeave (ks : List Nat) (s : State) (k : Nat) :
    (getCore (ks.foldl drainAndLeave s) k).owner = none ∨
      k ∉ ks ∧ (getCore (ks.foldl drainAndLeave s) k).owner = (getCore s k).owner := by
  induction ks generalizing s with
  | nil => exact .inr ⟨List.not_mem_nil, rfl⟩
  | cons x xs ih =>
    rcases ih (drainAndLeave s x) with h | ⟨hk, h⟩
    · exact .inl h
    · by_cases hx : x = k
      · subst hx
        exact .inl (h.trans (owner_leaveCore_same _ _))
      · refine .inr ⟨by simp [hk, Ne.symm hx], h.trans ?_⟩
        exact (owner_leaveCore_other hx).trans (owner_drainAll _ _ _ _)

/-- No core that a context owned owns it after its cores have left. -/
theorem owner_ne_of_all_left {s : State} {c k : Nat} (hk : k < 160) :
    (getCore (((List.range 160).filter fun k => (getCore s k).owner == some c).foldl drainAndLeave s) k).owner ≠ some c := by
  rcases owner_foldl_drainAndLeave ((List.range 160).filter fun k => (getCore s k).owner == some c) s k with h | ⟨hmem, h⟩
  · rw [h]
    exact Option.some_ne_none c |>.symm
  · rw [h]
    intro howner
    exact hmem (List.mem_filter.mpr ⟨List.mem_range.mpr hk, beq_iff_eq.mpr howner⟩)

theorem removePair_pairs (s : State) (pair : Nat) : (removePair s pair).exec.pairs = s.exec.pairs.filter fun p => p.id != pair := by
  unfold removePair
  cases findPair s pair <;> rfl

/-- The pairs left when some have gone. -/
theorem mem_pairs_foldl_removePair {ids : List Nat} {s : State} {p : Pair} (h : p ∈ (ids.foldl removePair s).exec.pairs) :
    p ∈ s.exec.pairs ∧ p.id ∉ ids := by
  induction ids generalizing s with
  | nil => exact ⟨h, List.not_mem_nil⟩
  | cons i ids ih =>
    obtain ⟨hp, hid⟩ := ih h
    rw [removePair_pairs, List.mem_filter] at hp
    obtain ⟨hp, hi⟩ := hp
    exact ⟨hp, by simp only [List.mem_cons, not_or]; exact ⟨by simpa using hi, hid⟩⟩

/-- No pair of a context is left when each of its pairs has gone. -/
theorem ctx_ne_of_mem_pairs_removed {s : State} {c : Nat} {p : Pair}
    (h : p ∈ (((s.exec.pairs.filter fun p => p.ctx == c).map (·.id)).foldl removePair s).exec.pairs) : p.ctx ≠ c := by
  obtain ⟨hp, hid⟩ := mem_pairs_foldl_removePair h
  intro hc
  exact hid (List.mem_map.mpr ⟨p, List.mem_filter.mpr ⟨hp, beq_iff_eq.mpr hc⟩, rfl⟩)

/-! The context commands (R411, R432, R440). -/

section

variable {s : State} {slot c : Nat}

/-- The status of a command on a context in a state that lists it. -/
theorem stateStatus_zero {ok : List CtxState} (hc : c < 16) (h : (getCtx s c).st ∈ ok) : stateStatus s c ok = 0 := by
  unfold stateStatus
  rw [if_neg (Nat.not_le.mpr hc), if_pos (List.contains_iff_mem.mpr h)]

theorem exec_ctxCreate_passed {block : Dword} {cores : BitVec 160} (h : Commanded s slot served) (hs : sealQueued s c = false)
    (hst : createStatus s c block.toNat cores = 0) :
    let t := dropContextLines s c
    exec (.ctxCreate slot c block cores) s = .next (mailDone (formMembers (giveCores
      (updCtx t c fun _ =>
        { blockCtx t block.toNat cores with
          prevSeq := (getCtx s c).prevSeq, windowWait := (getCtx s c).windowWait, invalWait := (getCtx s c).invalWait })
      (maskCores cores) c) c) slot 0) := by
  intro t
  show execCtxCreate slot c block cores s = _
  unfold execCtxCreate
  dsimp only
  rw [hs, if_neg Bool.false_ne_true, hst]
  exact command_next _ h

/-- CTX_CORES is done once the FIFOs of the leaving cores have drained (R453). -/
theorem exec_ctxCores_drained {add rem : BitVec 160} (h : Commanded s slot served) :
    let gone := (maskCores rem).filter fun k => (getCore s k).owner == some c
    let drained := gone.foldl (fun s k => drainAll 4096 s k) s
    coresStatus s c add rem = 0 → (∀ k ∈ gone, (getCore drained k).ringOn = true → (getCore drained k).fifo = []) →
    exec (.ctxCores slot c add rem) s = .next (mailDone (updCtx (giveCores (gone.foldl leaveCore drained) (maskCores add) c) c fun x =>
      { x with cores := (x.cores &&& ~~~rem) ||| add }) slot 0) := by
  intro gone drained hst hdone
  have hleft : (gone.any fun k => (getCore drained k).ringOn && !(getCore drained k).fifo.isEmpty) = false := by
    refine List.any_eq_false.mpr fun k hk => ?_
    cases hring : (getCore drained k).ringOn with
    | true => simp [hdone k hk hring]
    | false => simp
  show execCtxCores slot c add rem s = _
  unfold execCtxCores
  dsimp only
  rw [if_neg (fun hw => Bool.false_ne_true (hleft.symm.trans hw.2)), hst]
  exact command_next _ h

theorem exec_ctxStop_live (h : Commanded s slot served) (hc : c < 16) (hst : (getCtx s c).st = .live) :
    exec (.ctxStop slot c) s =
      .next (mailTake (updCtx s c fun x => { x with st := .stopping, waiting := x.waiting ++ [slot] }) slot) := by
  show command s slot served (stateStatus s c [.live]) _ = _
  rw [stateStatus_zero hc (by simp [hst])]
  exact command_next _ h

theorem exec_ctxResume_stopped (h : Commanded s slot served) (hc : c < 16) (hst : (getCtx s c).st = .stopped) :
    exec (.ctxResume slot c) s = .next (mailDone (updCtx s c fun x => { x with st := .live }) slot 0) := by
  show command s slot served (stateStatus s c [.stopped]) _ = _
  rw [stateStatus_zero hc (by simp [hst])]
  exact command_next _ h

theorem exec_ctxEnd_standing (h : Commanded s slot served) (hc : c < 16)
    (hst : (getCtx s c).st = .live ∨ (getCtx s c).st = .stopping ∨ (getCtx s c).st = .stopped) :
    exec (.ctxEnd slot c) s =
      .next (mailTake (endContext (updCtx s c fun x => { x with waiting := x.waiting ++ [slot] }) c) slot) := by
  show command s slot served (stateStatus s c [.live, .stopping, .stopped]) _ = _
  rw [stateStatus_zero hc (by simpa using hst)]
  exact command_next _ h

theorem exec_contextStopped_idle (hc : c < 16) (hst : (getCtx s c).st = .stopping) (hr : anyResident s c = false) :
    exec (.contextStopped c) s = .next (finishWaiting (updCtx s c fun x => { x with st := .stopped }) c 0) :=
  eventIf_next.mpr ⟨by simp [hc, hst, hr], rfl⟩

end

/-! An ending context that has drained (R412). -/

/-- A context's pairs gone, and with them its cohorts, streams, launches and operations. -/
def clearContext (t : State) (c : Nat) : State :=
  let cohorts := (t.exec.cohorts.filter fun co => co.ctx == c).map (·.id)
  (((t.exec.pairs.filter fun p => p.ctx == c).map (·.id)).foldl removePair t).onExec fun e =>
    { e with
      cohorts := e.cohorts.filter fun co => co.ctx != c
      presses := e.presses.filter fun p => !cohorts.contains p.cohort
      allocs := e.allocs.filter fun a => match a.owner with
        | .cohort i => !cohorts.contains i
        | _ => true
      launches := e.launches.filter fun l => l.ctx != c
      ops := e.ops.filter fun o => o.ctx != c }

/-- The context's cores given up. -/
def leaveContext (u : State) (c : Nat) : State :=
  ((List.range 160).filter fun k => (getCore u k).owner == some c).foldl drainAndLeave u

/-- The context Absent, and the commands that waited for it done. -/
def absentContext (v : State) (c : Nat) : State :=
  finishWaiting (updCtx v c fun x => { x with st := .absent, cores := 0, debug := false }) c 0

theorem exec_contextDrained_idle {s : State} {c : Nat} (hc : c < 16) (hst : (getCtx (endIdleGroups s c) c).st = .ending)
    (hi : inFlight (endIdleGroups s c) c = false)
    (hr : ∀ r ∈ s.exec.runs, r.unit ≤ 4 → ((findGroup s r.gid).map (·.ctx)) ≠ some c) :
    exec (.contextDrained c) s = .next (absentContext (leaveContext (clearContext (endIdleGroups s c) c) c) c) := by
  have hbusy : (s.exec.runs.any fun r => ((findGroup s r.gid).map (·.ctx)) == some c && r.unit ≤ 4) = false := by
    refine List.any_eq_false.mpr fun r hmem => ?_
    by_cases hu : r.unit ≤ 4
    · simp [hr r hmem hu]
    · simp [hu]
  show execContextDrained c s = _
  unfold execContextDrained
  dsimp only
  rw [hbusy, hi, if_neg (by simp [hc, hst])]
  rfl

section

variable (t : State) (c : Nat)

@[simp] theorem leaveContext_exec : (leaveContext t c).exec = t.exec :=
  foldl_keeps (p := State.exec) drainAndLeave_exec _ _

@[simp] theorem absentContext_exec : (absentContext t c).exec = t.exec := finishWaiting_exec _ _

theorem getCtx_absentContext : (getCtx (absentContext t c) c).st = .absent ∧ (getCtx (absentContext t c) c).cores = 0 ∧
    (getCtx (absentContext t c) c).waiting = [] := by
  unfold absentContext
  rw [getCtx_finishWaiting]
  rcases getCtx_updCtx_same t c (fun x => { x with st := .absent, cores := 0, debug := false }) with h | ⟨h, -⟩
  · rw [h]
    exact ⟨rfl, rfl, rfl⟩
  · rw [h]
    exact ⟨rfl, rfl, rfl⟩

theorem owner_absentContext {k : Nat} (hk : k < 160) : (getCore (absentContext (leaveContext t c) c) k).owner ≠ some c := by
  have hcores : (absentContext (leaveContext t c) c).cores = (leaveContext t c).cores := finishWaiting_cores _ _
  unfold getCore
  rw [hcores]
  exact owner_ne_of_all_left hk

/-- The commands that waited for the context's end are done with status 0. -/
theorem doneZero_absentContext {slot : Nat} (h : slot ∈ (getCtx t c).waiting) : DoneZero (absentContext t c) slot := by
  refine doneZero_finishWaiting _ _ ?_
  rcases getCtx_updCtx_same t c (fun x => { x with st := .absent, cores := 0, debug := false }) with hx | ⟨hx, hz⟩
  · rw [hx]
    exact h
  · rw [hx, ← hz]
    exact h

end

/-- A drained context is Absent, owns no core, holds no pair, cohort, operation or launch, and its waiting commands are done (R412). -/
theorem absentContext_holds_nothing (t : State) (c : Nat) :
    let v := leaveContext (clearContext t c) c
    let w := absentContext v c
    (getCtx w c).st = .absent ∧ (getCtx w c).cores = 0 ∧ (getCtx w c).waiting = [] ∧
    (∀ k, k < 160 → (getCore w k).owner ≠ some c) ∧ (∀ p ∈ w.exec.pairs, p.ctx ≠ c) ∧ (∀ co ∈ w.exec.cohorts, co.ctx ≠ c) ∧
    (∀ o ∈ w.exec.ops, o.ctx ≠ c) ∧ (∀ l ∈ w.exec.launches, l.ctx ≠ c) ∧
    ∀ slot ∈ (getCtx v c).waiting, mailWord w slot 1 = BitVec.ofNat 64 (2 ^ 63) ∧ (mailWord w slot 0).getLsbD 63 = false := by
  intro v w
  obtain ⟨hst, hcores, hwait⟩ := getCtx_absentContext v c
  have hexec : w.exec = (clearContext t c).exec := (absentContext_exec v c).trans (leaveContext_exec _ c)
  refine ⟨hst, hcores, hwait, ?_, ?_, ?_, ?_, ?_, ?_⟩
  · exact fun _ => owner_absentContext _ c
  · intro p hp
    rw [hexec] at hp
    exact ctx_ne_of_mem_pairs_removed hp
  · intro co hco
    rw [hexec] at hco
    simpa using (List.mem_filter.mp hco).2
  · intro o ho
    rw [hexec] at ho
    simpa using (List.mem_filter.mp ho).2
  · intro l hl
    rw [hexec] at hl
    simpa using (List.mem_filter.mp hl).2
  · exact fun _ => doneZero_absentContext v c

/-- Settles O36: each command has its effect in a state that lists it, and what is left of a drained context is nothing. -/
theorem contextCommandsComplete : Obligations.ContextCommandsComplete := by
  unfold Obligations.ContextCommandsComplete
  intro s
  refine ⟨?_, ?_⟩
  · intro slot c h hc
    refine ⟨?_, ?_, ?_, ?_, ?_⟩
    · exact fun _ _ => exec_ctxCreate_passed h
    · exact fun _ _ => exec_ctxCores_drained h
    · exact exec_ctxStop_live h hc
    · exact exec_ctxResume_stopped h hc
    · exact exec_ctxEnd_standing h hc
  · intro c hc
    refine ⟨?_, ?_⟩
    · exact exec_contextStopped_idle hc
    · intro t hst hi hr
      exact ⟨exec_contextDrained_idle hc hst hi hr, absentContext_holds_nothing t c⟩

end Sys2Proof.Machine

end

/-! ### Mysko's table commands (R83, R153, R179, R416 to R419, R425, R429, R437, R440): completion -/

section

namespace Sys2Proof.Machine

open Sys2Proof.Safety

/-! Invalidations (R416, R417). -/

section

variable {s : State} {slot : Nat}

/-- What a waiting invalidation leaves when it is done. -/
theorem invalDone_ready {d : Nat} {left : List (Nat × Nat)}
    (h : (left.all fun y => ((contribAt s y.1 y.2).map fun x => !x.2.checked).getD true) = true) :
    invalDone s slot d left =
      .next (mailDone (updCtx s d fun x => { x with invalWait := x.invalWait.filter fun w => w.1 != slot }) slot 0) :=
  eventIf_next.mpr ⟨h, rfl⟩

theorem exec_inval_waited {d : Nat} {left : List (Nat × Nat)} (hw : invalWaiting s slot = some (d, left))
    (h : (left.all fun y => ((contribAt s y.1 y.2).map fun x => !x.2.checked).getD true) = true) {c : Nat} {off len : Dword} {glob : Bool} :
    exec (.inval slot c off len glob) s =
      .next (mailDone (updCtx s d fun x => { x with invalWait := x.invalWait.filter fun w => w.1 != slot }) slot 0) := by
  show execInval slot c off len glob s = _
  unfold execInval
  rw [hw]
  exact invalDone_ready h

theorem exec_rangeClear_waited {d k : Nat} {left : List (Nat × Nat)} (hw : invalWaiting s slot = some (d, left))
    (h : (left.all fun y => ((contribAt s y.1 y.2).map fun x => !x.2.checked).getD true) = true) :
    exec (.rangeClear slot k) s =
      .next (mailDone (updCtx s d fun x => { x with invalWait := x.invalWait.filter fun w => w.1 != slot }) slot 0) := by
  show execRangeClear slot k s = _
  unfold execRangeClear
  rw [hw]
  exact invalDone_ready h

theorem exec_rangeSet_passed {k : Nat} {e : BitVec 256} (h : Commanded s slot served) (hk : k < 32) (he : rangeOk s e = true) :
    exec (.rangeSet slot k e) s = .next (mailDone (s.onMemory fun m =>
      { m with ranges := m.ranges.set k (if e.getLsbD 255 then some (parseRange e) else none) }) slot 0) := by
  show execRangeSet slot k e s = _
  unfold execRangeSet
  dsimp only
  rw [if_neg (by simp [hk, he])]
  exact command_next _ h

theorem exec_rangeClear_passed {k : Nat} {r : RangeEntry} (h : Commanded s slot served) (hk : k < 32)
    (hr : s.memory.ranges.getD k none = some r) (hw : invalWaiting s slot = none) :
    exec (.rangeClear slot k) s = .next
      (runInval (s.onMemory fun m => { m with ranges := m.ranges.set k none }) slot r.ctx r.base (r.limit - r.base) r.global) := by
  show execRangeClear slot k s = _
  unfold execRangeClear
  rw [hw]
  dsimp only
  rw [hr, if_neg (Nat.not_le.mpr hk)]
  exact command_next _ h

/-- A command stands in its slot whatever other phases than the present one serve it. -/
theorem commanded_of_phase {ps qs : List Phase} {p : Phase} (h : Commanded s slot ps) (hp : s.mysko.phase = p) (hq : p ∈ qs) :
    Commanded s slot qs := by
  obtain ⟨h0, h1, h2, -, h4, h5⟩ := h
  exact ⟨h0, h1, h2, by rw [hp]; exact List.contains_iff_mem.mpr hq, h4, h5⟩

/-- The status of a command on a context that has been created. -/
theorem createdStatus_zero {c : Nat} (hc : c < 16) (h : (getCtx s c).created = true) : createdStatus s c = 0 := by
  unfold createdStatus
  rw [if_neg (Nat.not_le.mpr hc), if_pos h]

/-! Commands on a context that stands: Live, Stopping or Stopped (R153, R179, R417 to R419, R425, R429, R440). -/

section

variable {c : Nat} (h : Commanded s slot served) (hc : c < 16)
  (hst : (getCtx s c).st = .live ∨ (getCtx s c).st = .stopping ∨ (getCtx s c).st = .stopped)

include hc hst in
theorem stateStatus_standing : stateStatus s c [.live, .stopping, .stopped] = 0 :=
  stateStatus_zero hc (by simpa using hst)

include h hc hst

theorem exec_inval_passed {off len : Dword} {glob : Bool} (ho : off.toNat % 8192 = 0) (hl : len.toNat % 8192 = 0)
    (hw : invalWaiting s slot = none) :
    exec (.inval slot c off len glob) s = .next (runInval s slot c off.toNat len.toNat glob) := by
  show execInval slot c off len glob s = _
  unfold execInval
  rw [hw]
  dsimp only
  rw [if_neg (by simp [hc, ho, hl]), stateStatus_zero hc (by rcases hst with h | h | h <;> simp [h])]
  exact command_next _ h

variable {k : Nat}

theorem exec_regionEnable_passed {r : Region} {t : State} (hk : k < 64)
    (hr : tableRegion s ((getCtx s c).regionBase + 64 * k) = some r) (ht : registerRegion s c k r = some t) :
    exec (.regionEnable slot c k) s = .next (mailDone t slot 0) := by
  show execRegionEnable slot c k s = _
  unfold execRegionEnable
  dsimp only
  rw [hr, Option.bind_some, ht, if_neg (Nat.not_le.mpr hk), stateStatus_standing hc hst]
  exact command_next _ h

theorem exec_regionDisable_passed (hk : k < 64) (hr : ((getCtx s c).regions.getD k none).isSome = true) :
    exec (.regionDisable slot c k) s = .next (mailDone (removeRegion s c k) slot 0) := by
  show execRegionDisable slot c k s = _
  unfold execRegionDisable
  dsimp only
  rw [if_neg (Nat.not_le.mpr hk), stateStatus_standing hc hst, if_neg (not_not.mpr rfl),
    if_neg (by simpa [Option.isSome_iff_ne_none] using hr)]
  exact command_next _ h

theorem exec_windowEnable_taken {x : Window} (hk : k < 64) (hw : (getCtx s c).windowWait.contains (slot, k) = false)
    (hx : tableWindow s c ((getCtx s c).windowBase + 64 * k) = some x) (hroom : stagingRoom s x = true)
    (hfree : ((getCtx s c).windows.getD k none) = none) :
    exec (.windowEnable slot c k) s = .next (mailTake (markEntry (updCtx s c fun y =>
      { y with windows := y.windows.set k (some x), windowWait := y.windowWait ++ [(slot, k)] })
        ((getCtx s c).windowBase + 64 * k) true) slot) := by
  show execWindowEnable slot c k s = _
  unfold execWindowEnable
  dsimp only
  rw [hw, if_neg Bool.false_ne_true, hx]
  dsimp only
  rw [if_neg (Nat.not_le.mpr hk), stateStatus_standing hc hst, if_neg (not_not.mpr rfl), hfree, hroom]
  exact command_next _ h

theorem exec_windowDisable_dropped (hk : k < 64) (hw : (getCtx s c).windowWait.contains (slot, k) = false)
    (hx : ((getCtx s c).windows.getD k none).isSome = true) :
    exec (.windowDisable slot c k) s = .next (mailTake (markEntry
      ((updCtx s c fun y =>
        { y with windows := y.windows.set k none, windowWait := y.windowWait ++ [(slot, k)] }).onFabric fun x =>
        { x with staging := x.staging.filter fun y => !(y.ctx == c && y.win == k) })
      ((getCtx s c).windowBase + 64 * k) false) slot) := by
  show execWindowDisable slot c k s = _
  unfold execWindowDisable
  dsimp only
  rw [hw, if_neg Bool.false_ne_true, if_neg (Nat.not_le.mpr hk), stateStatus_standing hc hst, if_neg (not_not.mpr rfl),
    if_neg (by simpa [Option.isSome_iff_ne_none] using hx)]
  exact command_next _ h

theorem exec_ctxMembers_passed {mask : BitVec 1024} (hp : s.mysko.phase = .full) (hs : sealQueued s c = false)
    (hm : mask.getLsbD s.fabric.index = true) :
    exec (.ctxMembers slot c mask) s =
      .next (mailDone (formMembers (updCtx s c fun x => { x with members := mask }) c) slot 0) := by
  show execCtxMembers slot c mask s = _
  unfold execCtxMembers
  dsimp only
  rw [hs, if_neg Bool.false_ne_true, stateStatus_standing hc hst, if_neg (not_not.mpr rfl), hm]
  exact command_next _ (commanded_of_phase h hp (List.mem_singleton.mpr rfl))

theorem exec_peerTable_passed {base : Dword} {n : Nat} (hp : s.mysko.phase = .full) (hb : base.toNat % 4096 = 0) (hn : n ≠ 0)
    (hle : n ≤ 4096) (hphys : physOk s base.toNat (32 * n) = true) :
    exec (.peerTable slot c base n) s =
      .next (mailDone (updCtx s c fun x => { x with peerBase := base.toNat, peerCount := n }) slot 0) := by
  show execPeerTable slot c base n s = _
  unfold execPeerTable
  dsimp only
  rw [stateStatus_standing hc hst, if_neg (not_not.mpr rfl), if_neg (by simp [hb, hn, hle, hphys])]
  exact command_next _ (commanded_of_phase h hp (List.mem_singleton.mpr rfl))

theorem exec_jobSet_passed {job : BitVec 256} (hcr : (getCtx s c).created = true) (hs : sealQueued s c = false) :
    exec (.jobSet slot c job) s = .next (mailDone (formMembers (updCtx s c fun x => { x with job := job }) c) slot 0) := by
  show execJobSet slot c job s = _
  unfold execJobSet
  dsimp only
  rw [hs, if_neg Bool.false_ne_true, createdStatus_zero hc hcr, if_neg (not_not.mpr rfl), stateStatus_standing hc hst]
  exact command_next _ h

end

/-! A window command that every member has carried out (R411). -/

theorem exec_windowEnable_done {c k : Nat} (hw : (getCtx s c).windowWait.contains (slot, k) = true) :
    exec (.windowEnable slot c k) s = .next (windowDone s slot c k) := by
  show execWindowEnable slot c k s = _
  unfold execWindowEnable
  exact if_pos hw

theorem exec_windowDisable_done {c k : Nat} (hw : (getCtx s c).windowWait.contains (slot, k) = true) :
    exec (.windowDisable slot c k) s = .next (windowDone s slot c k) := by
  show execWindowDisable slot c k s = _
  unfold execWindowDisable
  exact if_pos hw

end

/-- Settles O37: each command has its effect where its checks pass, and those that wait are done by a second such event. -/
theorem tableCommandsComplete : Obligations.TableCommandsComplete := by
  unfold Obligations.TableCommandsComplete
  intro s slot
  refine ⟨?_, ?_, ?_⟩
  · intro d left hw hl
    exact ⟨fun _ _ _ _ => exec_inval_waited hw hl, fun _ => exec_rangeClear_waited hw hl⟩
  · exact fun _ _ hw => ⟨exec_windowEnable_done hw, exec_windowDisable_done hw⟩
  · intro h
    refine ⟨?_, ?_⟩
    · exact fun _ hk => ⟨fun _ => exec_rangeSet_passed h hk, fun _ => exec_rangeClear_passed h hk⟩
    · intro c hc hst
      refine ⟨?_, ?_, ?_, ?_, ?_⟩
      · exact fun _ _ _ => exec_inval_passed h hc hst
      · intro k hk
        refine ⟨?_, ?_, ?_⟩
        · exact fun _ _ => exec_regionEnable_passed h hc hst hk
        · exact exec_regionDisable_passed h hc hst hk
        · intro hw
          exact ⟨fun _ => exec_windowEnable_taken h hc hst hk hw, exec_windowDisable_dropped h hc hst hk hw⟩
      · exact fun _ => exec_ctxMembers_passed h hc hst
      · exact fun _ _ => exec_peerTable_passed h hc hst
      · exact fun _ => exec_jobSet_passed h hc hst

end Sys2Proof.Machine

end

/-! ### Bring-up, the domain, power, the clock and the timebase (R16, R165 to R168, R422 to R431, R450): completion -/

section

namespace Sys2Proof.Machine

open Sys2Proof.Safety

/-! Firmware images and settings (R423, R425, R430). -/

section

variable {s : State} {slot : Nat}

theorem exec_fwStage_served {addr : Dword} {len : Nat} {pieces : List Byte} (h : Commanded s slot [.reduced, .full])
    (hphys : physOk s addr.toNat len = true) (hi : imagePasses s.mysko.fused (physBytes s addr.toNat len) = true) :
    exec (.fwStage slot addr len pieces) s = .next (mailDone (s.onMysko fun m =>
      { m with fw := m.fw.set (stageSlot m) (slotOf (physBytes s addr.toNat len)) }) slot 0) := by
  have hphase : s.mysko.phase ∈ [Phase.reduced, .full] := List.contains_iff_mem.mp h.2.2.2.1
  have hnot : (s.mysko.phase == .recovery) = false := by
    rcases List.mem_cons.mp hphase with h | h
    · rw [h]; rfl
    · rw [List.mem_singleton.mp h]; rfl
  show execFwStage slot addr len pieces s = _
  unfold execFwStage
  dsimp only
  rw [hnot, hphys, if_neg Bool.false_ne_true, if_neg (by decide), if_pos hi]
  exact command_next _ (commanded_of_phase h rfl (List.mem_cons_of_mem _ hphase))

theorem exec_fwStage_recovery {addr : Dword} {len : Nat} {pieces : List Byte} (h : Commanded s slot [.recovery])
    (hi : imagePasses s.mysko.fused (pieces.take len) = true) :
    exec (.fwStage slot addr len pieces) s = .next (mailDone (s.onMysko fun m =>
      { m with fw := m.fw.set (stageSlot m) (slotOf (pieces.take len)) }) slot 0) := by
  have hphase : s.mysko.phase = .recovery := List.mem_singleton.mp (List.contains_iff_mem.mp h.2.2.2.1)
  show execFwStage slot addr len pieces s = _
  unfold execFwStage
  dsimp only
  rw [show (s.mysko.phase == .recovery) = true from beq_iff_eq.mpr hphase, if_pos rfl, if_neg (by simp), if_pos hi]
  exact command_next _ (commanded_of_phase h hphase (by decide))

theorem exec_powerSet_inRange {limit q : Nat} (h : Commanded s slot [.reduced, .full]) (h1 : 1200 ≤ limit) (h2 : limit ≤ 3200)
    (h3 : 16384 ≤ q) (h4 : q ≤ 262144) :
    exec (.powerSet slot limit q) s = .next (mailDone (s.onMysko fun m => { m with limit := limit, q := q }) slot 0) := by
  show execPowerSet slot limit q s = _
  unfold execPowerSet
  dsimp only
  rw [if_neg (by simp only [Bool.or_eq_true, decide_eq_true_eq]; omega)]
  exact command_next _ h

/-! Phases (R422, R425). -/

theorem exec_serviceFull_ready (h : Commanded s slot [.reduced])
    (ht : (s.mysko.stacksTrained ||| s.mysko.stacksFenced) = BitVec.allOnes 12) (hr : s.mysko.rings = true)
    (hs : s.mysko.selfTest = true) (hl : anyLive s = false) :
    exec (.serviceFull slot) s = .next (mailDone
      ({ enterPhase (s.onMysko fun m => { m with clock := 1000, serviceEpoch := m.serviceEpoch + 1 }) .full with mem := [] }.onMemory
        fun m => { m with l2 := [], tlb := [], l1 := [], icache := [] }) slot 0) := by
  show execServiceFull slot s = _
  unfold execServiceFull
  dsimp only
  rw [ht, hr, hs, hl, beq_self_eq_true, if_pos (by decide)]
  exact command_next _ h

/-- The flash of a device, which a reset keeps: its images, fused counter and record sequence (R422, R442). -/
def keptFlash (s : State) : Mysko := { Mysko.zero with fw := s.mysko.fw, fused := s.mysko.fused, sequence := s.mysko.sequence }

theorem exec_powerOnReset_started {f : FwSlot} (hf : romChoice (keptFlash s) = some f) (hd : s.mysko.deviceFenced = false) :
    exec .powerOnReset s = .next ({ State.reset with mysko := keptFlash s, agenda := s.agenda }.onMysko fun m =>
      { m with running := f.version, fused := max m.fused f.rollback }) := by
  unfold keptFlash at hf
  show execPowerOnReset s = _
  unfold execPowerOnReset
  dsimp only
  rw [hf]
  dsimp only
  rw [hd, if_neg Bool.false_ne_true]
  rfl

theorem exec_powerOnReset_recovery (hf : romChoice (keptFlash s) = none) :
    exec .powerOnReset s = .next (enterPhase { State.reset with mysko := keptFlash s, agenda := s.agenda } .recovery) := by
  unfold keptFlash at hf
  show execPowerOnReset s = _
  unfold execPowerOnReset
  dsimp only
  rw [hf]
  rfl

theorem exec_stack0Trained_boot (hp : s.mysko.phase = .boot) (hs : started s = true) : exec .stack0Trained s =
    .next (enterPhase (s.onMysko fun m => { m with stacksTrained := 1 }) .reduced) :=
  eventIf_next.mpr ⟨by rw [hp, hs]; rfl, rfl⟩

theorem exec_bringupComplete_open {hbm : BitVec 12} {found : SelfTests} (hb : bringupOpen s = true) :
    let trained := s.mysko.stacksTrained ||| hbm
    let t := ((List.range 160).filter fun k => !found.cores.getLsbD k).foldl (fun s k => fenceCore s k (pairsOn s k)) (s.onMysko fun m =>
      { m with stacksTrained := trained, stacksFenced := ~~~trained, rings := found.rings, selfTest := found.crucibles })
    exec (.bringupComplete hbm found) s =
      .next (if found.crucibles then t else (endAllContexts t).onMysko fun m => { m with deviceFenced := true }) := by
  intro trained t
  show execBringupComplete hbm found s = _
  unfold execBringupComplete
  exact eventIf_next.mpr ⟨hb, rfl⟩

/-! The domain and the ports (R165 to R168, R426, R429). -/

section

variable {index count : Nat} {map floors : Dword} (h : Commanded s slot [.full]) (hl : anyLive s = false) (hc : count ≤ 1024)
  (hi : index < count) (hm : physOk s map.toNat 16384 = true) (hf : physOk s floors.toNat 4096 = true)
  (hok : floorsOk (readLaneMap s map.toNat) (domainPairs s index count floors.toNat) = true)

include hl hc hi hm hf hok in
theorem domainForm_status :
    (if anyLive s then 7
     else if count == 0 || 1024 < count || count ≤ index || !physOk s map.toNat 16384 || !physOk s floors.toNat 4096 then 1
     else if !floorsOk (readLaneMap s map.toNat) (domainPairs s index count floors.toNat) then 9 else 0) = 0 := by
  rw [hl, if_neg Bool.false_ne_true, hm, hf, hok,
    if_neg (by simp only [Bool.not_true, Bool.or_false, Bool.or_eq_true, beq_iff_eq, decide_eq_true_eq]; omega),
    if_neg (by simp)]

include h hl hc hi hm hf hok

theorem exec_domainForm_formed : exec (.domainForm slot index count map floors none) s =
    .next (mailDone (installDomain (sendProbes s (domainPairs s index count floors.toNat)) index count (readLaneMap s map.toNat)
      (domainPairs s index count floors.toNat)) slot 0) := by
  show execDomainForm slot index count map floors none s = _
  unfold execDomainForm
  dsimp only
  rw [domainForm_status hl hc hi hm hf hok]
  exact command_next _ h

/-- A device that answers a probe with another index is named in the status, and nothing is installed (R426). -/
theorem exec_domainForm_mismatch {b : Nat} (hb : b ∈ (domainPairs s index count floors.toNat).map (·.1)) :
    exec (.domainForm slot index count map floors (some b)) s =
      .next (mailDone (sendProbes s (domainPairs s index count floors.toNat)) slot (8 + b * 2 ^ 16)) := by
  show execDomainForm slot index count map floors (some b) s = _
  unfold execDomainForm
  dsimp only
  rw [domainForm_status hl hc hi hm hf hok, List.contains_iff_mem.mpr hb, if_neg (by decide)]
  exact command_next _ h

end

theorem exec_domainLeave_idle (h : Commanded s slot [.full]) (hl : anyLive s = false) :
    exec (.domainLeave slot) s = .next (mailDone (endDomain s) slot 0) := by
  show execDomainLeave slot s = _
  unfold execDomainLeave
  rw [hl]
  exact command_next _ h

theorem exec_uePort_passed {port : Nat} {entry : BitVec 512} (h : Commanded s slot [.full]) (hp : port < 8)
    (h0 : entry.extractLsb' 0 63 = 0) (h1 : entry.extractLsb' 256 256 = 0)
    (hf : entry.getLsbD 63 = false ∨ s.mysko.fencedUnits.contains (5, port) = false) :
    exec (.uePort slot port entry) s =
      .next (mailDone (s.onFabric fun x => { x with ports := x.ports.set port entry }) slot 0) := by
  have hfenced : (entry.getLsbD 63 && s.mysko.fencedUnits.contains (5, port)) = false := by
    rcases hf with h | h
    · rw [h, Bool.false_and]
    · rw [h, Bool.and_false]
  show execUePort slot port entry s = _
  unfold execUePort
  dsimp only
  rw [h0, h1, hfenced, decide_eq_false (Nat.not_le.mpr hp)]
  exact command_next _ h

/-! Power, temperature and the timebase (R16, R430, R450). -/

theorem exec_powerSample_due {watts junction inlet : Nat} (ht : s.tick % 100000 = 0) :
    exec (.powerSample watts junction inlet) s =
      .next (s.onMysko fun m => clockStep { m with samples := (watts :: m.samples).take 10, junction := junction, inlet := inlet }) :=
  eventIf_next.mpr ⟨beq_iff_eq.mpr ht, rfl⟩

theorem exec_thermalTrip_ends (ht : s.mysko.tripped = false) (hj : 880 ≤ s.mysko.junction) (hs : s.mysko.stopped = false)
    (ha : allAbsent s = false) :
    exec .thermalTrip s = .next ((endAllContexts s).onMysko fun m => { m with tripped := true }) := by
  show execThermalTrip s = _
  unfold execThermalTrip
  dsimp only
  rw [ht, hs, ha, decide_eq_true hj]
  rfl

/-- Once every context is Absent the clock stops, with a record of the trip (R430). -/
theorem exec_thermalTrip_stops (ht : s.mysko.tripped = true ∨ 880 ≤ s.mysko.junction) (hs : s.mysko.stopped = false)
    (ha : allAbsent s = true) :
    exec .thermalTrip s = .next ((errorRecord ((endAllContexts s).onMysko fun m => { m with tripped := true }) 3 6 0 15 0 0).onMysko
      fun m => { m with stopped := true }) := by
  show execThermalTrip s = _
  unfold execThermalTrip
  dsimp only
  rw [hs, ha, if_pos rfl]
  refine eventIf_next.mpr ⟨?_, rfl⟩
  cases htripped : s.mysko.tripped with
  | true => simp
  | false => simpa [htripped] using ht

theorem exec_timeExchange_near {offset : Int} (hf : s.fabric.formed = true) (hi : s.fabric.index ≠ 0) (ht : s.tick % 100000 = 0)
    (h1 : -100 ≤ offset) (h2 : offset ≤ 100) :
    exec (.timeExchange offset) s = .next (s.onMysko fun m =>
      { m with offset := offset, slew := -offset, alerted := false, offsetSince := none }) := by
  have hfar : (decide (100 < offset) || decide (offset < -100)) = false := by
    rw [decide_eq_false (by omega), decide_eq_false (by omega)]
    rfl
  show execTimeExchange offset s = _
  unfold execTimeExchange
  dsimp only
  rw [hfar]
  exact eventIf_next.mpr ⟨by simp [slews, hf, hi, ht], rfl⟩

theorem exec_timeOffsetAlert_late {t : Nat} (hf : s.fabric.formed = true) (hi : s.fabric.index ≠ 0) (ha : s.mysko.alerted = false)
    (hs : s.mysko.offsetSince = some t) (ht : t + 10000000 < s.tick) :
    exec .timeOffsetAlert s = .next (errorRecord (setEvent (s.onMysko fun m => { m with alerted := true }) 3) 2 6 0 15 0 0) := by
  show execTimeOffsetAlert s = _
  unfold execTimeOffsetAlert
  rw [hs]
  exact eventIf_next.mpr ⟨by simp [slews, hf, hi, ha, ht], rfl⟩

end

/-- Settles O38: each command has its effect where its checks pass, and each event its condition. -/
theorem bringupEventsComplete : Obligations.BringupEventsComplete := by
  unfold Obligations.BringupEventsComplete
  intro s
  refine ⟨?_, ?_, ?_, ?_, ?_, ?_, ?_, ?_, ?_, ?_, ?_, ?_⟩
  · exact fun _ h => ⟨fun _ _ _ => exec_fwStage_served h, fun _ _ => exec_powerSet_inRange h⟩
  · exact fun _ h _ _ _ => exec_fwStage_recovery h
  · exact fun _ => exec_serviceFull_ready
  · intro slot h
    refine ⟨?_, ?_, ?_⟩
    · intro index count map floors hl hc hi hm hf lanes ps hok
      exact ⟨exec_domainForm_formed h hl hc hi hm hf hok, fun _ => exec_domainForm_mismatch h hl hc hi hm hf hok⟩
    · exact exec_domainLeave_idle h
    · exact fun _ _ => exec_uePort_passed h
  · exact ⟨fun _ => exec_powerOnReset_started, exec_powerOnReset_recovery⟩
  · exact exec_stack0Trained_boot
  · exact fun _ _ => exec_bringupComplete_open
  · exact fun _ _ _ => exec_powerSample_due
  · exact exec_thermalTrip_ends
  · exact exec_thermalTrip_stops
  · exact fun _ => exec_timeExchange_near
  · exact fun _ => exec_timeOffsetAlert_late

end Sys2Proof.Machine

end

/-! ### Records, the error log, traces and the debugger (R351, R432 to R456): completion -/

section

namespace Sys2Proof.Machine

open Sys2Proof.Safety

/-! Records and the identity block (R437 to R444). -/

section

variable {s : State} {slot : Nat} (h : Commanded s slot served)
include h

/-- A snapshot holds the context's counters, their saturation mask and the tick (R437). -/
theorem exec_hmRead_created {c : Nat} (hc : c < 16) (hcr : (getCtx s c).created = true) :
    ∃ ws, exec (.hmRead slot c) s = .next (mailReply s slot ws) ∧ (0x010, (getCtx s c).satMask) ∈ ws ∧
      (0x218, BitVec.ofNat 64 s.tick) ∈ ws ∧ ∀ n < 64, (0x018 + 8 * n, BitVec.ofNat 64 ((getCtx s c).counters.getD n 0)) ∈ ws := by
  refine ⟨[(0x010, (getCtx s c).satMask)] ++
    ((List.range 64).map fun n => (0x018 + 8 * n, BitVec.ofNat 64 ((getCtx s c).counters.getD n 0))) ++
    [(0x218, BitVec.ofNat 64 s.tick)], ?_, ?_, ?_, ?_⟩
  · show command s slot served (createdStatus s c) _ = _
    rw [createdStatus_zero hc hcr]
    exact command_next _ h
  · exact List.mem_append_left _ (List.mem_append_left _ (List.mem_singleton.mpr rfl))
  · exact List.mem_append_right _ (List.mem_singleton.mpr rfl)
  · intro n hn
    exact List.mem_append_left _ (List.mem_append_right _ (List.mem_map.mpr ⟨n, List.mem_range.mpr hn, rfl⟩))

/-- A request whose checks pass enters Mysko's queue where it has room (R444). -/
theorem queueSeal_room (q : SealReq) (hn : s.mysko.seals.length < 64) :
    queueSeal s slot 0 q = .next (mailTake (s.onMysko fun m => { m with seals := m.seals ++ [q] }) slot) := by
  unfold queueSeal
  rw [if_neg (by rintro ⟨-, -, h64⟩; omega)]
  exact command_next _ h

theorem exec_hmSeal_queued {c : Nat} {dst : Dword} (hc : c < 16) (hcr : (getCtx s c).created = true)
    (hn : s.mysko.seals.length < 64) (hd : destOk s dst 5632 = true) : exec (.hmSeal slot c dst) s =
      .next (mailTake (s.onMysko fun m => { m with seals := m.seals ++ [.hmSeal slot c dst] }) slot) := by
  show execHmSeal slot c dst s = _
  unfold execHmSeal
  dsimp only
  rw [createdStatus_zero hc hcr, hd, if_neg (not_not.mpr rfl), if_pos rfl]
  exact queueSeal_room h _ hn

theorem exec_domAttest_queued {c : Nat} {dst : Dword} (hc : c < 16) (hcr : (getCtx s c).created = true)
    (hn : s.mysko.seals.length < 64) (hd : destOk s dst (membershipSize (getCtx s c).memberKeys.length + 4632) = true) :
    exec (.domAttest slot c dst) s =
      .next (mailTake (s.onMysko fun m => { m with seals := m.seals ++ [.domAttest slot c dst] }) slot) := by
  show execDomAttest slot c dst s = _
  unfold execDomAttest
  dsimp only
  rw [createdStatus_zero hc hcr, hd, if_neg (not_not.mpr rfl), if_pos rfl]
  exact queueSeal_room h _ hn

omit h in
@[simp] theorem length_fitBytes (n : Nat) (bs : List Byte) : (fitBytes n bs).length = n := by
  simp only [fitBytes, List.length_take, List.length_append, List.length_replicate]
  omega

theorem exec_idRead_room {dst : Dword} (hd : destOk s dst 7235 = true) :
    exec (.idRead slot dst) s = .next (mailDone (physWrite s dst.toNat
      (fitBytes 2592 Config.identityKey ++ fitBytes 16 Config.serial ++ fitBytes 4627 Config.endorsement)) slot 0) := by
  show execIdRead slot dst s = _
  unfold execIdRead
  dsimp only
  rw [List.length_append, List.length_append, length_fitBytes, length_fitBytes, length_fitBytes, if_pos hd]
  exact command_next _ h

theorem exec_errRead_room {dst : Dword} {n : Nat} (hn : n ≠ 0) (hle : n ≤ 1024) (hd : destOk s dst (32 * n) = true) :
    exec (.errRead slot dst n) s = .next (mailDone
      ((physWrite s dst.toNat ((s.mysko.log.reverse.take n).flatMap ErrRec.bytes)).onMysko fun m => { m with log := [], lost := 0 })
      slot (s.mysko.lost * 2 ^ 8)) := by
  show execErrRead slot dst n s = _
  unfold execErrRead
  dsimp only
  rw [if_neg (by simp [hn, hle, hd])]
  exact command_next _ h

/-! The trace of a core and a context's debug state (R452, R453). -/

theorem exec_traceSet_passed {core cap shift : Nat} {base : Dword} (hc : core < 160) (h4 : base.toNat % 4096 = 0)
    (hb : 4096 ≤ base.toNat) (h7 : 7 ≤ cap) (h20 : cap ≤ 20) (hp : physOk s base.toNat (32 * 2 ^ cap) = true)
    (hs : shift = 0 ∨ (10 ≤ shift ∧ shift ≤ 20)) :
    exec (.traceSet slot core base cap shift) s = .next (mailDone (updCore (physWrite s (base.toNat - 8) (leBytes 4 0)) core fun k =>
      { k with ringBase := base.toNat, ringLog := cap, ringOn := true, ringIndex := 0, shift := shift, needFull := true }) slot 0) := by
  have hshift : (shift == 0 || (decide (10 ≤ shift) && decide (shift ≤ 20))) = true := by simpa using hs
  show execTraceSet slot core base cap shift s = _
  unfold execTraceSet
  dsimp only
  rw [hshift, hp, if_neg (by simp [hc, h4, hb, h7, h20])]
  exact command_next _ h

theorem exec_debugSet_on {c : Nat} {base : Dword} (hc : c < 16)
    (hst : (getCtx s c).st = .live ∨ (getCtx s c).st = .stopping ∨ (getCtx s c).st = .stopped) (h4 : base.toNat % 4096 = 0)
    (hp : physOk s base.toNat 4096 = true) :
    exec (.debugSet slot c true base) s = .next (mailDone
      (updCtx s c fun x => { x with debug := true, debugBase := base.toNat, debugIndex := 0 }) slot 0) := by
  show execDebugSet slot c true base s = _
  unfold execDebugSet
  dsimp only
  rw [if_neg (by simp [hc, h4, hp]), stateStatus_zero hc (by simpa using hst)]
  exact command_next _ h

/-! The debugger's commands (R456). -/

section

variable {c index entry : Nat} {stream : Stream} {g : Group} (hg : debugGroup s c index stream = some g)
  (hst : pathStatus s c index stream entry = 0)
include hg hst

theorem exec_debugStop_busy (hd : (getCtx s c).debug = true) (hs : (g.path entry).stopped = false)
    (hb : pathBusy s g.gid entry = true) : exec (.debugStop slot c index stream entry) s =
      .next (mailDone (updPath s g.gid entry fun p => { p with stopAsked := true }) slot 0) := by
  show execDebugStop slot c index stream entry s = _
  unfold execDebugStop
  dsimp only
  rw [hst, if_neg (not_not.mpr rfl), if_pos hd, hg]
  dsimp only
  rw [hs, if_neg Bool.false_ne_true, if_pos hb]
  exact command_next _ h

omit h hg hst in
/-- A stop changes no pair. -/
theorem debugStop_pairs (s : State) (gid entry n : Nat) (pc : Dword) : (debugStop s gid entry n pc).exec.pairs = s.exec.pairs := by
  have hevent : ∀ (s : State) bit, (setEvent s bit).exec = s.exec := by
    intro s bit
    unfold setEvent sendMsix
    split <;> rfl
  unfold debugStop
  split
  · rfl
  · unfold stopRecord
    dsimp only
    rw [hevent, updCtx_exec, physWrite_exec]
    rfl

omit h hg hst in
/-- A resident group has no word in a save area. -/
theorem savedPathWord_resident {t : State} (hr : residentGroup t g = true) : savedPathWord t g entry = none := by
  unfold residentGroup at hr
  unfold savedPathWord
  cases hp : findPair t g.pair with
  | none => rfl
  | some p =>
    rw [hp] at hr
    have hres : p.resident = true := hr
    rw [Option.bind_some, hres]
    rfl

omit h hg hst in
theorem savedPathWord_unsaved {t : State} (ha : (findPair t g.pair).bind (·.area) = none) : savedPathWord t g entry = none := by
  unfold savedPathWord
  cases hp : findPair t g.pair with
  | none => rfl
  | some p =>
    rw [hp] at ha
    have harea : p.area = none := ha
    rw [Option.bind_some, harea, ite_self]
    rfl

/-- A path of a resident group that stands at a boundary stops there. -/
theorem exec_debugStop_resident (hd : (getCtx s c).debug = true) (hs : (g.path entry).stopped = false)
    (hb : pathBusy s g.gid entry = false) (hr : residentGroup s g = true) : exec (.debugStop slot c index stream entry) s =
      .next (mailDone (debugStop s g.gid entry (2 ^ 32 - 1) (g.path entry).pc) slot 0) := by
  have hres : residentGroup (debugStop s g.gid entry (2 ^ 32 - 1) (g.path entry).pc) g = true := by
    unfold residentGroup findPair at hr ⊢
    rw [debugStop_pairs]
    exact hr
  show execDebugStop slot c index stream entry s = _
  unfold execDebugStop
  dsimp only
  rw [hst, if_neg (not_not.mpr rfl), if_pos hd, hg]
  dsimp only
  rw [hs, hb, if_neg Bool.false_ne_true, if_neg Bool.false_ne_true, savedPathWord_resident hres]
  exact command_next _ h

theorem exec_debugRelease_unsaved (hs : (g.path entry).stopped = true) (ha : (findPair s g.pair).bind (·.area) = none)
    (hp : stream ≠ .press) : exec (.debugRelease slot c index stream entry) s =
      .next (mailDone (updPath s g.gid entry fun p => { p with st := .ready, stopped := false }) slot 0) := by
  have harea : savedPathWord (updPath s g.gid entry fun p => { p with st := .ready, stopped := false }) g entry = none :=
    savedPathWord_unsaved ha
  show execDebugRelease slot c index stream entry s = _
  unfold execDebugRelease
  rw [if_neg hp]
  dsimp only
  rw [hg]
  dsimp only
  rw [hst, harea, if_neg (not_not.mpr rfl), if_pos hs]
  exact command_next _ h

theorem exec_debugDump_unsaved {dst : Dword} (hs : (g.path entry).stopped = true) (ha : (findPair s g.pair).bind (·.area) = none)
    (hd : destOk s dst (partSize g) = true) : exec (.debugDump slot c index stream entry dst) s = .next (mailDone
      (writeChunks (zeroRange s dst.toNat (partSize g)) dst.toNat
        (partChunks g (((findPair s g.pair).map (·.lod)).getD 0))) slot 0) := by
  show execDebugDump slot c index stream entry dst s = _
  unfold execDebugDump
  rw [hg]
  dsimp only
  rw [hst, hd, hs, savedPathWord_unsaved ha, if_neg (not_not.mpr rfl), if_neg (by decide), if_pos rfl]
  exact command_next _ h

end

end

/-! Mysko's queue of seals (R351, R442, R444). -/

section

variable {s : State} {qs : List SealReq}

theorem exec_sealPerform_group {id : Nat} {o : Op} {signal : Dword} (hq : s.mysko.seals = .hmseal id :: qs)
    (ho : findOp s id = some o) (hk : o.kind = .hmseal signal) (hafter : o.after.all (opPerformed s) = true) :
    exec .sealPerform s = .next (sealGroup (s.onMysko fun m => { m with seals := qs }) o signal) := by
  show execSealPerform s = _
  unfold execSealPerform
  rw [hq]
  dsimp only
  rw [ho]
  dsimp only
  rw [hk]
  exact if_pos hafter

theorem exec_sealPerform_hallmark {slot c : Nat} {dst : Dword} (hq : s.mysko.seals = .hmSeal slot c dst :: qs) :
    let n := s.mysko.sequence + 1
    let u := (s.onMysko fun m => { m with seals := qs }).onMysko fun m => { m with sequence := n }
    exec .sealPerform s = .next (mailDone (updCtx (physWrite u dst.toNat (hallmarkBytes u c n)) c fun x =>
      { x with prevSeq := n }) slot 0) := by
  intro n u
  show execSealPerform s = _
  unfold execSealPerform
  rw [hq]
  rfl

theorem exec_sealPerform_membership {slot c : Nat} {dst : Dword} (hq : s.mysko.seals = .domAttest slot c dst :: qs) :
    let n := s.mysko.sequence + 1
    let u := (s.onMysko fun m => { m with seals := qs }).onMysko fun m => { m with sequence := n }
    exec .sealPerform s = .next (mailDone (physWrite u dst.toNat (membershipBytes u c n)) slot 0) := by
  intro n u
  show execSealPerform s = _
  unfold execSealPerform
  rw [hq]
  rfl

/-! Errors, the trace ring and samples (R446, R447, R453, R454). -/

section

variable {r : ErrReport} (h1 : 1 ≤ r.kind) (h6 : r.kind ≤ 6) (hs1 : 1 ≤ r.struct) (hs7 : r.struct ≤ 7) (hu : r.unit < 2 ^ 16)
  (hc : r.ctx < 16) (hp : s.mysko.phase ≠ .boot)
include h1 h6 hs1 hs7 hu hc hp

theorem exec_errorReport_transient (hcls : r.cls = 2) :
    exec (.errorReport r) s = .next (errorRecord s r.cls r.kind r.unit r.ctx r.addr r.struct) := by
  show execErrorReport r s = _
  unfold execErrorReport
  dsimp only
  rw [if_neg (by simpa [hcls, h1, h6, hs1, hs7, hc, hp] using hu), if_neg (by omega), if_pos hcls]

/-- A lasting error is logged, and its unit fenced (R446, R447). -/
theorem exec_errorReport_lasting (hcls : r.cls = 3) :
    exec (.errorReport r) s = .next (fence (errorRecord s r.cls r.kind r.unit r.ctx r.addr r.struct) r) := by
  show execErrorReport r s = _
  unfold execErrorReport
  dsimp only
  rw [if_neg (by simpa [hcls, h1, h6, hs1, hs7, hc, hp] using hu), if_neg (by omega), if_neg (by omega)]

end

theorem exec_traceDrain_due {core : Nat} {t : State} (h : drainOne s core = some t) : exec (.traceDrain core) s = .next t := by
  show event (drainOne s core) = _
  rw [h]
  rfl

theorem exec_traceSample_due {core : Nat} (hc : core < 160) (hsh : (getCore s core).shift ≠ 0)
    (hcyc : s.exec.cycle % 2 ^ (getCore s core).shift = 0) (hsamp : (getCore s core).sampledAt ≠ some s.exec.cycle) :
    exec (.traceSample core) s = .next (updCore ((List.range 5).foldl (fun s u => sampleUnit s core u)
      { s with issuer := s.issuer.filter fun x => x.1 != core || 4 < x.2 }) core fun k =>
      { k with sampledAt := some s.exec.cycle }) := by
  show execTraceSample core s = _
  unfold execTraceSample
  exact eventIf_next.mpr ⟨by simp [hc, hsh, hcyc, hsamp], rfl⟩

end

/-- Settles O39: each command has its effect where its checks pass, and each event its condition. -/
theorem recordEventsComplete : Obligations.RecordEventsComplete := by
  unfold Obligations.RecordEventsComplete
  intro s
  refine ⟨?_, ?_, ?_, ?_, ?_⟩
  · intro slot h
    refine ⟨?_, ?_, ?_, ?_, ?_, ?_⟩
    · intro c hc hcr
      refine ⟨exec_hmRead_created h hc hcr, fun hn dst => ⟨?_, ?_⟩⟩
      · exact exec_hmSeal_queued h hc hcr hn
      · exact exec_domAttest_queued h hc hcr hn
    · exact fun _ => exec_idRead_room h
    · exact fun _ _ => exec_errRead_room h
    · exact fun _ _ _ _ => exec_traceSet_passed h
    · exact fun _ _ => exec_debugSet_on h
    · intro c index stream entry g hg hst
      refine ⟨?_, ?_⟩
      · intro hd hs
        exact ⟨exec_debugStop_busy h hg hst hd hs, fun hb _ => exec_debugStop_resident h hg hst hd hs hb⟩
      · intro hs ha
        exact ⟨exec_debugRelease_unsaved h hg hst hs ha, fun _ => exec_debugDump_unsaved h hg hst hs ha⟩
  · intro q qs hq
    refine ⟨?_, ?_, ?_⟩
    · rintro id o signal rfl
      exact exec_sealPerform_group hq
    · rintro slot c dst rfl
      exact exec_sealPerform_hallmark hq
    · rintro slot c dst rfl
      exact exec_sealPerform_membership hq
  · intro r h1 h6 hs1 hs7 hu hc hp
    exact ⟨exec_errorReport_transient h1 h6 hs1 hs7 hu hc hp, exec_errorReport_lasting h1 h6 hs1 hs7 hu hc hp⟩
  · exact fun _ _ => exec_traceDrain_due
  · exact fun _ => exec_traceSample_due

end Sys2Proof.Machine

end

/-! ### Elements: packed lanes, wrapping and saturation (R244, R245, R247) -/

section

namespace Sys2Proof.Machine

open Sys2Proof.Safety

/-! Elements packed in a lane (R244). -/

/-- The value of `n` elements of `k` bits, the first one lowest. -/
def packed (k : Nat) (f : Nat → Nat) (n : Nat) : Nat := (List.range n).foldl (fun r j => r + f j * 2 ^ (k * j)) 0

theorem packed_succ (k : Nat) (f : Nat → Nat) (n : Nat) : packed k f (n + 1) = packed k f n + f n * 2 ^ (k * n) := by
  simp [packed, List.range_succ]

section

variable {k : Nat} {f : Nat → Nat} (hf : ∀ j, f j < 2 ^ k)
include hf

theorem packed_lt (n : Nat) : packed k f n < 2 ^ (k * n) := by
  induction n with
  | zero => simp [packed]
  | succ n ih =>
    rw [packed_succ]
    calc packed k f n + f n * 2 ^ (k * n)
        < 2 ^ (k * n) + f n * 2 ^ (k * n) := Nat.add_lt_add_right ih _
      _ = (f n + 1) * 2 ^ (k * n) := by ring
      _ ≤ 2 ^ k * 2 ^ (k * n) := Nat.mul_le_mul_right _ (hf n)
      _ = 2 ^ (k * (n + 1)) := by rw [← Nat.pow_add]; congr 1; ring

/-- An element read back from a packed lane. -/
theorem bitsNat_packed {n j : Nat} (hj : j < n) : bitsNat (packed k f n) (k * j) k = f j := by
  unfold bitsNat
  rw [Nat.shiftRight_eq_div_pow]
  induction n with
  | zero => exact absurd hj (Nat.not_lt_zero j)
  | succ n ih =>
    rw [packed_succ]
    rcases Nat.lt_succ_iff_lt_or_eq.mp hj with h | rfl
    · obtain ⟨d, rfl⟩ := Nat.exists_eq_add_of_lt h
      have hsplit : f (j + d + 1) * 2 ^ (k * (j + d + 1)) = f (j + d + 1) * 2 ^ (k * d) * 2 ^ k * 2 ^ (k * j) := by ring
      rw [hsplit, Nat.add_mul_div_right _ _ (Nat.two_pow_pos _), Nat.add_mul_mod_self_right]
      exact ih h
    · rw [Nat.add_mul_div_right _ _ (Nat.two_pow_pos _), Nat.div_eq_of_lt (packed_lt hf j), Nat.zero_add]
      exact Nat.mod_eq_of_lt (hf j)

end

section

variable {fmt : BitVec 5} {w : Nat}

/-- The elements of a code fill a lane of 32 bits, or where there is one, the lane. -/
theorem elemWidth_mul_elemCount (hw : w = 32 ∨ w = 64) :
    elemWidth fmt w * elemCount fmt ≤ 64 ∧ (w = 32 → elemWidth fmt w * elemCount fmt = 32) := by
  unfold elemWidth elemCount
  split
  · simp
  split
  · simp
  · omega

/-- Element `j` of a lane's result: the operation on the same elements of three lanes, cut to its width. -/
def elemResult (fmt : BitVec 5) (w : Nat) (op : Nat → Nat → Nat → Nat → Nat) (a b c : Dword) (j : Nat) : Nat :=
  let k := elemWidth fmt w
  op k (bitsNat a.toNat (k * j) k) (bitsNat b.toNat (k * j) k) (bitsNat c.toNat (k * j) k) % 2 ^ k

variable (op : Nat → Nat → Nat → Nat → Nat) (a b c : Dword)

theorem elemResult_lt (j : Nat) : elemResult fmt w op a b c j < 2 ^ elemWidth fmt w := Nat.mod_lt _ (Nat.two_pow_pos _)

/-- A lane computed element by element holds its results packed. -/
theorem toNat_elemMap (hw : w = 32 ∨ w = 64) :
    (elemMap fmt w op a b c).toNat = packed (elemWidth fmt w) (elemResult fmt w op a b c) (elemCount fmt) := by
  unfold elemMap
  rw [BitVec.toNat_ofNat]
  refine Nat.mod_eq_of_lt (Nat.lt_of_lt_of_le (packed_lt (elemResult_lt op a b c) (elemCount fmt)) ?_)
  exact Nat.pow_le_pow_right (by decide) (elemWidth_mul_elemCount hw).1

end

/-! Wrapping and saturation (R129, R245). -/

theorem natCast_wrapInt (k : Nat) (z : Int) : ((wrapInt k z : Nat) : Int) = z % 2 ^ k := by
  unfold wrapInt
  rw [Int.toNat_of_nonneg (Int.emod_nonneg _ (by positivity))]
  norm_cast

theorem wrapInt_lt (k : Nat) (z : Int) : wrapInt k z < 2 ^ k := by
  have h : ((wrapInt k z : Nat) : Int) < 2 ^ k := by
    rw [natCast_wrapInt]
    exact Int.emod_lt_of_pos _ (by positivity)
  exact_mod_cast h

/-- An unsigned value of the range keeps its value. -/
theorem elemVal_unsigned_wrapInt {k : Nat} {z : Int} (h0 : 0 ≤ z) (h1 : z ≤ 2 ^ k - 1) : elemVal k false (wrapInt k z) = z := by
  show ((wrapInt k z % 2 ^ k : Nat) : Int) = z
  rw [Nat.mod_eq_of_lt (wrapInt_lt k z), natCast_wrapInt]
  exact Int.emod_eq_of_lt h0 (by omega)

/-- A signed value of the range keeps its value. -/
theorem elemVal_signed_wrapInt {k : Nat} {z : Int} (hk : k ≠ 0) (h0 : -2 ^ (k - 1) ≤ z) (h1 : z ≤ 2 ^ (k - 1) - 1) :
    elemVal k true (wrapInt k z) = z := by
  have hpow : (2 : Int) ^ k = 2 * 2 ^ (k - 1) := by rw [← pow_succ', Nat.sub_add_cancel (Nat.one_le_iff_ne_zero.mpr hk)]
  have hpos : (0 : Int) < 2 ^ (k - 1) := by positivity
  have hcast := natCast_wrapInt k z
  show sextNat k (wrapInt k z) = z
  unfold sextNat
  dsimp only
  rw [Nat.mod_eq_of_lt (wrapInt_lt k z)]
  by_cases hz : 0 ≤ z
  · rw [Int.emod_eq_of_lt hz (by omega)] at hcast
    have hlow : ¬ 2 ^ (k - 1) ≤ wrapInt k z := by
      zify
      omega
    rw [if_neg (fun h => hlow h.2), hcast]
  · have hemod : z % 2 ^ k = z + 2 ^ k := by
      rw [← Int.add_emod_right]
      exact Int.emod_eq_of_lt (by omega) (by omega)
    rw [hemod] at hcast
    have hhigh : 2 ^ (k - 1) ≤ wrapInt k z := by
      zify
      omega
    rw [if_pos ⟨hk, hhigh⟩, hcast]
    push_cast
    omega

/-- A saturated result is the value of the element's range nearest to the exact one (R245). -/
theorem elemVal_narrowInt_saturated {k : Nat} (signed : Bool) (z : Int) (hk : k ≠ 0) :
    elemVal k signed (narrowInt k signed true z) =
      max (if signed then -2 ^ (k - 1) else 0) (min (if signed then 2 ^ (k - 1) - 1 else 2 ^ k - 1) z) := by
  have hclamp : IntFmt.clamp ⟨k, signed⟩ z =
      max (if signed then -2 ^ (k - 1) else 0) (min (if signed then 2 ^ (k - 1) - 1 else 2 ^ k - 1) z) := by
    unfold IntFmt.clamp IntFmt.minVal IntFmt.maxVal
    push_cast
    rfl
  have hlow : (0 : Int) < 2 ^ (k - 1) := by positivity
  have hhigh : (0 : Int) < 2 ^ k := by positivity
  show elemVal k signed (wrapInt k (IntFmt.clamp ⟨k, signed⟩ z)) = _
  rw [hclamp]
  cases signed with
  | true =>
    simp only [if_true]
    exact elemVal_signed_wrapInt hk (by omega) (by omega)
  | false =>
    simp only [Bool.false_eq_true, if_false]
    exact elemVal_unsigned_wrapInt (by omega) (by omega)

/-- Settles O47: a lane is its elements packed, each cut to its width, and wrapping and clamping keep the values of the range. -/
theorem elementResults : Obligations.ElementResults := by
  unfold Obligations.ElementResults
  refine ⟨?_, ?_⟩
  · intro fmt w op a b c i j hw hi hj
    dsimp only
    have hget : (lanes3 fmt w op a b c).get i = elemMap fmt w op (a.get i) (b.get i) (c.get i) := Lanes.get_build _ hi
    rw [hget, toNat_elemMap _ _ _ _ hw]
    refine ⟨bitsNat_packed (elemResult_lt _ _ _ _) hj, fun h32 => ?_⟩
    have hlt := packed_lt (elemResult_lt (fmt := fmt) (w := w) op (a.get i) (b.get i) (c.get i)) (elemCount fmt)
    rwa [(elemWidth_mul_elemCount hw).2 h32] at hlt
  · intro k signed z hk
    exact ⟨natCast_wrapInt k z, elemVal_narrowInt_saturated signed z (by omega)⟩

end Sys2Proof.Machine

end

/-! ### Frames of performed stores, and of the issue of a scratchpad store (R77 to R82, R88, R94, R98, R99, R111, R280, R284) -/

section

namespace Sys2Proof.Machine

open Sys2Proof.Safety

/-! What the bookkeeping of operations keeps: memory, scratchpad and the registers of every group. -/

/-- A group whose registers, predicates, paths and trap registers are another's. -/
structure RegsKept (g u : Group) : Prop where
  vregs : u.vregs = g.vregs
  sregs : u.sregs = g.sregs
  preds : u.preds = g.preds
  paths : u.paths = g.paths
  trap : u.trap = g.trap

/-- A state that differs from another in no byte of memory or scratchpad and in no register of a group. -/
structure DataKept (s t : State) : Prop where
  mem : t.mem = s.mem
  memory : t.memory = s.memory
  mysko : t.mysko = s.mysko
  allocs : t.exec.allocs = s.exec.allocs
  groups : ∀ gid g, findGroup s gid = some g → ∃ u, findGroup t gid = some u ∧ RegsKept g u

theorem RegsKept.trans {g u v : Group} (h : RegsKept g u) (k : RegsKept u v) : RegsKept g v :=
  ⟨k.vregs.trans h.vregs, k.sregs.trans h.sregs, k.preds.trans h.preds, k.paths.trans h.paths, k.trap.trans h.trap⟩

/-- A step that changes neither memory, nor an allocation, nor a group. -/
theorem DataKept.of_groups {s t : State} (hm : t.mem = s.mem) (hmem : t.memory = s.memory) (hk : t.mysko = s.mysko)
    (ha : t.exec.allocs = s.exec.allocs) (hg : t.exec.groups = s.exec.groups) : DataKept s t :=
  ⟨hm, hmem, hk, ha, fun gid g h => ⟨g, by unfold findGroup at h ⊢; rw [hg]; exact h, rfl, rfl, rfl, rfl, rfl⟩⟩

theorem DataKept.refl (s : State) : DataKept s s := .of_groups rfl rfl rfl rfl rfl

theorem DataKept.trans {s t u : State} (h : DataKept s t) (k : DataKept t u) : DataKept s u := by
  refine ⟨k.mem.trans h.mem, k.memory.trans h.memory, k.mysko.trans h.mysko, k.allocs.trans h.allocs, fun gid g hg => ?_⟩
  obtain ⟨v, hv, hgv⟩ := h.groups gid g hg
  obtain ⟨w, hw, hvw⟩ := k.groups gid v hv
  exact ⟨w, hw, hgv.trans hvw⟩

theorem DataKept.foldl {α : Type} {f : State → α → State} (hf : ∀ s x, DataKept s (f s x)) (xs : List α) (s : State) :
    DataKept s (xs.foldl f s) := by
  induction xs generalizing s with
  | nil => exact .refl s
  | cons x xs ih => exact (hf s x).trans (ih _)

theorem DataKept.updGroup {s : State} {gid : Nat} {f : Group → Group} (hid : ∀ g, (f g).gid = g.gid) (hf : ∀ g, RegsKept g (f g)) :
    DataKept s (updGroup s gid f) := by
  refine ⟨rfl, rfl, rfl, rfl, fun n g hg => ⟨if n = gid then f g else g, ?_, ?_⟩⟩
  · rw [findGroup_updGroup s gid n f hid, hg]
    rfl
  · split
    · exact hf g
    · exact ⟨rfl, rfl, rfl, rfl, rfl⟩

/-- Equal bytes of memory and equal lines read alike. -/
theorem physByte_congr {s t : State} (hm : t.mem = s.mem) (hmem : t.memory = s.memory) (hk : t.mysko = s.mysko) : SameMemory s t := by
  intro a
  unfold physByte frameLine State.memRead
  rw [hm, hmem, hk]

section

variable (s : State)

theorem dropOp_dataKept (id : Nat) : DataKept s (dropOp s id) := .of_groups rfl rfl rfl rfl rfl

theorem updOp_dataKept (id : Nat) (f : Op → Op) : DataKept s (updOp s id f) := .of_groups rfl rfl rfl rfl rfl

theorem sendOut_dataKept (peer kind : Nat) (ws : List Nat) : DataKept s (sendOut s peer kind ws) := .of_groups rfl rfl rfl rfl rfl

theorem assayAdd_dataKept (c n d : Nat) : DataKept s (assayAdd s c n d) := .of_groups rfl rfl rfl rfl rfl

theorem flitsOn_dataKept (peer set n : Nat) (r : Bool) : DataKept s (flitsOn s peer set n r) := .of_groups rfl rfl rfl rfl rfl

theorem linkSend_dataKept (c peer line channel n : Nat) : DataKept s (linkSend s c peer line channel n) := by
  unfold linkSend
  split
  · exact .refl s
  · split
    · exact .refl s
    · dsimp only
      split
      · split
        · exact .of_groups rfl rfl rfl rfl rfl
        · exact (assayAdd_dataKept s _ _ _).trans (flitsOn_dataKept _ _ _ _ _)
      · exact (assayAdd_dataKept s _ _ _).trans (flitsOn_dataKept _ _ _ _ _)

theorem sendLink_dataKept (c peer line channel n kind : Nat) (ws : List Nat) :
    DataKept s (sendOut (linkSend s c peer line channel n) peer kind ws) :=
  (linkSend_dataKept s _ _ _ _ _).trans (sendOut_dataKept _ _ _ _)

theorem ocLower_dataKept (gid : Nat) (c : OcClass) : DataKept s (ocLower s gid c) :=
  .updGroup (fun _ => rfl) fun _ => ⟨rfl, rfl, rfl, rfl, rfl⟩

theorem ocRaise_dataKept (gid : Nat) (c : OcClass) : DataKept s (ocRaise s gid c) :=
  .updGroup (fun _ => rfl) fun _ => ⟨rfl, rfl, rfl, rfl, rfl⟩

theorem settleClass_dataKept (gid : Nat) (c : OcClass) : DataKept s (settleClass s gid c) :=
  .foldl (fun s _ => (dropOp_dataKept s _).trans (ocLower_dataKept _ _ _)) _ s

theorem finishOp_dataKept (id : Nat) : DataKept s (finishOp s id) := by
  unfold finishOp
  split
  · exact .refl s
  · split
    · exact .refl s
    · split
      · exact dropOp_dataKept s id
      · exact settleClass_dataKept s _ _

theorem rejectTail_dataKept (o : Op) : DataKept s (rejectTail s o) := by
  unfold rejectTail
  dsimp only
  split
  · exact .refl s
  · exact .foldl (fun s _ => (sendLink_dataKept s _ _ _ _ _ _ _).trans (dropOp_dataKept _ _)) _ s

theorem answerRemote_dataKept (id : Nat) : DataKept s (answerRemote s id) := by
  have hsend : ∀ (p : Prop) [Decidable p] (o : Op) (n : Nat) (ws : List Nat),
      DataKept s (if p then sendOut (linkSend s o.ctx o.from_ o.line 0 n) o.from_ 6 ws else s) := by
    intro p _ o n ws
    split
    · exact sendLink_dataKept s _ _ _ _ _ _ _
    · exact .refl s
  unfold answerRemote
  split
  · exact .refl s
  · split
    · exact .refl s
    · dsimp only
      split
      · exact (hsend _ _ _ _).trans (dropOp_dataKept _ _)
      · split
        · exact ((hsend _ _ _ _).trans (sendLink_dataKept _ _ _ _ _ _ _ _)).trans (dropOp_dataKept _ _)
        · exact ((hsend _ _ _ _).trans (sendLink_dataKept _ _ _ _ _ _ _ _)).trans
            ((updOp_dataKept _ _ _).trans (rejectTail_dataKept _ _))

theorem releaseEntries_dataKept : DataKept s (releaseEntries s) := .of_groups rfl rfl rfl rfl rfl

/-- What follows a performed access: its operation ends, its device hears of it, and entries held behind it are released. -/
theorem accessEnd_dataKept (id : Nat) : DataKept s (releaseEntries (answerRemote (finishOp s id) id)) :=
  ((finishOp_dataKept s id).trans (answerRemote_dataKept _ id)).trans (releaseEntries_dataKept _)

end

/-! The issue of a scratchpad store (R284). -/

section

variable (s : State)

theorem countIssue_dataKept (sl : Slot) (i : Instr) (cancelled : Bool) : DataKept s (countIssue s sl i cancelled) := by
  obtain ⟨hm, hexec, hmem, hk, -⟩ := countIssue_other s sl i cancelled
  exact .of_groups hm hmem hk (by rw [hexec]) (by rw [hexec])

theorem popQueue_dataKept (pair q : Nat) : DataKept s (popQueue s pair q) := by
  unfold popQueue
  split
  · exact .refl s
  · split
    · exact .refl s
    · dsimp only
      split
      · exact .of_groups rfl rfl rfl rfl rfl
      · split <;> exact .of_groups rfl rfl rfl rfl rfl

theorem popPorts_dataKept (sl : Slot) (qs : List Nat) : DataKept s (popPorts s sl qs) :=
  .foldl (fun s _ => popQueue_dataKept s _ _) qs s

theorem sendRequests_dataKept (o : Op) (lanes : Mask) : DataKept s (sendRequests s o lanes) :=
  .foldl (fun s _ => sendLink_dataKept s _ _ _ _ _ _ _) _ s

theorem sendOp_dataKept (o : Op) : DataKept s (sendOp s o) := by
  unfold sendOp
  extract_lets src o' t u
  have hadded : DataKept s (addOp (fresh s).2 o') := .of_groups rfl rfl rfl rfl rfl
  have ht : DataKept s t := hadded.trans (sendRequests_dataKept _ _ _)
  have hu : DataKept s u := by
    simp only [u]
    split
    · exact ht.trans (ocRaise_dataKept _ _ _)
    · exact ht
  split
  · exact hu.trans (.updGroup (fun _ => rfl) fun _ => ⟨rfl, rfl, rfl, rfl, rfl⟩)
  · exact hu

theorem noteCause_dataKept (sl : Slot) (c : Cause) : DataKept s (noteCause s sl c) := .of_groups rfl rfl rfl rfl rfl

theorem advance_dataKept {sl : Slot} (hlast : sl.last = false) : DataKept s (advance s sl) := by
  unfold advance
  rw [hlast, if_neg Bool.false_ne_true]
  exact .of_groups rfl rfl rfl rfl rfl

/-- A word within its run that ends with its effect, or with a boundary cause, keeps what its effect keeps. -/
theorem settle_spadEnd_dataKept {t : State} {sl : Slot} {i : Instr} (bad : Mask) (addr : Nat → Int) (hlast : sl.last = false)
    (h : DataKept s t) : DataKept s (settle s sl i (spadEnd t sl bad addr)) := by
  unfold spadEnd
  split
  · unfold settle
    exact h.trans ((countIssue_dataKept _ _ _ _).trans (advance_dataKept _ hlast))
  · unfold settle
    exact h.trans ((countIssue_dataKept _ _ _ _).trans ((noteCause_dataKept _ _ _).trans (advance_dataKept _ hlast)))

end

theorem issueSpadStore_dataKept {i : Instr} {f : FmtM} {cl : Bool} {s t : State} {sl : Slot} (hi : Issues s sl i) (hlast : sl.last = false)
    (h : issueSpadStore i f cl s = .next t) : DataKept s t := by
  unfold issueSpadStore at h
  rw [issueWord_issues _ hi] at h
  cases h
  refine settle_spadEnd_dataKept s _ _ hlast ?_
  have hnoted : DataKept s (noteIssued s sl) := .of_groups rfl rfl rfl rfl rfl
  have hpopped := hnoted.trans (popPorts_dataKept (noteIssued s sl) sl (wordPorts i))
  split
  · exact hpopped
  · exact hpopped.trans (sendOp_dataKept _ _)

/-! An access performed by itself (R84, R98). -/

section

variable {s : State} {op x : Nat} {o : Op} {u : Nat × Dword × Nat}

/-- A ready access of an operation whose accesses are performed one by one, where no faulted access holds its line (R84, R126). -/
theorem exec_homeSliceAccess_one (h : findOp s op = some o) (hk : ∀ d, o.kind ≠ .copy d)
    (hone : o.withUnit s (x % 64) (x / 64) u.2 = [(x % 64, x / 64, u.2)])
    (hu : (o.unitsLeft (x % 64)).find? (fun u => u.1 == x / 64) = some u) (hr : unitReady s o (x % 64) u.2 = true)
    (hl : o.kind.spad = true ∨ lineHolder s o u.2.1 = none) :
    exec (.homeSliceAccess op x) s =
      .next (releaseEntries (answerRemote (finishOp (unitDone s op (x % 64) (x / 64) u.2) op) op)) := by
  have hid := findOp_id h
  have hsent : unitSent s o (x % 64) u.2 = true := by
    unfold unitReady at hr
    simp only [Bool.and_eq_true] at hr
    exact hr.1.1.1.1
  have hholder : (if o.kind.spad then none else lineHolder s o u.2.1) = none := by
    rcases hl with h | h
    · rw [if_pos h]
    · rw [h, ite_self]
  have haccess : homeAccess s o (x % 64) (x / 64) =
      some (releaseEntries (answerRemote (finishOp (unitDone s op (x % 64) (x / 64) u.2) op) op)) := by
    unfold homeAccess
    rw [hu]
    dsimp only
    rw [hsent, if_neg (by decide), hholder]
    dsimp only
    unfold unitsTogether
    rw [hone, List.all_cons, hr, List.all_nil, Bool.and_self, if_pos rfl, hid]
    rfl
  show execHomeSliceAccess op x s = _
  unfold execHomeSliceAccess
  rw [h]
  dsimp only
  split
  · next d hd => exact absurd hd (hk d)
  · rw [haccess]
    rfl

end

/-! Bytes of scratchpad written (R77, R79, R284). -/

theorem find?_cellPut_other {cells : List Host.Cell} {q p : Nat} {b : Byte} (h : p ≠ q) :
    (cellPut cells q b).find? (fun c => c.1 == p) = cells.find? fun c => c.1 == p := by
  have hq : (q == p) = false := by simpa using h.symm
  induction cells with
  | nil => simp [cellPut, hq]
  | cons c cells ih =>
    obtain ⟨k, v⟩ := c
    unfold cellPut
    split
    · rw [List.find?_cons, hq]
    · split
      · next hk =>
        subst hk
        rw [List.find?_cons, List.find?_cons, hq]
      · rw [List.find?_cons, List.find?_cons, ih]

/-- An allocation after a byte written to place `q` of that of `own` on core `k`. -/
def allocPut (k : Nat) (own : PlaceSrc) (q : Nat) (b : Byte) (al : Alloc) : Alloc :=
  if al.core == k && al.owner == own then { al with cells := cellPut al.cells q b } else al

section

variable {k : Nat} {own : PlaceSrc} {q : Nat} {b : Byte} {al : Alloc}

@[simp] theorem allocPut_core : (allocPut k own q b al).core = al.core := by unfold allocPut; split <;> rfl
@[simp] theorem allocPut_owner : (allocPut k own q b al).owner = al.owner := by unfold allocPut; split <;> rfl
@[simp] theorem allocPut_base : (allocPut k own q b al).base = al.base := by unfold allocPut; split <;> rfl
@[simp] theorem allocPut_size : (allocPut k own q b al).size = al.size := by unfold allocPut; split <;> rfl

/-- A byte written changes one place of one allocation. -/
theorem read_allocPut {p : Nat} (hp : al.core ≠ k ∨ al.owner ≠ own ∨ p ≠ q) : (allocPut k own q b al).read p = al.read p := by
  unfold allocPut
  split
  · next hhit =>
    simp only [Bool.and_eq_true, beq_iff_eq] at hhit
    obtain ⟨hcore, howner⟩ := hhit
    have hpq : p ≠ q := (hp.resolve_left (not_not.mpr hcore)).resolve_left (not_not.mpr howner)
    unfold Alloc.read
    dsimp only
    rw [find?_cellPut_other hpq]
  · rfl

end

theorem findAlloc_spadWrite_map (s : State) (core k mode a : Nat) (own y : PlaceSrc) (b : Byte) :
    findAlloc (spadWrite s k own mode a [b]) core y = (findAlloc s core y).map (allocPut k own (swizzle mode a) b) := by
  have hwrite : (spadWrite s k own mode a [b]).exec.allocs = s.exec.allocs.map (allocPut k own (swizzle mode a) b) := rfl
  have hkey : ((fun al : Alloc => al.core == core && al.owner == y) ∘ allocPut k own (swizzle mode a) b) =
      fun al => al.core == core && al.owner == y := by
    funext al
    simp
  unfold findAlloc
  rw [hwrite, List.find?_map, hkey]

/-- A byte of scratchpad written changes one place of the allocation found. -/
theorem findAlloc_spadWrite {s : State} {core k mode a : Nat} {own y : PlaceSrc} {b : Byte} {al : Alloc}
    (h : findAlloc s core y = some al) :
    ∃ bl, findAlloc (spadWrite s k own mode a [b]) core y = some bl ∧ bl.base = al.base ∧ bl.size = al.size ∧
      ∀ p, (core ≠ k ∨ y ≠ own ∨ p ≠ swizzle mode a) → bl.read p = al.read p := by
  have hfound := List.find?_some h
  simp only [Bool.and_eq_true, beq_iff_eq] at hfound
  obtain ⟨rfl, rfl⟩ := hfound
  exact ⟨_, by rw [findAlloc_spadWrite_map, h]; rfl, allocPut_base, allocPut_size, fun p hp => read_allocPut hp⟩

/-- Some bytes written from a program offset of an allocation, each at its place under a mode. -/
def spadStored (k : Nat) (own : PlaceSrc) (mode off : Nat) (xs : List (Nat × Byte)) (s : State) : State :=
  xs.foldl (fun s x => spadWrite s k own mode (off + x.1) [x.2]) s

section

variable (s : State) (k mode off : Nat) (own : PlaceSrc) (xs : List (Nat × Byte))

@[simp] theorem spadStored_mem : (spadStored k own mode off xs s).mem = s.mem := by
  unfold spadStored
  induction xs generalizing s with
  | nil => rfl
  | cons x xs ih => exact (ih _).trans rfl
@[simp] theorem spadStored_memory : (spadStored k own mode off xs s).memory = s.memory := by
  unfold spadStored
  induction xs generalizing s with
  | nil => rfl
  | cons x xs ih => exact (ih _).trans rfl
@[simp] theorem spadStored_mysko : (spadStored k own mode off xs s).mysko = s.mysko := by
  unfold spadStored
  induction xs generalizing s with
  | nil => rfl
  | cons x xs ih => exact (ih _).trans rfl
@[simp] theorem spadStored_groups : (spadStored k own mode off xs s).exec.groups = s.exec.groups := by
  unfold spadStored
  induction xs generalizing s with
  | nil => rfl
  | cons x xs ih => exact (ih _).trans rfl
end

/-- Some bytes of scratchpad written at their places change those bytes of one allocation only. -/
theorem findAlloc_spadStored {s : State} {core k mode off : Nat} {own y : PlaceSrc} {xs : List (Nat × Byte)} {al : Alloc}
    (h : findAlloc s core y = some al) :
    ∃ bl, findAlloc (spadStored k own mode off xs s) core y = some bl ∧
      bl.base = al.base ∧ bl.size = al.size ∧
      ∀ p, (core ≠ k ∨ y ≠ own ∨ ∀ z ∈ xs, p ≠ swizzle mode (off + z.1)) → bl.read p = al.read p := by
  induction xs generalizing s al with
  | nil => exact ⟨al, h, rfl, rfl, fun _ _ => rfl⟩
  | cons x xs ih =>
    obtain ⟨bl, hbl, hbase, hsize, hread⟩ := findAlloc_spadWrite (k := k) (own := own) (mode := mode) (a := off + x.1) (b := x.2) h
    obtain ⟨cl, hcl, hbase', hsize', hread'⟩ := ih hbl
    refine ⟨cl, hcl, hbase'.trans hbase, hsize'.trans hsize, fun p hp => ?_⟩
    have hxs := hp.imp_right (Or.imp_right fun hz z hmem => hz z (List.mem_cons_of_mem _ hmem))
    have hx := hp.imp_right (Or.imp_right fun hz => hz x List.mem_cons_self)
    exact (hread' p hxs).trans (hread p hx)

theorem findGroup_examine (s : State) (gid : Nat) :
    findGroup (examine s) gid = (findGroup s gid).map fun g => { g with paths := g.paths.map (Path.examined s g) } := by
  unfold findGroup examine
  simp only [State.onExec_exec]
  rw [List.find?_map]
  rfl

section

variable {s : State} {op x mode n k off : Nat} {cl : Bool} {own : PlaceSrc} {o : Op} {u : Nat × Dword × Nat}

/-- A store's access at its bank writes its bytes at their places, and watches are examined (R284, R294). -/
theorem unitDone_spadStore (h : findOp s op = some o) (hk : o.kind = .spadStore cl mode n) (hat : o.spadAt s u.2 = some (k, own, off)) :
    ∃ f : Op → Op, unitDone s op (x % 64) (x / 64) u.2 =
      updOp (examine (spadStored k own mode off (o.keptBytes n (x % 64) u.2) s)) op f := by
  refine ⟨fun o => { o with parts := o.parts ++ [(x % 64, x / 64, 0)] }.laneOver (x % 64), ?_⟩
  have hspad : o.kind.spad = true := by rw [hk]; rfl
  have hperform : performUnit s o (x % 64) u.2 = 
      .ok (examine (spadStored k own mode off (o.keptBytes n (x % 64) u.2) s), 0) := by
    unfold performUnit
    dsimp only
    rw [if_pos hspad]
    unfold spadUnit
    rw [hat]
    dsimp only
    rw [hk]
    rfl
  have hlower : lowerMeets o o.faulted (x % 64) = false := by
    unfold lowerMeets
    rw [hk]
  unfold unitDone
  rw [h]
  dsimp only
  rw [hlower, if_neg Bool.false_ne_true, if_pos hspad, hperform]

end

/-- Settles O52: the issue keeps every byte, and an access writes at its swizzled places only. -/
theorem scratchpadStoreFrame : Obligations.ScratchpadStoreFrame := by
  unfold Obligations.ScratchpadStoreFrame
  refine ⟨?_, ?_⟩
  · simp only [List.forall_mem_cons, List.not_mem_nil, IsEmpty.forall_iff, implies_true, and_true]
    have hissue : ∀ {s t : State}, DataKept s t → SameMemory s t ∧ t.memory = s.memory ∧ t.exec.allocs = s.exec.allocs ∧
        ∀ gid g, findGroup s gid = some g → ∃ u, findGroup t gid = some u ∧
          u.vregs = g.vregs ∧ u.sregs = g.sregs ∧ u.preds = g.preds ∧ u.trap = g.trap := by
      intro s t h
      refine ⟨physByte_congr h.mem h.memory h.mysko, h.memory, h.allocs, fun gid g hg => ?_⟩
      obtain ⟨v, hv, hregs⟩ := h.groups gid g hg
      exact ⟨v, hv, hregs.vregs, hregs.sregs, hregs.preds, hregs.trap⟩
    exact ⟨fun f s sl t hi hlast h => hissue (issueSpadStore_dataKept hi hlast h),
      fun f s sl t hi hlast h => hissue (issueSpadStore_dataKept hi hlast h)⟩
  · intro s op x mode n k off cl own o u h hk hu hr hat
    obtain ⟨f, hdone⟩ := unitDone_spadStore (x := x) h hk hat
    have hexec := exec_homeSliceAccess_one h (by simp [hk]) (by unfold Op.withUnit; rw [hk]) hu hr (.inl (by rw [hk]; rfl))
    rw [hdone] at hexec
    let w := spadStored k own mode off (o.keptBytes n (x % 64) u.2) s
    have hend := accessEnd_dataKept (updOp (examine w) op f) op
    refine ⟨_, hexec, physByte_congr (hend.mem.trans (spadStored_mem ..)) (hend.memory.trans (spadStored_memory ..))
      (hend.mysko.trans (spadStored_mysko ..)), hend.memory.trans (spadStored_memory ..), ?_, ?_⟩
    · intro core y a ha
      obtain ⟨b, hb, hbase, hsize, hread⟩ := findAlloc_spadStored (k := k) (own := own) (mode := mode) (off := off)
        (xs := o.keptBytes n (x % 64) u.2) ha
      refine ⟨b, ?_, hbase, hsize, hread⟩
      unfold findAlloc at hb ⊢
      rw [hend.allocs]
      exact hb
    · intro gid g hg
      have hexamined : findGroup (updOp (examine w) op f) gid = some { g with paths := g.paths.map (Path.examined w g) } := by
        have hw : findGroup w gid = some g := by
          unfold findGroup at hg ⊢
          rw [spadStored_groups]
          exact hg
        exact (findGroup_examine w gid).trans (by rw [hw]; rfl)
      obtain ⟨v, hv, hregs⟩ := hend.groups gid _ hexamined
      exact ⟨v, hv, hregs.vregs, hregs.sregs, hregs.preds, hregs.trap⟩

/-! A line that the L2 holds writable, alone in its tag and in its frame (R88, R111). -/

/-- The L2 holds line `n` of a context as `l`, writable and whole, and no other line of its tag and number or of its frame. -/
structure LineHeld (s : State) (c n : Nat) (l : L2Line) : Prop where
  found : ∀ off, off / 128 = n → l2Find s c off = some l
  writable : l.w = true
  full : l.data.length = 128
  alone : ∀ y ∈ s.memory.l2, y.table = false → y.tag = l.tag → y.line = l.line → y = l
  frame : ∀ y ∈ s.memory.l2, y.frame = l.frame → y = l

/-- A line after a byte written at place `i` of it. -/
def linePut (i : Nat) (b : Byte) (l : L2Line) : L2Line := { l with dirty := true, data := l.data.set i b }

theorem l2Find_line {s : State} {c off off' : Nat} (h : off / 128 = off' / 128) : l2Find s c off = l2Find s c off' := by
  unfold l2Find
  rw [h]

section

variable {s t : State} {c n i : Nat} {l : L2Line} {b : Byte}

theorem LineHeld.mem (h : LineHeld s c n l) : l ∈ s.memory.l2 :=
  List.mem_of_find?_eq_some (h.found (128 * n) (Nat.mul_div_cancel_left n (by decide)))

theorem LineHeld.not_table (h : LineHeld s c n l) : l.table = false := by
  have hfound := List.find?_some (h.found (128 * n) (Nat.mul_div_cancel_left n (by decide)))
  simp only [Bool.and_eq_true, Bool.not_eq_true'] at hfound
  exact hfound.1.1

/-- Only the line itself is changed with it. -/
theorem LineHeld.hit_iff (h : LineHeld s c n l) {y : L2Line} (hy : y ∈ s.memory.l2) :
    (!y.table && y.tag == l.tag && y.line == l.line) = true ↔ y = l := by
  constructor
  · simp only [Bool.and_eq_true, Bool.not_eq_true', beq_iff_eq]
    rintro ⟨⟨htable, htag⟩, hline⟩
    exact h.alone y hy htable htag hline
  · rintro rfl
    simp [h.not_table]

/-- Another state with the same lines holds the line too. -/
theorem LineHeld.of_l2 (h : LineHeld s c n l) (hl2 : t.memory.l2 = s.memory.l2) : LineHeld t c n l := by
  refine ⟨fun off hoff => ?_, h.writable, h.full, ?_, ?_⟩
  · rw [← h.found off hoff]
    unfold l2Find
    rw [hl2]
  · rw [hl2]
    exact h.alone
  · rw [hl2]
    exact h.frame

/-- The bytes of a line alone in its frame are those of the frame. -/
theorem LineHeld.frameLine_eq (h : LineHeld s c n l) : frameLine s l.frame = some l := by
  have hfind : ∀ p : L2Line → Bool, (∀ y, p y = true → y.frame = l.frame) → p l = true → s.memory.l2.find? p = some l := by
    intro p hp hl
    cases hf : s.memory.l2.find? p with
    | none => exact absurd hl (List.find?_eq_none.mp hf l h.mem)
    | some y => rw [h.frame y (List.mem_of_find?_eq_some hf) (hp y (List.find?_some hf))]
  unfold frameLine
  cases hdirty : s.memory.l2.find? fun y => y.frame == l.frame && y.dirty with
  | some y =>
    have hframe := List.find?_some hdirty
    simp only [Bool.and_eq_true, beq_iff_eq] at hframe
    rw [h.frame y (List.mem_of_find?_eq_some hdirty) hframe.1]
  | none => exact hfind _ (fun y hy => by simpa using hy) (by simp)

theorem LineHeld.put (h : LineHeld s c n l) (i : Nat) (b : Byte) :
    LineHeld (l2Upd s l (linePut i b)) c n (linePut i b l) := by
  have hmem : ∀ y ∈ (l2Upd s l (linePut i b)).memory.l2, ∃ z ∈ s.memory.l2,
      y = if !z.table && z.tag == l.tag && z.line == l.line then linePut i b z else z := by
    intro y hy
    obtain ⟨z, hz, hzy⟩ := List.mem_map.mp hy
    exact ⟨z, hz, hzy.symm⟩
  have hcase : ∀ y ∈ (l2Upd s l (linePut i b)).memory.l2, y = linePut i b l ∨ y ∈ s.memory.l2 ∧ y ≠ l := by
    intro y hy
    obtain ⟨z, hz, rfl⟩ := hmem y hy
    split
    · next hhit =>
      rw [(h.hit_iff hz).mp hhit]
      exact .inl rfl
    · next hno => exact .inr ⟨hz, fun heq => hno ((h.hit_iff hz).mpr heq)⟩
  refine ⟨fun off hoff => ?_, h.writable, by simpa [linePut] using h.full, ?_, ?_⟩
  · have hfound := h.found off hoff
    unfold l2Find l2Upd at *
    simp only [State.onMemory_memory]
    rw [List.find?_map]
    have hkey : (fun y : L2Line => !y.table && y.line == off / 128 && (y.tag == c || (y.tag == 16 && y.users.contains c))) ∘
        (fun y => if !y.table && y.tag == l.tag && y.line == l.line then linePut i b y else y) =
        fun y => !y.table && y.line == off / 128 && (y.tag == c || (y.tag == 16 && y.users.contains c)) := by
      funext y
      simp only [Function.comp_apply]
      split <;> rfl
    rw [hkey, hfound, Option.map_some, if_pos ((h.hit_iff h.mem).mpr rfl)]
  · intro y hy htable htag hline
    rcases hcase y hy with rfl | ⟨hys, hne⟩
    · rfl
    · exact absurd (h.alone y hys htable htag hline) hne
  · intro y hy hframe
    rcases hcase y hy with rfl | ⟨hys, hne⟩
    · rfl
    · exact absurd (h.frame y hys hframe) hne

/-- A line changed alone in its frame leaves every other frame. -/
theorem LineHeld.frameLine_other (h : LineHeld s c n l) {f : Nat} (hf : f ≠ l.frame) :
    frameLine (l2Upd s l (linePut i b)) f = frameLine s f := by
  have hfind : ∀ p : L2Line → Bool, (∀ y, p y = true → y.frame = f) →
      (l2Upd s l (linePut i b)).memory.l2.find? p = s.memory.l2.find? p := by
    intro p hp
    have hfixed : ∀ y ∈ s.memory.l2, p y = true →
        (if !y.table && y.tag == l.tag && y.line == l.line then linePut i b y else y) = y := by
      intro y hy hpy
      exact if_neg fun hhit => hf ((hp y hpy).symm.trans (by rw [(h.hit_iff hy).mp hhit]))
    have hsame : ∀ y ∈ s.memory.l2, p (if !y.table && y.tag == l.tag && y.line == l.line then linePut i b y else y) = p y := by
      intro y hy
      split
      · next hhit =>
        have hyl := (h.hit_iff hy).mp hhit
        have hno : ∀ z : L2Line, z.frame = l.frame → p z = false := fun z hz =>
          Bool.eq_false_iff.mpr fun hpz => hf ((hp z hpz).symm.trans hz)
        rw [hno y (by rw [hyl]), hno _ (by rw [hyl]; rfl)]
      · rfl
    unfold l2Upd
    simp only [State.onMemory_memory]
    generalize s.memory.l2 = ys at hfixed hsame
    induction ys with
    | nil => rfl
    | cons y ys ih =>
      have hy := hsame y List.mem_cons_self
      rw [List.map_cons, List.find?_cons, List.find?_cons, hy,
        ih (fun z hz => hfixed z (List.mem_cons_of_mem _ hz)) (fun z hz => hsame z (List.mem_cons_of_mem _ hz))]
      cases hpy : p y with
      | true => rw [hfixed y List.mem_cons_self hpy]
      | false => rfl
  unfold frameLine
  rw [hfind _ (fun y hy => by simpa using (Bool.and_eq_true_iff.mp hy).1), hfind _ (fun y hy => by simpa using hy)]

/-- A byte written in a line held alone changes one byte of physical memory. -/
theorem LineHeld.physByte_put (h : LineHeld s c n l) (hi : i < 128) (p : Nat) :
    physByte (l2Upd s l (linePut i b)) p = if p = 128 * l.frame + i then b else physByte s p := by
  unfold physByte
  by_cases hp : p / 128 = l.frame
  · have hnew := (h.put i b).frameLine_eq
    have hframe : (linePut i b l).frame = l.frame := rfl
    rw [hframe] at hnew
    rw [hp, hnew, h.frameLine_eq]
    dsimp only [linePut]
    have hlen : i < l.data.length := by rw [h.full]; exact hi
    by_cases hpi : p % 128 = i
    · rw [if_pos (by omega), hpi]
      simp [List.getD_eq_getElem?_getD, hlen]
    · rw [if_neg (by omega)]
      simp [List.getD_eq_getElem?_getD, Ne.symm hpi]
  · rw [h.frameLine_other hp, if_neg (by omega)]
    rfl

end

/-! Bytes stored in a line held (R88, R94, R111). -/

/-- A state with another's memory behind the L2, its lines and its groups, allocations and operations. -/
structure LinesKept (s t : State) : Prop where
  mem : t.mem = s.mem
  l2 : t.memory.l2 = s.memory.l2
  mysko : t.mysko = s.mysko
  exec : t.exec = s.exec

theorem LinesKept.refl (s : State) : LinesKept s s := ⟨rfl, rfl, rfl, rfl⟩

theorem LinesKept.trans {s t u : State} (h : LinesKept s t) (k : LinesKept t u) : LinesKept s u :=
  ⟨k.mem.trans h.mem, k.l2.trans h.l2, k.mysko.trans h.mysko, k.exec.trans h.exec⟩

theorem LinesKept.foldl {α : Type} {f : State → α → State} (hf : ∀ s x, LinesKept s (f s x)) (xs : List α) (s : State) :
    LinesKept s (xs.foldl f s) := by
  induction xs generalizing s with
  | nil => exact .refl s
  | cons x xs ih => exact (hf s x).trans (ih _)

theorem LinesKept.sameMemory {s t : State} (h : LinesKept s t) : SameMemory s t := by
  intro a
  unfold physByte frameLine State.memRead
  rw [h.mem, h.l2, h.mysko]

theorem recallOwned_linesKept (s : State) (tag line : Nat) (keep : Option Nat) : LinesKept s (recallOwned s tag line keep) :=
  .foldl (fun s _ => by split <;> exact ⟨rfl, rfl, rfl, rfl⟩) _ s

theorem l1Recall_linesKept (s : State) (tag line : Nat) (keep : Option Nat) : LinesKept s (l1Recall s tag line keep) :=
  (recallOwned_linesKept s tag line keep).trans ⟨rfl, rfl, rfl, rfl⟩

theorem touchLine_linesKept (s : State) (c line party : Nat) : LinesKept s (touchLine s c line party) := ⟨rfl, rfl, rfl, rfl⟩

theorem snoop_linesKept (s : State) (c off n : Nat) (keep : Option Nat) : LinesKept s (snoop s c off n keep) := by
  have hone : ∀ (s : State) line, LinesKept s (l1Recall (l1Recall s c line keep) 16 line keep) := fun s line =>
    (l1Recall_linesKept s _ _ _).trans (l1Recall_linesKept _ _ _ _)
  unfold snoop
  dsimp only
  split
  · exact hone s _
  · exact (hone s _).trans (hone _ _)

section

variable {s : State} {c n : Nat} {l : L2Line}

/-- A line held writable is present for a write (R88). -/
theorem l2EnsureFor_held (h : LineHeld s c n l) {off : Nat} (hoff : off / 128 = n) (whole : Bool) :
    l2EnsureFor s c off .write whole = .ok (s, l) := by
  unfold l2EnsureFor
  rw [h.found off hoff]
  exact if_pos h.writable

theorem canWrite_held (h : LineHeld s c n l) (whole : Nat → Bool) {off m : Nat} (hoff : ∀ j < m, (off + j) / 128 = n) :
    canWrite s c whole off m = .ok s := by
  induction m generalizing off with
  | zero => rfl
  | succ m ih =>
    have h0 : off / 128 = n := hoff 0 (Nat.succ_pos m)
    unfold canWrite
    rw [l2EnsureFor_held h h0]
    exact ih fun j hj => by rw [← hoff (j + 1) (Nat.succ_lt_succ hj)]; congr 1; omega

/-- A byte stored in a line held is put into it, and no table line of its frame is there to leave. -/
theorem storeByte_held (h : LineHeld s c n l) {off : Nat} (hoff : off / 128 = n) (b : Byte) :
    storeByte s c off b = .ok (l2Upd s l (linePut (off % 128) b)) := by
  have hput := h.put (off % 128) b
  have hkept : ((l2Upd s l (linePut (off % 128) b)).memory.l2.filter fun y =>
      !(y.table && y.frame == l.frame && (y.tag == c || l.users.contains y.tag))) = (l2Upd s l (linePut (off % 128) b)).memory.l2 := by
    refine List.filter_eq_self.mpr fun y hy => ?_
    by_cases hframe : y.frame = l.frame
    · rw [hput.frame y hy hframe]
      simp [hput.not_table]
    · simp [hframe]
  unfold storeByte l2Ensure
  rw [l2EnsureFor_held h hoff]
  dsimp only
  refine congrArg Except.ok ?_
  show (l2Upd s l (linePut (off % 128) b)).onMemory (fun m => { m with l2 := m.l2.filter _ }) = _
  unfold State.onMemory
  dsimp only
  rw [hkept]

/-- Bytes stored in a line held, at places of their own, change those bytes of the line's frame only. -/
theorem storeSome_held {xs : List (Nat × Byte)} (h : LineHeld s c n l) (hxs : ∀ x ∈ xs, x.1 / 128 = n) :
    ∃ t, storeSome s c xs = .ok t ∧ t.exec = s.exec ∧
      (∀ p, (∀ x ∈ xs, p ≠ 128 * l.frame + x.1 % 128) → physByte t p = physByte s p) ∧
      (xs.Pairwise (fun x y => x.1 ≠ y.1) → ∀ x ∈ xs, physByte t (128 * l.frame + x.1 % 128) = x.2) := by
  induction xs generalizing s l with
  | nil => exact ⟨s, rfl, rfl, fun _ _ => rfl, fun _ x hx => absurd hx List.not_mem_nil⟩
  | cons x xs ih =>
    have hx := hxs x List.mem_cons_self
    have hlt : x.1 % 128 < 128 := Nat.mod_lt _ (by decide)
    obtain ⟨t, ht, hexec, hother, hstored⟩ := ih (h.put (x.1 % 128) x.2) fun y hy => hxs y (List.mem_cons_of_mem _ hy)
    refine ⟨t, ?_, hexec, fun p hp => ?_, fun hpair y hy => ?_⟩
    · unfold storeSome
      rw [storeByte_held h hx]
      exact ht
    · rw [hother p fun y hy => hp y (List.mem_cons_of_mem _ hy), h.physByte_put hlt, if_neg (hp x List.mem_cons_self)]
    · obtain ⟨hhead, htail⟩ := List.pairwise_cons.mp hpair
      rcases List.mem_cons.mp hy with rfl | hy
      · refine (hother _ fun z hz => ?_).trans ?_
        · have hz128 := hxs z (List.mem_cons_of_mem _ hz)
          have hne := hhead z hz
          show 128 * l.frame + y.1 % 128 ≠ 128 * l.frame + z.1 % 128
          omega
        · rw [h.physByte_put hlt, if_pos rfl]
      · exact hstored htail y hy

end

/-! The bytes of a lane's access (R98, R99). -/

theorem getElem?_leBytes {n v k : Nat} (h : k < n) : (leBytes n v)[k]? = some (BitVec.ofNat 8 (v / 256 ^ k)) := by
  induction n generalizing v k with
  | zero => exact absurd h (Nat.not_lt_zero k)
  | succ n ih =>
    unfold leBytes
    cases k with
    | zero => simp
    | succ k =>
      rw [List.getElem?_cons_succ, ih (Nat.lt_of_succ_lt_succ h), Nat.div_div_eq_div_mul, Nat.pow_succ', ]

section

variable {o : Op} {n i : Nat} {u : Dword × Nat}

/-- A kept byte lies in its access, and is the lane's at its place. -/
theorem mem_keptBytes {y : Nat × Byte} (hy : y ∈ o.keptBytes n i u) :
    y.1 < u.2 ∧ y.2 = BitVec.ofNat 8 ((o.data.get i).toNat / 256 ^ ((u.1 - o.addrs.get i).toNat + y.1)) := by
  unfold Op.keptBytes at hy
  obtain ⟨hzip, -⟩ := List.mem_filter.mp hy
  obtain ⟨k, hk, rfl⟩ := List.mem_iff_getElem.mp hzip
  rw [List.getElem_zip]
  simp only [List.length_zip, List.length_range, List.length_drop, lt_min_iff] at hk
  obtain ⟨hk, hdrop⟩ := hk
  refine ⟨by simpa using hk, ?_⟩
  have hlen : (u.1 - o.addrs.get i).toNat + k < n := by
    rw [length_leBytes] at hdrop
    omega
  have hget := getElem?_leBytes (v := (o.data.get i).toNat) hlen
  simp only [List.getElem_range, List.getElem_drop]
  exact Option.some.inj ((List.getElem?_eq_getElem _).symm.trans hget)

/-- The kept bytes stand at places of their own. -/
theorem pairwise_keptBytes (o : Op) (n i : Nat) (u : Dword × Nat) : (o.keptBytes n i u).Pairwise fun x y => x.1 ≠ y.1 := by
  unfold Op.keptBytes
  refine List.Pairwise.filter _ (List.pairwise_iff_getElem.mpr fun j k hj hk hjk => ?_)
  simp only [List.getElem_zip, List.getElem_range]
  omega

end

/-! An access of a store performed (R94, R98, R111, R112). -/

theorem addVeils_dataKept (s : State) (o : Op) (space a n : Nat) : DataKept s (addVeils s o space a n) := by
  unfold addVeils
  split
  · exact .refl s
  · exact .of_groups rfl rfl rfl rfl rfl

theorem vaOk_addVeils (s : State) (o : Op) (space a n c : Nat) (v : Dword) : vaOk (addVeils s o space a n) c v = vaOk s c v := by
  unfold addVeils
  split <;> rfl

theorem vaLocal_addVeils (s : State) (o : Op) (space a n : Nat) (v : Dword) : vaLocal (addVeils s o space a n) v = vaLocal s v := by
  unfold addVeils
  split <;> rfl

section

variable {s : State} {o : Op} {l : L2Line} {u : Dword × Nat} {n i : Nat}

/-- A byte of an access within one line lies in that line, at its place. -/
theorem place_in_line {off m y : Nat} (hline : off % 128 + m ≤ 128) (hy : y < m) :
    (off + y) / 128 = off / 128 ∧ (off + y) % 128 = off % 128 + y := by
  omega

/-- An access of a store to a line held writable stores its kept bytes, and nothing else of memory changes. -/
theorem storeUnit_held (h : LineHeld s o.ctx (vaOffset u.1 / 128) l) (hline : vaOffset u.1 % 128 + u.2 ≤ 128) :
    ∃ t, storeUnit s o n i u = .ok t ∧ t.exec = s.exec ∧
      (∀ p, (∀ y ∈ o.keptBytes n i u, p ≠ 128 * l.frame + vaOffset u.1 % 128 + y.1) → physByte t p = physByte s p) ∧
      ∀ y ∈ o.keptBytes n i u, physByte t (128 * l.frame + vaOffset u.1 % 128 + y.1) = y.2 := by
  have hsnoop := snoop_linesKept s o.ctx (vaOffset u.1) u.2 (o.core s)
  have hplace : ∀ y ∈ o.keptBytes n i u, (vaOffset u.1 + y.1) / 128 = vaOffset u.1 / 128 ∧
      (vaOffset u.1 + y.1) % 128 = vaOffset u.1 % 128 + y.1 := fun y hy => place_in_line hline (mem_keptBytes hy).1
  have hcan := canWrite_held (m := u.2) h (o.coversLine n (vaOwner u.1)) fun j hj => (place_in_line hline hj).1
  obtain ⟨t, ht, hexec, hother, hstored⟩ := storeSome_held (xs := (o.keptBytes n i u).map fun x => (vaOffset u.1 + x.1, x.2))
    (h.of_l2 hsnoop.l2) (by
      intro x hx
      obtain ⟨y, hy, rfl⟩ := List.mem_map.mp hx
      exact (hplace y hy).1)
  have htouched : LinesKept t ((linesOf (vaOffset u.1) u.2).foldl (fun s line => touchLine s o.ctx line (o.party s)) t) :=
    .foldl (fun s line => touchLine_linesKept s o.ctx line (o.party s)) _ t
  have hend := htouched.trans (u := ((linesOf (vaOffset u.1) u.2).foldl (fun s line => touchLine s o.ctx line (o.party s)) t).onMemory
    fun m => { m with pending := m.pending.filter fun b => !(b.op == o.id && rangesMeet b.addr 1 (vaOffset u.1) u.2) })
    ⟨rfl, rfl, rfl, rfl⟩
  refine ⟨_, ?_, hend.exec.trans (hexec.trans hsnoop.exec), fun p hp => ?_, fun y hy => ?_⟩
  · unfold storeUnit
    dsimp only
    rw [hcan]
    dsimp only
    rw [ht]
  · rw [hend.sameMemory p, hother p ?_, hsnoop.sameMemory p]
    intro x hx
    obtain ⟨y, hy, rfl⟩ := List.mem_map.mp hx
    rw [(hplace y hy).2, ← Nat.add_assoc]
    exact hp y hy
  · have hpair : ((o.keptBytes n i u).map fun x => (vaOffset u.1 + x.1, x.2)).Pairwise fun x y => x.1 ≠ y.1 :=
      List.pairwise_map.mpr ((pairwise_keptBytes o n i u).imp fun hne heq => hne (Nat.add_left_cancel heq))
    have hbyte := hstored hpair _ (List.mem_map_of_mem hy)
    dsimp only at hbyte
    rw [(hplace y hy).2, ← Nat.add_assoc] at hbyte
    rw [hend.sameMemory, hbyte]

end

section

variable {s : State} {op x w : Nat} {o : Op} {u : Nat × Dword × Nat} {l : L2Line}

/-- The access of a store at its home, which is neither a load's nor an atomic's, is its stored bytes and the operation's progress. -/
theorem unitDone_store {t : State} (h : findOp s op = some o) (hk : o.kind = .store w) (hok : vaOk s o.ctx u.2.1 = true)
    (hloc : vaLocal s u.2.1 = true)
    (ht : storeUnit (addVeils s o 0 u.2.1.toNat u.2.2) o (2 ^ w) (x % 64) u.2 = .ok t) :
    ∃ f : Op → Op, unitDone s op (x % 64) (x / 64) u.2 = updOp t op f := by
  refine ⟨fun o => { o with parts := o.parts ++ [(x % 64, x / 64, 0)] }.laneOver (x % 64), ?_⟩
  have hspad : o.kind.spad = false := by rw [hk]; rfl
  have htaint : addTaints s o u.2 = s := by
    unfold addTaints
    rw [hk]
    rfl
  have hlower : lowerMeets o o.faulted (x % 64) = false := by
    unfold lowerMeets
    rw [hk]
  have hperform : performUnit (addVeils s o 0 u.2.1.toNat u.2.2) o (x % 64) u.2 = .ok (t, 0) := by
    unfold performUnit
    dsimp only
    rw [hspad, if_neg Bool.false_ne_true, vaOk_addVeils, vaLocal_addVeils, hok, hloc, if_neg (by decide), hk]
    dsimp only
    rw [ht]
  unfold unitDone
  rw [h]
  dsimp only
  rw [hlower, if_neg Bool.false_ne_true, hspad, if_neg Bool.false_ne_true, htaint, hperform]

end

/-- Settles O51: the line held is the only one of its frame, so the bytes put into it are the only ones that change. -/
theorem storePerformedFrame : Obligations.StorePerformedFrame := by
  unfold Obligations.StorePerformedFrame
  intro s op x w o u l h hk hu hr hl hfrom off kept hok hloc hline hfound hw hlen halone hframe
  have hheld : LineHeld (addVeils s o 0 u.2.1.toNat u.2.2) o.ctx (off / 128) l :=
    LineHeld.of_l2 (s := s) ⟨fun off' hoff => (l2Find_line hoff).trans hfound, hw, hlen, halone, hframe⟩
      (congrArg MemSide.l2 (addVeils_dataKept s o _ _ _).memory)
  have hveils := addVeils_dataKept s o 0 u.2.1.toNat u.2.2
  obtain ⟨t, ht, hexec, hother, hstored⟩ := storeUnit_held (n := 2 ^ w) (i := x % 64) hheld hline
  obtain ⟨f, hdone⟩ := unitDone_store (x := x) h hk hok hloc ht
  have hrun := exec_homeSliceAccess_one h (by simp [hk]) (by unfold Op.withUnit; rw [hk]) hu hr (.inr hl)
  rw [hdone] at hrun
  have hend := (updOp_dataKept t op f).trans (accessEnd_dataKept (updOp t op f) op)
  have hbytes := physByte_congr hend.mem hend.memory hend.mysko
  have hsame := physByte_congr hveils.mem hveils.memory hveils.mysko
  refine ⟨_, hrun, fun p hp => ?_, fun y hy => ?_, fun y hy => mem_keptBytes hy, ?_, fun gid g hg => ?_⟩
  · exact (hbytes p).trans ((hother p hp).trans (hsame p))
  · exact (hbytes _).trans (hstored y hy)
  · rw [hend.allocs, hexec, hveils.allocs]
  · obtain ⟨g', hg', hregs⟩ := hveils.groups gid g hg
    have hgt : findGroup t gid = some g' := by
      unfold findGroup at hg' ⊢
      rw [hexec]
      exact hg'
    obtain ⟨v, hv, hregs'⟩ := hend.groups gid g' hgt
    have hkept := hregs.trans hregs'
    exact ⟨v, hv, hkept.vregs, hkept.sregs, hkept.preds, hkept.paths, hkept.trap⟩

end Sys2Proof.Machine

end
